-- ==== Sys2Proof/Word.lean ====
section
/-! DEFINITION. The widths the spec works in (00 R9-R14): bytes, 32-bit indices and 64-bit
registers, and the sparse tables that hold numbered things. -/

namespace Sys2Proof

/-- One byte (00 R11). -/
abbrev Byte := BitVec 8

/-- One 32-bit unit index: PIDX, CIDX and CHEAD wrap modulo 2^32 (04 R129). -/
abbrev W32 := BitVec 32

/-- One 64-bit CSR or header word (00 R14, 05 R153). -/
abbrev Word := BitVec 64

/-- A numbered set of things, as a list of (number, thing) with the numbers strictly rising.
Numbers that are not listed hold nothing, or the default of the reader. -/
abbrev Tab (α : Type) := List (Nat × α)

end Sys2Proof
end

