-- ==== Sys2Proof/Types.lean ====
section
/-! DEFINITION. The records that commands carry and the state holds: entry headers, vault
objects, proposals, credentials, frames. -/

namespace Sys2Proof

/-- The 64-byte entry header W0-W7 (05 R153). `rsvOk` says that every reserved field is 0. -/
structure Header where
  lenUnits : Nat := 0
  opcode : Nat := 0
  chain : Nat := 0
  part : Nat := 0
  mirror : Nat := 0
  rsvOk : Bool := true
  tag : Word := 0
  keyA : Word := 0
  keyB : Word := 0
  inBytes : Nat := 0
  outMax : Nat := 0
  param0 : Word := 0
  param1 : Word := 0
  streamId : Nat := 0
  deriving DecidableEq, Repr

/-- Status and output data of one entry (05 R168). -/
structure Res where
  status : Nat := 0
  out : List Byte := []
  deriving DecidableEq, Repr

/-- One vault object: the header of 11 R319 (HANDLE is part, cls, fam, the slot and gen), its
material, and for a stateful key the leaf index NEXT and the leaf up to which the traversal state
stands (09 R270, 11 R588). -/
structure KeyObj where
  gen : Nat := 1
  part : Nat := 0
  cls : Nat := 0
  fam : Nat := 0
  mat : List Byte := []
  param : Nat := 0
  policy : Nat := 0
  invLead : Nat := 0
  invSecond : Nat := 2 ^ 63
  cap : Nat := 0
  salt : List Byte := []
  link : Option Nat := none
  label : Word := 0
  next : Nat := 0
  travAt : Nat := 0
  /-- Cached authentication nodes and partly built next trees (09 R270). -/
  trav : List Byte := []
  /-- Writes of its cold record (11 R310). -/
  wcount : Nat := 0
  lost : Bool := false
  deriving DecidableEq, Repr

/-- A credential of 12 R366 with its scope: an officer or a client key (12 R351). `role` 0-3 are
the officer roles; a client key has role 4. `index` is the officer index inside its scope. -/
structure Cred where
  role : Nat := 4
  alg : Nat := 1
  key : List Byte := []
  part : Nat := 0
  index : Nat := 0
  /-- Listed in the route card, so that it cannot be removed at run time (12 R352). -/
  card : Bool := false
  deriving DecidableEq, Repr

/-- One proposal of the quorum engine: the 64-byte record of 12 R355 with its state (R360). -/
structure Proposal where
  id : Nat := 0
  kind : Nat := 0
  cls : Nat := 0
  part : Nat := 0
  m : Nat := 2
  nonce : List Byte := []
  devId : Word := 0
  deadline : Nat := 0
  digest : List Byte := []
  /-- 1 = OPEN, 2 = ISSUED (QUO_PINFO.STATE). -/
  state : Nat := 1
  /-- KIND 0: the registers of the image (CSR offsets). -/
  image : List Nat := []
  /-- KIND 1: the opcode and partition proposed. -/
  opcode : Nat := 0
  opPart : Nat := 0
  /-- Approvers counted, as (scope, index). -/
  approvers : List (Nat × Nat) := []
  token : List Byte := []
  /-- This device's pitches at which the proposal and its token expire; in a mirror the pitches left (12 R364). -/
  expires : Nat := 0
  tokenEnd : Nat := 0
  /-- SESSION_ID of the session that proposed it. -/
  session : Nat := 0
  deriving DecidableEq, Repr

/-- One record of the quorum journal (12 R365). -/
structure JRec where
  pitch : Nat := 0
  id : Nat := 0
  event : Nat := 0
  scope : Nat := 0
  index : Nat := 0
  cls : Nat := 0
  status : Nat := 0
  digest8 : List Byte := []
  deriving DecidableEq, Repr

/-- One change of the quorum state as it is mirrored (12 R364): proposals as they now stand, the PROPOSAL_IDs of those
that are final, partitions created and deleted, and run-time credentials enrolled and removed. -/
structure QuorumMirror where
  props : List Proposal := []
  gone : List Nat := []
  partsOn : List Nat := []
  partsOff : List Nat := []
  credsOn : List Cred := []
  credsOff : List Cred := []
  serial : Nat := 0
  deriving DecidableEq, Repr

/-- The quorum state that both devices of a pair share: what its next change is told from. -/
structure QuorumView where
  props : List Proposal := []
  parts : List Nat := [0]
  creds : List Cred := []
  deriving DecidableEq, Repr

/-- One stream context (05 R159-R163). -/
structure Stream where
  slot : Nat := 0
  /-- What tells it from another stream of its slot: the grant order of its first entry. -/
  id : Nat := 0
  sid : Nat := 0
  opcode : Nat := 0
  part : Nat := 0
  mirror : Nat := 0
  /-- MIRROR_CLASS is STATE and honoured (05 R165). -/
  stateClass : Bool := false
  keyA : Word := 0
  keyB : Word := 0
  param0 : Word := 0
  param1 : Word := 0
  /-- The first entry has passed its commit point (05 R160). -/
  opened : Bool := false
  /-- Data absorbed so far, with the nonce or IV and the additional data of the first entry. -/
  iv : List Byte := []
  aad : List Byte := []
  data : List Byte := []
  /-- Data bytes of all entries fetched without refusal (06 R189). -/
  fetched : Nat := 0
  /-- Entries of a build stream (09 R275), template and drawn seed. -/
  entries : Nat := 0
  /-- Entries released, and their data bytes: what `data` holds (05 R167). -/
  done : Nat := 0
  doneBytes : Nat := 0
  template : List Byte := []
  seed : List Byte := []
  /-- Leaf hashes of a build stream (09 R275). -/
  leaves : List Byte := []
  /-- Staging blocks held (06 R197). -/
  blocks : Nat := 0
  /-- Boundary of the release of its latest entry (05 R161, R162). -/
  lastRelease : Nat := 0
  /-- Entries fetched and not yet released. -/
  inFlight : Nat := 0
  /-- It has ended (05 R162); its data stay until its committed entries are released (04 R142). -/
  ended : Bool := false
  deriving DecidableEq, Repr

/-- One mirrored state change (14 R418). -/
inductive Change where
  /-- A creation, attribute change, counter advance or leaf use: the object as it now stands. -/
  | keyPut (slot : Nat) (obj : KeyObj)
  /-- A destruction: the slot and its next generation. -/
  | keyDel (slot gen : Nat)
  /-- A nonce or IV bound to an entry (06 R190), with the session slot, queue number and index, and the
  key's object with its counter advanced. -/
  | bind (session qnum : Nat) (entry : W32) (nonce : List Byte) (slot : Nat) (obj : KeyObj)
  /-- The output of an entry whose state change is made, with the objects that it has created: the handles of a
  creation, the result of a firmware command (07 R223, 14 R426). -/
  | made (session qnum : Nat) (entry : W32) (out : List Byte) (objs : Tab KeyObj)
  /-- A leaf assigned to an entry, with the key's object (09 R270). -/
  | leaf (session qnum : Nat) (entry : W32) (leaf slot : Nat) (obj : KeyObj)
  /-- The entry starts over: what was kept of it holds no more (02 R54). -/
  | unmade (session qnum : Nat) (entry : W32)
  /-- Proposals, approvals, tokens, partitions, officers and client keys (12 R364). -/
  | quorum (q : QuorumMirror)
  /-- One record of the quorum journal (12 R365). -/
  | journal (r : JRec)
  /-- A queue created, resized or reset: slot data of the partner's queue. -/
  | queuePut (session qnum sizeLog2 : Nat) (pidx cidx chead : W32)
  | queueDel (session qnum : Nat)
  /-- A reset, or a destroy (`gone`), has taken effect on a queue at position P (04 R142). -/
  | queueTear (session qnum : Nat) (gone : Bool) (p : W32)
  /-- CIDX of a queue has passed an entry (14 R418). -/
  | queueNext (session qnum : Nat) (cidx : W32)
  /-- Stateful keys are held by the second (`true`) or by the lead (09 R269). -/
  | leafHolder (away : Bool)
  /-- Staging blocks to be reserved for a stream, 0 where it gives them back, and the answer (06 R197). -/
  | staging (session qnum sid blocks : Nat)
  | stagingAns (session qnum sid : Nat) (granted : Bool)
  /-- The root store after ROOT_INIT, ROOT_ASSIGN, ROOT_RESTORE or a seed change (11 R326). -/
  | roots (roots : Tab (List Byte)) (binds : Tab Nat) (seeds : Tab (List Byte))
  /-- The record of a slot is asked for: this device's copy does not read (11 R313); and the answer. -/
  | ask (slot : Nat)
  | answer (slot : Nat) (obj : KeyObj)
  deriving DecidableEq, Repr

/-- The MACsec tag of a secured frame: association number, packet number, SCI and ICV (03 R75, R76). -/
structure SecTag where
  an : Nat := 0
  pn : Nat := 0
  sci : Nat := 0
  icv : List Byte := []
  deriving DecidableEq, Repr

/-- How a frame reached a host port: VLAN ID of its tag, MACsec tag, its destination and source MAC addresses and its
bytes before the payload (from the VLAN tag or EtherType on), whether its FCS was good, whether it is an IP fragment or
carries IPv4 options or IPv6 extension headers, and the FEC codewords corrected and lost since the frame before (03
R73, R75, R80, R122). -/
structure LinkHdr where
  vid : Option Nat := none
  sec : Option SecTag := none
  macs : Nat × Nat := (0, 0)
  head : List Byte := []
  fcsOk : Bool := true
  ipOdd : Bool := false
  fecFixed : Nat := 0
  fecLost : Nat := 0
  deriving DecidableEq, Repr

/-- How a frame leaves a host port: IP address and UDP port of its destination, its source address, its destination
and source MAC addresses, VLAN ID and priority of its tag, its MACsec tag, and the UDP payload; where the frame is
secured, the encrypted bytes from the VLAN tag or EtherType on (03 R73, R75, R85, R86). -/
structure Net where
  dest : Nat := 0
  src : Nat := 0
  macs : Nat × Nat := (0, 0)
  tag : Option (Nat × Nat) := none
  sec : Option SecTag := none
  bytes : List Byte := []
  deriving DecidableEq, Repr

/-- One mirrored session position (14 R413, R418): event 0 open, 1 end, 2 epoch, 3 DSEQ
positions, 4 a handshake about to be answered. -/
structure SessPos where
  slot : Nat := 0
  event : Nat := 0
  sid : Nat := 0
  port : Nat := 0
  part : Nat := 0
  role : Nat := 4
  deviceLevel : Bool := false
  epoch : W32 := 0
  /-- Next device DSEQ not acknowledged by the host, and next host DSEQ to apply. -/
  txNext : W32 := 0
  rxNext : W32 := 0
  maxFrame : Nat := 1400
  /-- Where the host is, the device's address towards it, and the window of its latest ACK (log 83). -/
  dest : Nat := 0
  loc : Nat := 0
  window : Nat := 16
  /-- RHEAD and applied PIDX of each queue number of the session (14 R419, R426). -/
  rheads : List (Nat × W32) := []
  pidxs : List (Nat × W32) := []
  /-- Secret of the epoch (03 R98). -/
  prk : List Byte := []
  deriving DecidableEq, Repr

/-- One record of the bulk copy (14 R435). -/
inductive BulkRec where
  | roots (roots : Tab (List Byte)) (binds : Tab Nat) (seeds : Tab (List Byte))
  | quorum (q : QuorumMirror) (journal : List JRec)
  | session (p : SessPos)
  | queue (session qnum sizeLog2 : Nat) (pidx cidx chead : W32) (tear : Option (Bool × W32))
  | streams (session qnum : Nat) (l : List Stream)
  | object (slot : Nat) (obj : KeyObj)
  /-- Staging blocks that a stream of the source holds (06 R197). -/
  | staging (session qnum sid blocks : Nat)
  deriving DecidableEq, Repr

/-- The job that one device runs for the other (14 R429). -/
structure Forwarded where
  id : Nat := 0
  /-- Session slot, queue number and index of the entry on the device that sends it. -/
  session : Nat := 0
  qnum : Nat := 0
  entry : W32 := 0
  hdr : Header := {}
  input : List Byte := []
  nonce : Option (List Byte) := none
  leaf : Option Nat := none
  /-- The stream context that a chained entry continues. -/
  stream : Option Stream := none
  /-- The result of the state change that the entry has made already (05 R167). -/
  made : Option Res := none
  /-- It has passed its commit point (05 R173). -/
  committed : Bool := false
  deriving DecidableEq, Repr

/-- Record frames of the Tolyr transport that the device sends on a session (03 R110). -/
inductive TolBody where
  | result (qnum : Nat) (entry : W32) (offset total : Nat) (fragment : List Byte)
  | head (qnum : Nat) (chead pidx : W32)
  | ack (cum : W32) (window delay : Nat) (ranges : List (W32 × W32))
  | keyUpdate (epoch : W32) (response : Bool)
  | ping (reply : Bool) (id : Word)
  | close (reason status : Nat)
  | pairMove (moveId : W32) (kind : Nat) (fromDev toDev : Word) (txNext rxNext : W32)
  deriving DecidableEq, Repr

/-- Bodies of rope frames (14 R413). -/
inductive RopeBody where
  | joinHello (devId : Word) (role dir : Nat) (nonce : List Byte)
  | joinAttest (record sig : List Byte)
  | joinKey (kem point : List Byte)
  | heartbeat (mode state pitch : Nat) (acked : Nat × Nat × Nat) (trust : Bool)
  | ack (acked : Nat × Nat × Nat)
  | fence (reason : Nat)
  /-- KIND of PAIR_MOVE, the sessions, and the addresses of each host port: MAC, IPv4, IPv6 link-local, IPv6 global. -/
  | handover (kind : Nat) (sessions : List Nat) (addrs : Tab (List Nat))
  | state (c : Change)
  | head (session qnum : Nat) (chead : W32) (streams : List Stream)
  | sessionPos (p : SessPos)
  | forward (f : Forwarded)
  | forwardResult (id : Nat) (r : Res) (nonce : Option (List Byte))
  | entryUnits (session qnum : Nat) (first : W32) (bytes : List Byte)
  /-- A datagram of a relayed session, to the MAINTENANCE device with its source, or out to a destination. -/
  | relay (port addr : Nat) (datagram : List Byte)
  | bulk (r : BulkRec)
  /-- A replicated object travels as a key pack, none for a destruction (14 R443). -/
  | replicate (op slot gen : Nat) (pack : Option (List Byte))
  | replAck (slot gen : Nat)
  | announce (member : Nat) (second : Bool) (routes : List (Nat × Nat))
  deriving DecidableEq, Repr

/-- How a rope frame reached a port: the fields that 14 R412 fixes, its header's TYPE, CLASS, reserved bytes and
BODY_LEN (none where they are those of the body), the length of its payload (log 95), what disturbs its sealed bytes, and
the FEC codewords corrected and lost since the frame before (14 R412-R416, R446). -/
structure RopeHdr where
  port : Nat := 0
  dst : Nat := 0x02594C5AFFFF
  src : Nat := 0x02594C5A0000
  etherType : Nat := 0x88B5
  vlan : Bool := false
  version : Nat := 1
  type : Option Nat := none
  cls : Nat := 0
  rsv : Nat := 0
  bodyLen : Option Nat := none
  len : Nat := 64
  flips : List Byte := []
  fecFixed : Nat := 0
  fecLost : Nat := 0
  deriving DecidableEq, Repr

/-- How a fabric frame reached a port: its address, tag and header, what disturbs its sealed bytes, and FEC
codewords (14 R439, R440). -/
structure FabHdr where
  port : Nat := 0
  dst : Nat := 0xFFFFFFFFFFFF
  vid : Nat := 0
  etherType : Nat := 0x88B6
  version : Nat := 2
  hops : Nat := 0
  src : Nat := 0
  member : Nat := 0xFFFF
  boot : Nat := 0
  seq : Nat := 0
  flips : List Byte := []
  fecFixed : Nat := 0
  fecLost : Nat := 0
  deriving DecidableEq, Repr

/-- An SMBus transfer: the target address that the host drives, whether it asks for PEC, and whether a PEC byte that it
sent is wrong (18 R546, R550). -/
structure SmbXfer where
  addr : Nat := 0x4C
  pec : Bool := false
  pecBad : Bool := false
  deriving DecidableEq, Repr

/-- What leaves the device. The model keeps it as a list, oldest first (log 3). -/
inductive OutEv where
  /-- One Tolyr record on a session slot, with the epoch and SEQ of its header; `dseq` is `none` when
  unreliable. -/
  | tolyr (session : Nat) (epoch : W32) (seq : Nat) (dseq : Option W32) (b : TolBody) (net : Net)
  /-- One fragment of the ACCEPT of a handshake (03 R89, R91). -/
  | accept (port sid offset total : Nat) (fragment : List Byte) (net : Net)
  /-- A cleartext CLOSE that answers a HELLO (03 R91, R117). -/
  | clearClose (port : Nat) (tag : Nat) (reason status : Nat) (net : Net)
  /-- ARP, NDP, ICMP, LLDP and PFC frames of a host port, and relayed datagrams: kind and argument. -/
  | eth (port : Nat) (kind : Nat) (arg : List Byte) (net : Net)
  /-- A rope frame with the ports it leaves on and its bytes after the EtherType (14 R412, R414). -/
  | rope (cls seq : Nat) (b : RopeBody) (ports : List Nat) (bytes : List Byte)
  /-- A fabric frame to a member, 0xFFFF for all, on a port, with its VLAN ID and its bytes (14 R439, R440). -/
  | fabric (dst hops seq : Nat) (b : RopeBody) (port vid : Nat) (bytes : List Byte)
  /-- A fabric frame of another member passed on through a port to a neighbour, with HOPS raised. -/
  | fabricRelay (dst via hops port : Nat)
  /-- A result of an internal queue written to base memory (13 R392). -/
  | internalResult (slot : Nat) (entry : W32) (res : Res)
  /-- A value a register read or a memory read returned. -/
  | read (v : Word)
  /-- An access answered by an error response (00 R14, 19 R552). -/
  | busError
  /-- A frame of TAMP_OUT: each pair of the mask is high in its own slot and low in the others (15 R451). -/
  | tampOut (pairs : BitVec 8)
  | smbus (bytes : List Byte)
  | smbusNack
  | tap (bytes : List Byte)
  deriving DecidableEq, Repr

end Sys2Proof
end

