-- ==== Sys2Proof/Syntax.lean ====
section
/-! DEFINITION. The commands of the block and the records that they carry. The table of
operations and events gives its rows no operands; the operands here are what the rule named in
each row reads from outside the block (log 5). -/

namespace Sys2Proof

/-- How a unit's segment ends (02 R46). -/
inductive SegVerdict where
  /-- The segment's work ended; `last` when it was the job's last segment. -/
  | ok (last : Bool)
  /-- A lane: how many bytes it processed, and in which bits of its output words the primary was disturbed (06 R176,
  R177). -/
  | lane (bytes : Nat) (flips : List Byte)
  /-- The datapaths of a key engine slot disagree (11 R310). -/
  | mismatch
  /-- A self-check of 08 R243 or 09 R268 failed. -/
  | selfCheck
  /-- The two verify comparators disagree (07 R210). -/
  | disagree
  /-- Attempt budget or sampling exhausted (09 R265, R266). -/
  | exhausted
  /-- The segment ended having rejected this many ML-DSA attempts or RSA candidates. -/
  | rejected (n : Nat)
  deriving DecidableEq, Repr

/-- How the key engine's load ends (11 R310-R313). -/
inductive KeyVerdict where
  | ok
  /-- The duplicated datapaths of the key engine disagree (11 R310). -/
  | mismatch
  /-- The cold record arrives with these disturbances, and the HBM reported no error (11 R313). -/
  | record (flips : List Byte)
  /-- The cold record met an uncorrectable HBM error (11 R313). -/
  | hbmError
  deriving DecidableEq, Repr

/-- What an uncorrectable HBM error hit (16 R481). -/
inductive HbmWhat where
  | coldRecord (slot ke : Nat)
  | firmware
  /-- A ring, inbox, staging or frame buffer read of a job. -/
  | jobData (ctx : Nat)
  deriving DecidableEq, Repr

/-- What the clocks and the memory controller did in one pitch and no rule fixes to the slot: slots that the
patrol scrub took and pages that it finished, whether it is behind 16 GiB per hour, whether cold store
compaction runs (02 R59, R68, 19 R559, R561); 64-byte HBM reads and writes by quarter, instructions retired
and cycles in the summit world by core (16 R488). -/
structure Background where
  scrubSlots : Nat := 0
  compact : Bool := false
  keSlots : List Nat := []
  hbmReads : List Nat := []
  hbmWrites : List Nat := []
  retired : List Nat := []
  summitCycles : List Nat := []
  deriving DecidableEq, Repr

/-- What noise, wear and idle time decide at one pitch boundary: units whose sweep step of the
ending pitch gave a wrong result (with `true` for a mismatch; whether a sweep vector read was
denied is computed), the banks taken for recalibration, and the background of the ending pitch. -/
structure BoundaryEv where
  sweepBad : List (Nat × Bool) := []
  recalibrate : List Nat := []
  background : Background := {}
  deriving DecidableEq, Repr

/-- One IP/UDP datagram as it reaches a port (03 R73, R75, R80). -/
structure Datagram where
  fragment : Bool := false
  options : Bool := false
  checksumOk : Bool := true
  udpPort : Nat := 9640
  hdr : LinkHdr := {}
  /-- IP address × 65,536 + UDP port of the sender, and the IP address it was sent to. -/
  src : Nat := 0
  dst : Nat := 0
  /-- The Tolyr frame (03 R86). -/
  frame : List Byte := []
  deriving DecidableEq, Repr

/-- Kinds of fabric access (13 R400). -/
inductive AccKind where
  | read | write | fetch
  deriving DecidableEq, Repr

/-- One access on the fabric (13 R397-R403, 19 R551-R554): master ID, first byte, length, kind and, for a
write, its bytes. An atomic is a write whose old bytes are returned; its data are those that it stores. -/
structure Access where
  master : Nat := 0
  addr : Nat := 0
  len : Nat := 8
  kind : AccKind := .read
  data : List Byte := []
  atomic : Bool := false
  /-- Job that a master other than a core serves (13 R403). -/
  ctx : Option Nat := none
  deriving DecidableEq, Repr

/-- The half of a CSR that a register write covers (00 R14). -/
inductive Half where
  | whole | low | high
  deriving DecidableEq, Repr

/-- What an on-die detector senses (15 R453, R473): the source, which quantity it is, and its untrimmed value. Source 10:
rail 0-3 (VDD_CORE, VDD_SRAM, VDD_HBM, VDD_GUARD) in mV; 11: the width of a glitch in ns; 12 and 13:
temperature in units of 0.25 degree; 14: deviation from GUARD_OSC in ppm; 15: quantity 0 missing edges, else
deviation in ppm; 16: photodiode code. A source without a threshold takes no value. -/
structure Reading where
  src : Nat
  which : Nat := 0
  value : Int := 0
  deriving DecidableEq, Repr

/-- What the partner's JOIN_ATTEST shows (14 R433). -/
structure Attest where
  devId : Word := 0
  lcs : Nat := 4
  owner : List Byte := []
  policyDigest : List Byte := []
  trk : Bool := false
  role : Nat := 0
  dir : Nat := 0
  member : Nat := 0
  /-- WORLD_MEAS0-WORLD_MEAS2. -/
  meas : List Byte := []
  sig : List Byte := []
  /-- The certificate chains of its identity keys. -/
  certs : List Byte := []
  /-- The partner holds live objects or open sessions (14 R435). -/
  holdsState : Bool := false
  objects : Nat := 0
  deriving DecidableEq, Repr

/-- A FORWARD frame: a job to run, or the result of one (14 R429). -/
inductive FwdMsg where
  | job (f : Forwarded)
  | result (id : Nat) (r : Res) (nonce : Option (List Byte))
  deriving DecidableEq, Repr

/-- The commands of the block, one for each row of the table of operations and events. -/
inductive Instr where
  /-- A rail excursion shorter than 5 µs is judged against TAMPER_THR_VDD by the glitch detectors (R567). -/
  | railExcursionShort (rail : Nat) (mv : Int) (ns : Nat)
  /-- VDD_GUARD appears, so the guard die leaves reset, GUARD_OSC starts and the sampler moves to continuous checking within 1 ms (R454). -/
  | vddGuardAppear (bbramOk : Bool)
  /-- The boot ROM reads SFDP and the preferred slot's card into HBM staging; this completes when the flash data has arrived (R516). -/
  | routeCardSlotRead (readOk : Bool) (octal : Bool) (image : List Byte) (pufOk : Bool) (selfTestFails : List Nat)
  /-- The pitch tick: results are released, contexts are freed and granted, segments start, commits apply, fenced units restart their jobs, and PITCH_COUNT advances (R585). -/
  | pitchBoundary (ev : BoundaryEv)
  /-- An entry's context wait exceeds PITCH_CTXWAIT.LIMIT, so it is refused with NO_CONTEXT (R58). -/
  | contextWaitLimit (slot : Nat)
  /-- A unit finishes a segment's work, checks its outputs and stages the result or state (R46). -/
  | segmentEnd (unit : Nat) (v : SegVerdict)
  /-- An unquoted job's work completes, so it is released at the first eligible boundary (R51). -/
  | jobWorkComplete (ctx : Nat)
  /-- The key engine loads a job's key into its unit, opening a cold record into the hot vault on a cold miss (R312). -/
  | keyLoad (ctx : Nat) (ke : Nat) (v : KeyVerdict)
  /-- An HBM read meets an uncorrectable error; the record is refetched or lost, or the job restarts or the firmware check fails (R481). -/
  | hbmUncorrectableError (addr : Nat) (what : HbmWhat)
  /-- The patrol scrub or a read corrects a single-symbol error, recorded as source 864 (R481). -/
  | hbmCorrectedError (quarter : Nat)
  /-- A lost record fetched from the partner is rewritten, and waiting jobs continue (R313). -/
  | coldRecordRefetched (slot : Nat) (obj : KeyObj)
  /-- A unit's pass is still incomplete 4,000,000 pitches after its previous pass, so the scheduler makes a sweep reservation (R491). -/
  | sweepReservation (unit : Nat)
  /-- 10 s pass after a stream's latest entry with no new entry started, so the stream ends (R162). -/
  | streamTimeout (slot : Nat) (sid : Nat)
  /-- A job has waited 50 ms for randomness that the output cannot serve, so it completes with ENTROPY_FAIL (R171). -/
  | entropyWaitExpiry (ctx : Nat)
  /-- The pool grants a whole reservation in priority order, and the waiting job or consumer proceeds (R297). -/
  | entropyGrant (forJob : Bool)
  /-- A host port link comes up, so LLDP, IPv6 DAD and the announcement of held addresses start (R118). -/
  | linkUp (port : Nat) (mode : Nat)
  /-- A host port link goes down; its sessions do not end (R117). -/
  | linkDown (port : Nat)
  /-- An ARP request for a held address is answered (R79). -/
  | arpRequest (port : Nat) (ip : Nat) (hdr : LinkHdr)
  /-- An NDP neighbour solicitation for a held address is answered (R79). -/
  | neighbourSolicitation (port : Nat) (ip : Nat) (dad : Bool) (hdr : LinkHdr)
  /-- An echo request is answered within the rate limit, or else discarded and counted (R80). -/
  | icmpEcho (port : Nat) (src dst : Nat) (payload : List Byte) (hdr : LinkHdr)
  /-- An IP/UDP datagram is filtered by the fragment, option, checksum and port rules before Tolyr handling (R80). -/
  | udpDatagramReceive (port : Nat) (d : Datagram)
  /-- A complete HELLO step 1 is checked and answered by ACCEPT or by a cleartext CLOSE (R91). -/
  | hello (port : Nat) (src dst : Nat) (ver : Nat) (tag : Nat) (msg : List Byte) (hdr : LinkHdr)
  /-- The host signature is verified, and the session opens in epoch 0 or closes with AUTH_FAIL (R96). -/
  | helloStep3 (port : Nat) (src dst : Nat) (sid : Nat) (msg : List Byte) (hdr : LinkHdr)
  /-- A half-open handshake not completed within 1 s is discarded (R83). -/
  | handshakeTimeout (port : Nat) (tag : Nat)
  /-- A received KEY_UPDATE switches the epoch and is answered, or is taken as the response that completes an update (R103). -/
  | keyUpdate (sess : Nat) (dseq : W32) (epoch : W32) (response : Bool)
  /-- SEQ reaches 2^31 or UPDATE_S elapses, so the device sends a KEY_UPDATE (R102). -/
  | keyUpdateStart (sess : Nat)
  /-- 1 s after a switch, the previous epoch's keys are erased (R104). -/
  | epochGraceExpiry (sess : Nat)
  /-- SEQ reaches 0xFFFF_FFFE before an update completes, so the device sends CLOSE SEQ_EXHAUSTED and ends the session (R105). -/
  | seqExhausted (sess : Nat)
  /-- A RING_WRITE is applied in DSEQ order, writing units and moving PIDX, or closes the session with RING_VIOLATION (R112). -/
  | ringWrite (sess : Nat) (dseq : W32) (qnum : Nat) (units : Nat) (first : W32) (newPidx : W32) (data : List Byte)
  /-- A host ACK acknowledges device frames, takes RTT samples and advances RHEAD (R109). -/
  | tolyrAck (sess : Nat) (cum : W32) (window : Nat) (delayUs : Nat) (ranges : List (W32 × W32))
  /-- An unacknowledged reliable frame is resent, or after MAX_RETX the session ends with TIMEOUT (R109). -/
  | retransmitTimeout (sess : Nat) (dseq : W32)
  /-- A PING with REPLY = 0 is answered with the same PING_ID (R110). -/
  | ping (sess : Nat) (id : Word) (reply : Bool)
  /-- After IDLE_S/3 of silence the device sends a PING (R115). -/
  | idlePing (sess : Nat)
  /-- Silence reaches IDLE_S, so the session ends with IDLE (R115). -/
  | idleClose (sess : Nat)
  /-- An authenticated CLOSE from the host ends the session after one NORMAL CLOSE reply (R116). -/
  | close (sess : Nat)
  /-- PAIR_MOVE is repeated every 1 ms until a frame authenticates in the new epoch (R113). -/
  | pairMoveRepeat (sess : Nat)
  /-- The queue manager reads a header and body at CIDX and makes the fetch checks, or enters FETCH_WAIT (R132). -/
  | entryFetch (slot : Nat)
  /-- Allocates a ring and the lowest free slot for a session queue, and returns QID and S (R128). -/
  | createQueue (ctx : Nat)
  /-- Reallocates an idle queue's ring, keeping its indices (R140). -/
  | resizeQueue (ctx : Nat)
  /-- At the next boundary aborts uncommitted entries below P, then moves CHEAD and CIDX to P (R142). -/
  | resetQueue (ctx : Nat)
  /-- Tears the queue down like a reset, then removes it and frees its ring and QNUM (R142). -/
  | destroyQueue (ctx : Nat)
  /-- Returns the queue's state, size and indices (R138). -/
  | queryQueue (ctx : Nat)
  /-- Opcode 0x100: AES-ECB encryption, with optional padding (R184). -/
  | aesEcbEncrypt (ctx : Nat)
  /-- Opcode 0x101: AES-ECB decryption (R184). -/
  | aesEcbDecrypt (ctx : Nat)
  /-- Opcode 0x104: AES-CBC encryption with a device-drawn IV (R184). -/
  | aesCbcEncrypt (ctx : Nat)
  /-- Opcode 0x105: AES-CBC decryption (R184). -/
  | aesCbcDecrypt (ctx : Nat)
  /-- Opcode 0x108: AES-CFB128 encryption (R184). -/
  | aesCfbEncrypt (ctx : Nat)
  /-- Opcode 0x109: AES-CFB128 decryption (R184). -/
  | aesCfbDecrypt (ctx : Nat)
  /-- Opcode 0x10C: AES-OFB encryption (R184). -/
  | aesOfbEncrypt (ctx : Nat)
  /-- Opcode 0x10D: AES-OFB decryption (R184). -/
  | aesOfbDecrypt (ctx : Nat)
  /-- Opcode 0x110: AES-CTR encryption with a formed counter block (R184). -/
  | aesCtrEncrypt (ctx : Nat)
  /-- Opcode 0x111: AES-CTR decryption (R184). -/
  | aesCtrDecrypt (ctx : Nat)
  /-- Opcode 0x118: XTS-AES encryption of whole data units (R184). -/
  | xtsAesEncrypt (ctx : Nat)
  /-- Opcode 0x119: XTS-AES decryption (R184). -/
  | xtsAesDecrypt (ctx : Nat)
  /-- Opcode 0x120: AES-GCM encryption with a device-formed nonce (R184). -/
  | aesGcmEncrypt (ctx : Nat)
  /-- Opcode 0x121: AES-GCM decryption that holds plaintext until the tag verifies (R196). -/
  | aesGcmDecrypt (ctx : Nat)
  /-- Opcode 0x124: AES-GMAC tag generation (R184). -/
  | aesGmacGenerate (ctx : Nat)
  /-- Opcode 0x125: AES-GMAC verification (R196). -/
  | aesGmacVerify (ctx : Nat)
  /-- Opcode 0x128: AES-CCM encryption (R184). -/
  | aesCcmEncrypt (ctx : Nat)
  /-- Opcode 0x129: AES-CCM decryption with hold-until-verify (R196). -/
  | aesCcmDecrypt (ctx : Nat)
  /-- Opcode 0x12C: AES-GCM-SIV encryption (R184). -/
  | aesGcmSivEncrypt (ctx : Nat)
  /-- Opcode 0x12D: AES-GCM-SIV decryption (R196). -/
  | aesGcmSivDecrypt (ctx : Nat)
  /-- Opcode 0x130: AES-KW wrap (R184). -/
  | aesKwWrap (ctx : Nat)
  /-- Opcode 0x131: AES-KW unwrap (R196). -/
  | aesKwUnwrap (ctx : Nat)
  /-- Opcode 0x132: AES-KWP wrap (R184). -/
  | aesKwpWrap (ctx : Nat)
  /-- Opcode 0x133: AES-KWP unwrap (R196). -/
  | aesKwpUnwrap (ctx : Nat)
  /-- Opcode 0x140: ChaCha20-Poly1305 encryption (R184). -/
  | chacha20Poly1305Encrypt (ctx : Nat)
  /-- Opcode 0x141: ChaCha20-Poly1305 decryption with hold-until-verify (R196). -/
  | chacha20Poly1305Decrypt (ctx : Nat)
  /-- Opcode 0x150: TDEA-ECB encryption (R184). -/
  | tdeaEcbEncrypt (ctx : Nat)
  /-- Opcode 0x151: TDEA-ECB decryption (R184). -/
  | tdeaEcbDecrypt (ctx : Nat)
  /-- Opcode 0x154: TDEA-CBC encryption (R184). -/
  | tdeaCbcEncrypt (ctx : Nat)
  /-- Opcode 0x155: TDEA-CBC decryption (R184). -/
  | tdeaCbcDecrypt (ctx : Nat)
  /-- Opcode 0x200: digest of a message (R212). -/
  | hash (ctx : Nat)
  /-- Opcode 0x201: compares a digest with an expected value (R222). -/
  | hashVerify (ctx : Nat)
  /-- Opcode 0x204: SHAKE or cSHAKE output (R212). -/
  | xof (ctx : Nat)
  /-- Opcode 0x210: HMAC generation (R212). -/
  | hmacGen (ctx : Nat)
  /-- Opcode 0x211: HMAC verification (R222). -/
  | hmacVerify (ctx : Nat)
  /-- Opcode 0x214: KMAC generation (R212). -/
  | kmacGen (ctx : Nat)
  /-- Opcode 0x215: KMAC verification (R222). -/
  | kmacVerify (ctx : Nat)
  /-- Opcode 0x218: CMAC generation on a cipher lane (R211). -/
  | cmacGen (ctx : Nat)
  /-- Opcode 0x219: CMAC verification on a cipher lane (R211). -/
  | cmacVerify (ctx : Nat)
  /-- Opcode 0x220: SP 800-108 counter-mode KDF (R217). -/
  | kdfCtr (ctx : Nat)
  /-- Opcode 0x221: SP 800-108 feedback-mode KDF (R217). -/
  | kdfFb (ctx : Nat)
  /-- Opcode 0x222: SP 800-108 double-pipeline KDF (R217). -/
  | kdfDp (ctx : Nat)
  /-- Opcode 0x224: HKDF extract and expand (R217). -/
  | hkdf (ctx : Nat)
  /-- Opcode 0x226: SP 800-56C one-step KDF (R217). -/
  | kdfOnestep (ctx : Nat)
  /-- Opcode 0x228: PBKDF2 with HMAC-SHA-256 (R213). -/
  | pbkdf2HmacSha256 (ctx : Nat)
  /-- Opcode 0x229: PBKDF2 with HMAC-SHA-512 (R213). -/
  | pbkdf2HmacSha512 (ctx : Nat)
  /-- Opcode 0x300: RSA PKCS#1 v1.5 signature with blinding and verify-after-sign (R242). -/
  | rsaSignPkcs1 (ctx : Nat)
  /-- Opcode 0x301: RSA PKCS#1 v1.5 verification (R240). -/
  | rsaVerifyPkcs1 (ctx : Nat)
  /-- Opcode 0x302: RSA-PSS signature (R242). -/
  | rsaSignPss (ctx : Nat)
  /-- Opcode 0x303: RSA-PSS verification (R240). -/
  | rsaVerifyPss (ctx : Nat)
  /-- Opcode 0x304: RSA-OAEP encryption (R236). -/
  | rsaEncryptOaep (ctx : Nat)
  /-- Opcode 0x305: RSA-OAEP decryption with uniform failure reporting (R241). -/
  | rsaDecryptOaep (ctx : Nat)
  /-- Opcode 0x308: unquoted RSA probable-prime key generation (R245). -/
  | rsaKeygen (ctx : Nat)
  /-- Opcode 0x310: ECDSA signature with a random nonce (R242). -/
  | ecdsaSign (ctx : Nat)
  /-- Opcode 0x311: ECDSA verification (R240). -/
  | ecdsaVerify (ctx : Nat)
  /-- Opcode 0x314: EdDSA signature (R242). -/
  | eddsaSign (ctx : Nat)
  /-- Opcode 0x315: EdDSA verification (R240). -/
  | eddsaVerify (ctx : Nat)
  /-- Opcode 0x318: ECDH shared secret, returned or stored (R240). -/
  | ecdh (ctx : Nat)
  /-- Opcode 0x319: X25519 or X448 shared secret (R240). -/
  | xdh (ctx : Nat)
  /-- Opcode 0x31C: elliptic-curve key generation into the vault (R238). -/
  | ecKeygen (ctx : Nat)
  /-- Opcode 0x400: ML-KEM key generation (R262). -/
  | mlkemKeygen (ctx : Nat)
  /-- Opcode 0x401: ML-KEM encapsulation (R262). -/
  | mlkemEncaps (ctx : Nat)
  /-- Opcode 0x402: ML-KEM decapsulation with implicit rejection (R264). -/
  | mlkemDecaps (ctx : Nat)
  /-- Opcode 0x410: ML-DSA key generation (R262). -/
  | mldsaKeygen (ctx : Nat)
  /-- Opcode 0x411: ML-DSA signing within its attempt budget (R266). -/
  | mldsaSign (ctx : Nat)
  /-- Opcode 0x412: ML-DSA verification (R264). -/
  | mldsaVerify (ctx : Nat)
  /-- Opcode 0x420: SLH-DSA key generation (R262). -/
  | slhdsaKeygen (ctx : Nat)
  /-- Opcode 0x421: SLH-DSA signing (R262). -/
  | slhdsaSign (ctx : Nat)
  /-- Opcode 0x422: SLH-DSA verification (R264). -/
  | slhdsaVerify (ctx : Nat)
  /-- Opcode 0x430: one entry of an LMS/HSS key build stream (R275). -/
  | lmsBuild (ctx : Nat)
  /-- Opcode 0x431: LMS/HSS signing with a leaf taken exactly once (R270). -/
  | lmsSign (ctx : Nat)
  /-- Opcode 0x432: LMS/HSS verification (R264). -/
  | lmsVerify (ctx : Nat)
  /-- Opcode 0x434: one entry of an XMSS key build stream (R275). -/
  | xmssBuild (ctx : Nat)
  /-- Opcode 0x435: XMSS or XMSS^MT signing (R270). -/
  | xmssSign (ctx : Nat)
  /-- Opcode 0x436: XMSS verification (R264). -/
  | xmssVerify (ctx : Nat)
  /-- Opcode 0x440: KMAC256 combination of two stored shared secrets (R276). -/
  | hybridCombine (ctx : Nat)
  /-- Opcode 0x600: full-entropy random bytes (R300). -/
  | rngBytes (ctx : Nat)
  /-- Opcode 0x608: returns a 16-byte entropy status (R301). -/
  | entStatus (ctx : Nat)
  /-- Opcode 0x500: creates a symmetric or SECRET key, or a complementary pair (R340). -/
  | keyGenerate (ctx : Nat)
  /-- Opcode 0x504: zeroes the object and advances the slot's generation at the commit point (R334). -/
  | keyDestroy (ctx : Nat)
  /-- Opcode 0x505: tightens a key's policy, cap or label (R321). -/
  | keySetAttr (ctx : Nat)
  /-- Opcode 0x508: returns the object header (R319). -/
  | keyQuery (ctx : Nat)
  /-- Opcode 0x509: returns the public key (R318). -/
  | keyGetPublic (ctx : Nat)
  /-- Opcode 0x510: exports the object as a sealed key pack (R330). -/
  | keyExportPack (ctx : Nat)
  /-- Opcode 0x511: opens a key pack into a new object (R331). -/
  | keyRestorePack (ctx : Nat)
  /-- Opcode 0x520: exports key material under AES-KWP (R332). -/
  | keyWrapExport (ctx : Nat)
  /-- Opcode 0x521: unwraps material into a new object (R332). -/
  | keyUnwrapImport (ctx : Nat)
  /-- Opcode 0x530: derives a key from a bound persistent root (R340). -/
  | keyRootDerive (ctx : Nat)
  /-- Opcode 0x5F0: creates a new domain root on an unkeyed device (R336). -/
  | rootInit (ctx : Nat)
  /-- Opcode 0x5F1: assigns or clears a persistent root slot for a partition (R340). -/
  | rootAssign (ctx : Nat)
  /-- Opcode 0x5F2: exports the root store as a root pack (R333). -/
  | rootBackup (ctx : Nat)
  /-- Opcode 0x5F3: restores the root store from this device's root pack (R336). -/
  | rootRestore (ctx : Nat)
  /-- Opcode 0x700: stages a register image and opens a KIND 0 proposal (R357). -/
  | qPropose (ctx : Nat)
  /-- Opcode 0x701: opens a KIND 1 proposal over an operation digest (R355). -/
  | qProposeOp (ctx : Nat)
  /-- Opcode 0x702: counts an officer's signed approval and issues the token at M (R358). -/
  | qApprove (ctx : Nat)
  /-- Opcode 0x703: withdraws an OPEN proposal (R589). -/
  | qWithdraw (ctx : Nat)
  /-- Opcode 0x704: checks a token and copies the staged image into force at one boundary (R362). -/
  | qCommit (ctx : Nat)
  /-- Opcode 0x705: returns a proposal's record and state (R366). -/
  | qStatus (ctx : Nat)
  /-- Opcode 0x706: returns quorum journal records by sequence number (R589). -/
  | qJournal (ctx : Nat)
  /-- Opcode 0x708: stops non-admin fetching and enters MAINTENANCE once the jobs in flight are released (R39). -/
  | maintEnter (ctx : Nat)
  /-- Opcode 0x709: leaves MAINTENANCE for SERVICE or DEGRADED and returns handed-over sessions (R35). -/
  | maintExit (ctx : Nat)
  /-- Opcode 0x70C: consumes its token and requests the avalanche without a result (R590). -/
  | zeroize (ctx : Nat)
  /-- Opcode 0x710: creates a partition with its seed and officers (R348). -/
  | partCreate (ctx : Nat)
  /-- Opcode 0x711: clears the seed, ends sessions and removes the partition (R350). -/
  | partDelete (ctx : Nat)
  /-- Opcode 0x714: enrols an officer credential (R351). -/
  | officerEnrol (ctx : Nat)
  /-- Opcode 0x715: removes an officer unless quorum would fail (R353). -/
  | officerRemove (ctx : Nat)
  /-- Opcode 0x718: enrols a client key (R351). -/
  | clientEnrol (ctx : Nat)
  /-- Opcode 0x719: removes a client key (R366). -/
  | clientRemove (ctx : Nat)
  /-- Opcode 0x720: exports the registry pack (R367). -/
  | regBackup (ctx : Nat)
  /-- Opcode 0x721: replaces run-time enrolments from a registry pack (R367). -/
  | regRestore (ctx : Nat)
  /-- An OPEN proposal reaches its DEADLINE and becomes EXPIRED (R360). -/
  | proposalDeadlineExpiry (pslot : Nat)
  /-- An issued token's TOKEN_S life passes, so the proposal becomes EXPIRED (R359). -/
  | tokenExpiry (pslot : Nat)
  /-- A write to an RWQ register changes the staged value and voids any proposal whose image covers it (R357). -/
  | stagedRegisterWrite (off : Nat) (v : Word)
  /-- Opcode 0x010: returns cairn log records (R471). -/
  | cairnRead (ctx : Nat)
  /-- Opcode 0x030: checks the hold-up conditions and carries out a life-cycle transition on the guard die (R500). -/
  | lcTransition (ctx : Nat)
  /-- Opcode 0x031: draws a new 32-byte challenge (R501). -/
  | lcChallenge (ctx : Nat)
  /-- A write to the LC_TRIM port programs one factory trim field in TEST (R515). -/
  | lcTrim (index : Nat) (v : W32)
  /-- Opcode 0x020: erases the inactive slot and opens a route card update (R519). -/
  | rcBegin (ctx : Nat)
  /-- Opcode 0x021: programs card data at the next offset (R519). -/
  | rcData (ctx : Nat)
  /-- Opcode 0x022: checks the digest, verifies the card and makes the slot preferred (R519). -/
  | rcFinish (ctx : Nat)
  /-- Opcode 0x800+F: writes the call into the function's inbox and raises its tenant line (R390). -/
  | tenantFunctionCall (ctx : Nat)
  /-- A call without DONE within its time limit completes with UNIT_UNAVAILABLE (R391). -/
  | tenantFunctionTimeout (ctx : Nat)
  /-- A write of WORLD_TF_DONE completes a call, whose result is released at the next boundary, or is rejected (R391). -/
  | worldTfDone (core : Nat) (tf : Nat) (unit : W32)
  /-- A write of QM_IPIDX moves an internal queue's PIDX after the R130 check (R147). -/
  | qmIpidx (core : Option Nat) (slot : Nat) (newPidx : W32)
  /-- WORLD_IQ_CMD OP 1 creates an internal queue for a tenant function (R392). -/
  | worldIqCreate (sizeLog2 : Nat) (tf : Nat)
  /-- WORLD_IQ_CMD OP 2 resets an internal queue under R142 (R392). -/
  | worldIqReset (slot : Nat)
  /-- WORLD_IQ_CMD OP 3 destroys an internal queue under R142 (R392). -/
  | worldIqDestroy (slot : Nat)
  /-- A base-world gateway call enters the summit world at a valid ANCHOR, or raises BAD_GATEWAY (R376). -/
  | belay (core : Nat) (rd : Nat) (rs1 : Nat) (tag : Nat)
  /-- Restores the base context and returns to the base world at wbepc (R379). -/
  | lower (core : Nat) (rs1 : Nat)
  /-- An ANCHOR reached by fall-through, jump or branch raises an illegal-instruction exception (R375). -/
  | anchor (core : Nat)
  /-- A malformed custom-0 word raises an illegal-instruction exception (R375). -/
  | gatewayInstructionIllegal (core : Nat) (word : W32)
  /-- An access to a world CSR is performed, or raises an illegal-instruction exception when not at summit machine level (R374). -/
  | worldCsrAccess (core : Nat) (csr : Nat) (wr : Option Word) (rd : Nat)
  /-- A pending summit source interrupts a core and enters summit machine level at wsivec (R382). -/
  | summitInterrupt (core : Nat)
  /-- A base source raises the base bank's machine external interrupt (R382). -/
  | baseInterrupt (core : Nat)
  /-- A read of WORLD_SCLAIM claims the highest-priority summit source (R383). -/
  | worldSclaim (core : Nat)
  /-- A read of WORLD_BCLAIM claims the highest-priority base source (R383). -/
  | worldBclaim (core : Nat)
  /-- A write of WORLD_SDONE completes a summit source, which is then re-evaluated (R383). -/
  | worldSdone (src : Nat)
  /-- A write of WORLD_BDONE completes a base source (R383). -/
  | worldBdone (src : Nat)
  /-- A trap into summit machine level while TRAPPED = 1 triggers a restart (R385). -/
  | doubleTrap (core : Nat) (cause : Nat) (tval : Word)
  /-- The firmware copy ends, its digest is checked and a parked core starts the firmware (R386). -/
  | summitFirmwareCopyDone (integrityOk : Bool)
  /-- A master's access is checked by the ACU of its port and admitted with attributes, or denied (R400). -/
  | fabricAccess (acc : Access)
  /-- A read of ENT_DATA pops one word, or returns zero and sets EMPTY_RD (R299). -/
  | entDataRead (width64 : Bool) (devMtype : Bool)
  /-- A write of ENT_KAT_IN loads the next KAT input word (R307). -/
  | entKatIn (v : Word)
  /-- At 118.4 µs banks become healthy or quarantined, conditioners enter service or are fenced, and conditioning starts (R293). -/
  | entropyStartupTestsEnd (badBanks : List Nat) (badConds : List Nat)
  /-- A bank closes an APT window and its pending blocks are validated into the pool (R288). -/
  | aptWindowClose (bank : Nat)
  /-- A bank's estimator window ends, and the BIAS and CORR values are updated and judged (R285). -/
  | estimatorWindowClose (bank : Nat) (ones : Nat) (corrs : List Nat)
  /-- An RCT, APT or estimator failure quarantines the bank as F1 (R294). -/
  | healthTestFail (bank : Nat) (cause : Nat) (cell : Nat) (value : Nat)
  /-- A conditioner completes an output block, which becomes pending (R287). -/
  | conditionerBlockDone (cond : Nat) (bank : Nat)
  /-- Clearing SYM_LANE_CTL.EN starts draining and scrubbing a lane (R202). -/
  | laneDisable (n : Nat)
  /-- Setting SYM_LANE_CTL.EN returns an off lane to service, or latches PENDING (R203). -/
  | laneEnable (n : Nat)
  /-- Clearing HASH_CORE_CTL.EN starts draining a hash core (R225). -/
  | hashCoreDisable (n : Nat)
  /-- Setting HASH_CORE_CTL.EN returns a core to service, or latches PENDING (R225). -/
  | hashCoreEnable (n : Nat)
  /-- Clearing PKE_CORE_CTL.EN starts draining a PKE core (R249). -/
  | pkeCoreDisable (n : Nat)
  /-- Setting PKE_CORE_CTL.EN returns a core to service, or latches PENDING (R249). -/
  | pkeCoreEnable (n : Nat)
  /-- Clearing LAT_SLICE_CTL.EN starts draining a slice (R278). -/
  | latSliceDisable (n : Nat)
  /-- Setting LAT_SLICE_CTL.EN returns a slice to service, or latches PENDING (R278). -/
  | latSliceEnable (n : Nat)
  /-- Clearing VAULT_KE_CTL.EN starts draining a key engine slot (R345). -/
  | keSlotDisable (n : Nat)
  /-- Setting VAULT_KE_CTL.EN returns a key engine slot to service, or latches PENDING (R345). -/
  | keSlotEnable (n : Nat)
  /-- A draining unit's last job is released, and its scrub begins (R202). -/
  | unitDrainEnd (unit : Nat)
  /-- A unit's scrub completes; it goes off, or a PENDING enable applies (R203). -/
  | unitScrubEnd (unit : Nat)
  /-- A write of ETH_CFG.MODE takes the link down or brings it up with the latched options (R118). -/
  | ethCfgWrite (port : Nat) (v : Word)
  /-- A write of TOL_SCLOSE ends the named session with reason ADMIN (R115). -/
  | tolSclose (sid : Nat)
  /-- A write of PITCH_CTXWAIT changes the wait limit, which applies also to entries already waiting (R66). -/
  | pitchCtxwaitWrite (v : Word)
  /-- A write of PITCH_PCAP sets a partition's context cap without revoking contexts (R67). -/
  | pitchPcapWrite (v : Word)
  /-- A write of EVC_VALn sets a counter's value (R487). -/
  | evcValWrite (n : Nat) (v : Word)
  /-- A counter passes 2^48 − 1, which sets EVC_OVF and raises source 5 (R486). -/
  | eventCounterOverflow (n : Nat)
  /-- A write to a CSR with no row of its own, applied by access type, including 64-only and W1C handling (R13). -/
  | registerWrite (off : Nat) (half : Half) (v : Word)
  /-- A summit-world write of PWR_DCTL.REQ applies at once and cancels any HELD request (R535). -/
  | pwrReqSummit (dom : Nat) (req : Nat)
  /-- A base-world write of REQ applies, or is HELD by owner or lease (R535). -/
  | pwrReqBase (dom : Nat) (req : Nat)
  /-- A write of PWR_DCTL.CANCEL cancels a HELD request (R535). -/
  | pwrCancel (dom : Nat)
  /-- A summit-world write of PWR_DCTL.OWNER sets a domain's owner world (R534). -/
  | pwrOwnerWrite (dom : Nat) (base : Bool)
  /-- A write of the lease set; a new lease returns a draining base request to HELD (R536). -/
  | pwrLeaseWrite (dom : Nat) (lease : Nat)
  /-- No job holds a segment in the domain, so scrubbing begins (R533). -/
  | domainDrainEnd (dom : Nat)
  /-- The domain's scrub ends; it is gated or switched off, and any PENDING request applies (R533). -/
  | domainScrubEnd (dom : Nat)
  /-- A powering-up domain reaches power good and starts its self-test (R533). -/
  | domainPowerGood (dom : Nat)
  /-- The post-power-up sweep pass ends; units that passed enter service and the others are fenced (R538). -/
  | domainSelfTestEnd (dom : Nat) (bad : List Nat)
  /-- A tamper loop frame check runs; after PIN_N consecutive failures the pin source alarms (R451). -/
  | pinLoopCheck (tampIn : List Byte) (mesh : Option (Bool × Bool)) (reads : List Reading)
  /-- A mesh layer check runs; after MESH_N consecutive failures the mesh source alarms (R452). -/
  | meshCheck (outer inner : Bool) (reads : List Reading)
  /-- An on-die detector leaves its window and raises its source (R453). -/
  | detectorAlarm (reads : List Reading)
  /-- A source leaves alarm and may raise a new event later (R457). -/
  | detectorAlarmClear (src : Nat)
  /-- A detector pair's disagreement lasts longer than DWIN_US and raises the disagreement source (R453). -/
  | disagreementWindowExpiry (cls : Nat) (us : Nat)
  /-- A rope port trains and comes up (R411). -/
  | ropeLinkUp (port : Nat)
  /-- A rope port is lost, as F1; the pair continues on the other port (R416). -/
  | ropePortLost (port : Nat)
  /-- The partner's JOIN_HELLO is received (R433). -/
  | joinHello (hd : RopeHdr) (devId : Word) (role : Nat) (dir : Nat) (nonce : List Byte)
  /-- The partner's attestation is validated, and the join proceeds or is refused (R433). -/
  | joinAttest (hd : RopeHdr) (att : Attest)
  /-- The key agreement frame is processed and the pair keys are derived (R434). -/
  | joinKey (hd : RopeHdr) (kem : List Byte) (point : List Byte)
  /-- The target applies one record of the bulk copy (R435). -/
  | bulk (hd : RopeHdr) (seq : Nat) (r : BulkRec)
  /-- A received HEARTBEAT updates the partner's positions and its live-line trust (R413). -/
  | heartbeat (hd : RopeHdr) (seq : Nat) (mode : Nat) (state : Nat) (pitch : Nat) (acked : Nat × Nat × Nat) (trust : Bool) (holds : Bool) (rttNs : Nat)
  /-- A rope ACK acknowledges mirrored frames and ungates waiting releases, PIDX and CHEAD (R415). -/
  | ropeAck (hd : RopeHdr) (seq : Nat) (acked : Nat × Nat × Nat)
  /-- A frame unacknowledged after 20 µs is resent on every port that is up (R415). -/
  | ropeResendTimeout (cls : Nat) (seq : Nat)
  /-- A port has received no authenticated frame for 300 µs and becomes silent; the failure table is applied (R421). -/
  | portSilence (port : Nat)
  /-- A received FENCE makes the device declare its partner failed (R421). -/
  | fence (hd : RopeHdr) (seq : Nat) (reason : Nat)
  /-- A mirrored state change is applied and acknowledged (R418). -/
  | state (hd : RopeHdr) (seq : Nat) (c : Change)
  /-- A mirrored head advance with stream contexts is applied (R167). -/
  | head (hd : RopeHdr) (seq : Nat) (session : Nat) (qnum : Nat) (chead : W32) (streams : List Stream)
  /-- A mirrored session open, end, epoch or DSEQ position is applied (R418). -/
  | session (hd : RopeHdr) (seq : Nat) (pos : SessPos)
  /-- Mirrored entry units are stored in the partner's ring (R418). -/
  | entryUnits (hd : RopeHdr) (seq : Nat) (session : Nat) (qnum : Nat) (first : W32) (data : List Byte)
  /-- A forwarded job is run in a context of the partner, or a returned result is released by the originator (R429). -/
  | forward (hd : RopeHdr) (seq : Nat) (m : FwdMsg)
  /-- Planned handover or return of sessions and addresses for MAINTENANCE (R431). -/
  | handover (hd : RopeHdr) (seq : Nat) (kind : Nat) (sessions : List Nat) (addrs : Tab (List Nat))
  /-- SMBus commands 0x10–0x13 return temperatures (R546). -/
  | smbusReadTemperature (n : Nat) (x : SmbXfer)
  /-- SMBus commands 0x20–0x24 return rail voltages (R546). -/
  | smbusReadVoltage (n : Nat) (x : SmbXfer)
  /-- The telemetry values are refreshed every 1 ms (R546). -/
  | telemetryRefresh (temps : List Nat) (volts : List Nat)
  /-- An ARP reply resolves a destination, confirms its neighbour cache entry and sends the up to 64 frames that waited for it (R79). -/
  | arpReply (port : Nat) (ip : Nat) (mac : Nat) (hdr : LinkHdr)
  /-- An NDP neighbour advertisement resolves an IPv6 destination and releases its waiting frames, or shows a tentative address duplicate under R78 (R79). -/
  | neighbourAdvertisement (port : Nat) (ip : Nat) (mac : Nat) (hdr : LinkHdr)
  /-- All compute-die rails have been in range for 1 ms, so the PLLs lock, PD02 leaves reset and STARTUP begins (R541). -/
  | mainPowerUp
  /-- A compute-die rail leaves its range or main power is lost, so the device enters VAULT and all compute-die state ends (R35). -/
  | mainPowerLost
  /-- VDD_GUARD disappears, so the bivouac domain runs from VBAT and the sampler returns at once to the battery periods (R454). -/
  | vddGuardDisappear
  /-- Ten consecutive low samples of SYS_RESET_N reset the compute die with cause 3, except in LOCKDOWN or while the guard die holds the compute die in reset (R542). -/
  | sysResetNAssert
  /-- After an avalanche, at the later of the line's release and the clear confirmation, the compute die restarts from the boot ROM into STARTUP, unkeyed (R38). -/
  | systemResetRelease
  /-- Summit firmware commits the token held in QUO_TOK0 and QUO_TOK1 at the next boundary (R362). -/
  | quoCmtGo
  /-- When the old-epoch accesses have retired and caches have been flushed, the new ACU rules bind and EPOCH rises (R405). -/
  | acuEpochSwitch
  /-- An unused life-cycle challenge lapses after 60 s (R501). -/
  | lcChallengeExpiry
  /-- One programming step ends; the hold-up conditions are checked again before the next step or wait (R502). -/
  | antifuseStepComplete
  /-- The hold-up conditions hold again, so a paused transition continues with its next step (R502). -/
  | holdupRestored
  /-- A write of WORLD_SWDOG_KICK restarts the summit watchdog count (R384). -/
  | worldSwdogKick
  /-- A write of WORLD_BWDOG_KICK restarts the base watchdog count (R384). -/
  | worldBwdogKick
  /-- The summit watchdog reaches LIMIT and triggers a summit-world restart (R385). -/
  | summitWatchdogExpiry
  /-- The base watchdog expires, setting EXPIRED and raising source 1 (R384). -/
  | baseWatchdogExpiry
  /-- A write of WORLD_CTL.RESTART triggers a summit-world restart (R385). -/
  | worldCtlRestart
  /-- Summit firmware sets READY, which clears SUMMIT_RESTARTING, or at first boot brings the host ports up (R386). -/
  | worldCtlReady
  /-- A restart not READY within 40 ms starts again, and the third failure is F3 (R387). -/
  | restartTimeout
  /-- A write of ACU_BOOTCMT commits the staged boot ACU rules once (R407). -/
  | acuBootcmt
  /-- A write of ENT_KAT_CTL.START runs a conditioner KAT at the next boundary, or is refused with ERR (R307). -/
  | entKatStart
  /-- A read of ENT_KAT_OUT returns the next digest word (R307). -/
  | entKatOutRead
  /-- PD14 reaches its operating range and the entropy startup sequence begins (R293). -/
  | entropyStartup
  /-- 2 µs after the window close that brings the pool to 4 KiB, OPEN is set (R293). -/
  | entropyOutputOpen
  /-- A write of EVC_CTL.CLEAR sets every event counter to 0 (R495). -/
  | evcCtlClear
  /-- VBAT falls below its limit and raises source 21 (R569). -/
  | vbatLow (mv : Nat)
  /-- The 32.768 kHz crystal stops and raises source 22 (R531). -/
  | xtalStop
  /-- The line is released after its 25 µs assertion (R458). -/
  | avalancheLineRelease
  /-- The compute die confirms over the control link that every target is cleared (R459). -/
  | clearConfirmation
  /-- No confirmation within 50 µs, so the line stays asserted and the compute die is held in reset (R459). -/
  | clearConfirmationTimeout
  /-- With VDD_GUARD stable for 5 ms, the oldest buffer entry is programmed into the log (R468). -/
  | cairnBufferProgram
  /-- A record's programming completes and its buffer entry is freed (R469). -/
  | cairnRecordProgrammed
  /-- JOIN in force on both devices with the link up starts a join with JOIN_HELLO (R433). -/
  | joinStart
  /-- The bulk copy ends, so both devices become paired (R435). -/
  | bulkCopyEnd
  /-- The rope link stays silent for JOIN_WAIT_MS with the live line stopped, so the device takes its addresses and runs unpaired (R436). -/
  | joinWaitExpiry
  /-- Each rope port sends a HEARTBEAT every 100 µs (R421). -/
  | heartbeatTimer
  /-- PAIR_LIVE_IN shows no edge for 10 µs, so the live line counts as stopped (R420). -/
  | liveLineStop
  /-- Gratuitous ARP and neighbour advertisements are repeated 1 ms and 10 ms after takeover (R425). -/
  | addressAnnounceRepeat
  /-- Each fabric member broadcasts ANNOUNCE every 100 ms (R441). -/
  | announceTimer
  /-- 1 s without a duplicate ANNOUNCE resumes REPLICATE (R441). -/
  | fabDupClear
  /-- TAP instruction 0xFF (R521). -/
  | bypass
  /-- TAP instruction 0x01 shifts out 0x1964_08B3 (R521). -/
  | idcode
  /-- TAP instruction 0x02 (R521). -/
  | samplePreload
  /-- TAP instruction 0x00, where the life-cycle state allows it (R521). -/
  | extest
  /-- TAP instruction 0x04, where the life-cycle state allows it (R521). -/
  | clamp
  /-- TAP instruction 0x05, where the life-cycle state allows it (R521). -/
  | highz
  /-- Draws a debug challenge and shifts out DEVICE_ID and CHALLENGE (R521). -/
  | dbgChal
  /-- A debug challenge lapses after 60 s (R523). -/
  | dbgChallengeExpiry
  /-- Shifts out DBG_STAT (R521). -/
  | dbgStatus
  /-- Clears every debug enable (R521). -/
  | dbgDrop
  /-- SMBus command 0x00 returns 0x9640 (R546). -/
  | smbusReadId (x : SmbXfer)
  /-- SMBus command 0x01 returns the mode and flags (R546). -/
  | smbusReadMode (x : SmbXfer)
  /-- SMBus command 0x02 returns the life-cycle state (R546). -/
  | smbusReadLifecycle (x : SmbXfer)
  /-- SMBus command 0x03 returns the boot result (R546). -/
  | smbusReadNvm (x : SmbXfer)
  /-- SMBus block command 0x30 returns the fault summary snapshot (R546). -/
  | smbusReadFaultSummary (x : SmbXfer)
  /-- A write or unlisted command byte is NACKed (R546). -/
  | smbusUnsupportedCommand (x : SmbXfer)
  /-- PAIR_LIVE_IN starts toggling again, so PAIR_STAT.LIVE_IN reads 1 and the line can become trusted again (R422). -/
  | liveLineStart
  /-- VBAT is removed while VDD_GUARD is absent, so the bivouac domain loses all power and the roots are lost (R578). -/
  | backupCellRemove
  /-- Every 30 s an LLDP frame is sent on each port that has LLDP enabled (R72). -/
  | lldpTimer (port : Nat)
  /-- A received LLDP frame is discarded (R72). -/
  | lldpReceive (port : Nat) (hdr : LinkHdr)
  /-- An unresolved destination is solicited again after 1 s, up to three times (R79). -/
  | neighbourResolutionRetry (port : Nat) (ip : Nat)
  /-- A neighbour cache entry expires 300 s after its last confirmation (R79). -/
  | neighbourExpiry (port : Nat) (ip : Nat)
  /-- A received PFC pause stops transmission on its priority (R74). -/
  | pfcPauseReceive (port : Nat) (prio : Nat) (quanta : Nat)
  /-- The receive buffer reaches three-quarters full, so a pause is sent; it is released below half (R74). -/
  | pfcPauseSend (port : Nat) (fillPct : Nat)
  /-- A write of a key handle to ETH_MSEC_KEY installs a MACsec SA, or sets INST_ERR (R76). -/
  | ethMsecKey (port : Nat) (handle : Word)
  /-- A write of TX_AN switches the transmit SA at the next frame boundary (R76). -/
  | ethMsecTxAn (port : Nat) (an : Nat)
  /-- A missing REFCLK_ETH takes its host links down and counts as the loss of its rope port (R531). -/
  | refclkEthLoss (n : Nat)
  /-- A relayed Tolyr datagram of a device-level officer session is carried over the rope link (R431). -/
  | relay (hd : RopeHdr) (seq : Nat) (port : Nat) (src : Nat) (datagram : List Byte)
  /-- A received ANNOUNCE updates routes or detects a duplicate member ID (R441). -/
  | announce (hd : FabHdr) (second : Bool) (fromSelf : Bool) (routes : List (Nat × Nat))
  /-- A fabric route expires 350 ms after its last supporting ANNOUNCE (R441). -/
  | routeExpiry (dst : Nat)
  /-- A received replication stores the object in the same slot and is answered by REPL_ACK (R443). -/
  | replicate (hd : FabHdr) (oper : Nat) (slot : Nat) (gen : Nat) (pack : Option (List Byte))
  /-- A replication acknowledgement ends the retries (R443). -/
  | replAck (hd : FabHdr) (slot : Nat) (gen : Nat)
  /-- An unacknowledged REPLICATE is retried at 10 ms, and given up after three tries (R443). -/
  | replicateRetry (member : Nat) (slot : Nat)
  /-- A fabric frame for another DST is relayed to the next hop, or discarded at HOPS 16 (R441). -/
  | fabricRelay (hd : FabHdr)
  /-- A shifted-in debug token is checked at Update-DR and adds its enables (R523). -/
  | dbgToken (token : List Byte)
  /-- Memory and register access as master 0x1F under the enables in force (R521). -/
  | dbgAccess (acc : Access) (halt : Option Nat)
  /-- Duplicate address detection ends without a duplicate, and the port starts to use the IPv6 address (R78). -/
  | duplicateAddressDetectionEnd (port : Nat)
  /-- The pause time of a received PFC pause frame runs out, and transmission on that priority resumes (R74). -/
  | pfcPauseExpiry (port : Nat) (prio : Nat)
  /-- VBAT appears while VDD_GUARD is absent, which powers the bivouac domain, starts the RTC and checks the BBRAM signature (R454). -/
  | backupCellConnect (bbramOk : Bool)
  /-- A return from summit machine level clears wctl.TRAPPED (R378). -/
  | mret (core : Nat)
  /-- A synchronous exception enters summit machine level and sets wctl.TRAPPED (R378). -/
  | trapEntry (core : Nat) (cause : Nat) (tval : Word)
  /-- The HBM stack passes 85 °C, so the HBM controller doubles its refresh rate, and passing back below it restores the rate (R577). -/
  | hbmTemperatureHigh (high : Bool)
  deriving DecidableEq, Repr

end Sys2Proof
end

