-- ==== Sys2Proof/WellFormed.lean ====
section
/-! DEFINITION. Which commands are well formed: every operand that numbers a piece of the block
stays inside the number of such pieces that 01 R22 and 21 R580 give it. -/

namespace Sys2Proof

/-- Ranges of the operands: 4,096 job contexts (02 R55), 1,536 queue slots (04 R126), 512 sessions
(03 R84), 112 units (16 R489), 8 cores (13 R372), 4 host ports and 2 rope ports (01 R22), 16 banks
and 4 conditioners (10 R282), 20 power domains (18 R532), 64 proposals (12 R360), 32 event counters
(16 R486), 256 tenant functions (13 R389), 32 blocks of 64 KiB of CSR
offsets (19 R555), 64 master IDs (13 R398), 128 interrupt sources (13 R381) and 32 tamper sources (15 R450). -/
def Instr.wf : Instr → Bool
  | .railExcursionShort _ _ _ | .vddGuardAppear _ | .routeCardSlotRead _ _ _ _ _
  | .pitchBoundary _ | .hbmUncorrectableError _ _ | .entropyGrant _ | .lcTrim _ _
  | .summitFirmwareCopyDone _ | .entDataRead _ _ | .entKatIn _ | .entropyStartupTestsEnd _ _
  | .tolSclose _ | .pitchCtxwaitWrite _ | .pitchPcapWrite _ | .detectorAlarm _
  | .disagreementWindowExpiry _ _ | .meshCheck _ _ _ | .joinHello _ _ _ _ _ | .joinAttest _ _ | .joinKey _ _ _ | .bulk _ _ _
  | .ropeAck _ _ _ | .fence _ _ _ | .state _ _ _ | .head _ _ _ _ _ _ | .session _ _ _
  | .entryUnits _ _ _ _ _ _ | .forward _ _ _ | .handover _ _ _ _ _ | .telemetryRefresh _ _ | .mainPowerUp
  | .mainPowerLost | .vddGuardDisappear | .sysResetNAssert | .systemResetRelease | .quoCmtGo
  | .acuEpochSwitch | .lcChallengeExpiry | .antifuseStepComplete | .holdupRestored
  | .worldSwdogKick | .worldBwdogKick | .summitWatchdogExpiry | .baseWatchdogExpiry
  | .worldCtlRestart | .worldCtlReady | .restartTimeout | .acuBootcmt | .entKatStart
  | .entKatOutRead | .entropyStartup | .entropyOutputOpen | .evcCtlClear | .vbatLow _ | .xtalStop
  | .avalancheLineRelease | .clearConfirmation | .clearConfirmationTimeout | .cairnBufferProgram
  | .cairnRecordProgrammed | .joinStart | .bulkCopyEnd | .joinWaitExpiry | .heartbeatTimer
  | .liveLineStop | .addressAnnounceRepeat | .announceTimer | .fabDupClear | .bypass | .idcode
  | .samplePreload | .extest | .clamp | .highz | .dbgChal | .dbgChallengeExpiry | .dbgStatus
  | .dbgDrop
  | .liveLineStart | .backupCellRemove
  | .announce _ _ _ _ | .routeExpiry _ | .fabricRelay _ | .dbgToken _ | .backupCellConnect _
  | .hbmTemperatureHigh _ =>
    true
  | .contextWaitLimit a | .streamTimeout a _ | .entryFetch a | .qmIpidx _ a _ | .worldIqReset a
  | .worldIqDestroy a =>
    decide (a < 1536)
  | .segmentEnd a _ | .sweepReservation a | .unitDrainEnd a | .unitScrubEnd a =>
    decide (a < 112)
  | .jobWorkComplete a | .entropyWaitExpiry a | .createQueue a | .resizeQueue a | .resetQueue a
  | .destroyQueue a | .queryQueue a | .aesEcbEncrypt a | .aesEcbDecrypt a | .aesCbcEncrypt a
  | .aesCbcDecrypt a | .aesCfbEncrypt a | .aesCfbDecrypt a | .aesOfbEncrypt a | .aesOfbDecrypt a
  | .aesCtrEncrypt a | .aesCtrDecrypt a | .xtsAesEncrypt a | .xtsAesDecrypt a | .aesGcmEncrypt a
  | .aesGcmDecrypt a | .aesGmacGenerate a | .aesGmacVerify a | .aesCcmEncrypt a | .aesCcmDecrypt a
  | .aesGcmSivEncrypt a | .aesGcmSivDecrypt a | .aesKwWrap a | .aesKwUnwrap a | .aesKwpWrap a
  | .aesKwpUnwrap a | .chacha20Poly1305Encrypt a | .chacha20Poly1305Decrypt a | .tdeaEcbEncrypt a
  | .tdeaEcbDecrypt a | .tdeaCbcEncrypt a | .tdeaCbcDecrypt a | .hash a | .hashVerify a | .xof a
  | .hmacGen a | .hmacVerify a | .kmacGen a | .kmacVerify a | .cmacGen a | .cmacVerify a
  | .kdfCtr a | .kdfFb a | .kdfDp a | .hkdf a | .kdfOnestep a | .pbkdf2HmacSha256 a
  | .pbkdf2HmacSha512 a | .rsaSignPkcs1 a | .rsaVerifyPkcs1 a | .rsaSignPss a | .rsaVerifyPss a
  | .rsaEncryptOaep a | .rsaDecryptOaep a | .rsaKeygen a | .ecdsaSign a | .ecdsaVerify a
  | .eddsaSign a | .eddsaVerify a | .ecdh a | .xdh a | .ecKeygen a | .mlkemKeygen a
  | .mlkemEncaps a | .mlkemDecaps a | .mldsaKeygen a | .mldsaSign a | .mldsaVerify a
  | .slhdsaKeygen a | .slhdsaSign a | .slhdsaVerify a | .lmsBuild a | .lmsSign a | .lmsVerify a
  | .xmssBuild a | .xmssSign a | .xmssVerify a | .hybridCombine a | .rngBytes a | .entStatus a
  | .keyGenerate a | .keyDestroy a | .keySetAttr a | .keyQuery a | .keyGetPublic a
  | .keyExportPack a | .keyRestorePack a | .keyWrapExport a | .keyUnwrapImport a
  | .keyRootDerive a | .rootInit a | .rootAssign a | .rootBackup a | .rootRestore a | .qPropose a
  | .qProposeOp a | .qApprove a | .qWithdraw a | .qCommit a | .qStatus a | .qJournal a
  | .maintEnter a | .maintExit a | .zeroize a | .partCreate a | .partDelete a | .officerEnrol a
  | .officerRemove a | .clientEnrol a | .clientRemove a | .regBackup a | .regRestore a
  | .cairnRead a | .lcTransition a | .lcChallenge a | .rcBegin a | .rcData a | .rcFinish a
  | .tenantFunctionCall a | .tenantFunctionTimeout a =>
    decide (a < 4096)
  | .keyLoad a b _ =>
    decide (a < 4096) && decide (b < 8)
  | .hbmCorrectedError a | .linkUp a _ | .linkDown a | .arpRequest a _ _
  | .neighbourSolicitation a _ _ _ | .icmpEcho a _ _ _ _ | .udpDatagramReceive a _ | .hello a _ _ _ _ _ _
  | .helloStep3 a _ _ _ _ _ | .handshakeTimeout a _ | .laneDisable a | .laneEnable a | .ethCfgWrite a _
  | .arpReply a _ _ _ | .neighbourAdvertisement a _ _ _ | .lldpTimer a
  | .lldpReceive a _ | .neighbourResolutionRetry a _ | .neighbourExpiry a _ | .pfcPauseSend a _
  | .ethMsecKey a _ | .ethMsecTxAn a _ | .relay _ _ a _ _ | .duplicateAddressDetectionEnd a =>
    decide (a < 4)
  | .coldRecordRefetched a _ | .replicate _ _ a _ _ | .replAck _ a _ | .replicateRetry _ a =>
    decide (a < 2 ^ 24)
  | .keyUpdate a _ _ _ | .keyUpdateStart a | .epochGraceExpiry a | .seqExhausted a
  | .ringWrite a _ _ _ _ _ _ | .tolyrAck a _ _ _ _ | .retransmitTimeout a _ | .ping a _ _
  | .idlePing a | .idleClose a | .close a | .pairMoveRepeat a =>
    decide (a < 512)
  | .proposalDeadlineExpiry a | .tokenExpiry a | .pkeCoreDisable a | .pkeCoreEnable a =>
    decide (a < 64)
  | .stagedRegisterWrite a _ | .registerWrite a _ _ =>
    decide (a < 2 ^ 21)
  | .worldTfDone a b _ =>
    decide (a < 8) && decide (b < 256)
  | .worldIqCreate _ a =>
    decide (a < 256)
  | .belay a b c _ =>
    decide (a < 8) && decide (b < 32) && decide (c < 32)
  | .lower a b | .worldCsrAccess a _ _ b =>
    decide (a < 8) && decide (b < 32)
  | .anchor a | .gatewayInstructionIllegal a _ | .summitInterrupt a | .baseInterrupt a
  | .worldSclaim a | .worldBclaim a | .doubleTrap a _ _ | .keSlotDisable a | .keSlotEnable a
  | .mret a | .trapEntry a _ _ =>
    decide (a < 8)
  | .worldSdone a | .worldBdone a =>
    decide (a < 128)
  | .fabricAccess a | .dbgAccess a _ =>
    decide (a.master < 64)
  | .aptWindowClose a | .estimatorWindowClose a _ _ | .healthTestFail a _ _ _ | .hashCoreDisable a
  | .hashCoreEnable a | .latSliceDisable a | .latSliceEnable a =>
    decide (a < 16)
  | .pinLoopCheck a _ _ => decide (a.length = 8)
  | .conditionerBlockDone a b =>
    decide (a < 4) && decide (b < 16)
  | .evcValWrite a _ | .eventCounterOverflow a | .detectorAlarmClear a =>
    decide (a < 32)
  | .pwrReqSummit a _ | .pwrReqBase a _ | .pwrCancel a | .pwrOwnerWrite a _ | .domainDrainEnd a
  | .domainScrubEnd a | .domainPowerGood a | .domainSelfTestEnd a _ =>
    decide (a < 20)
  | .pwrLeaseWrite a b =>
    decide (a < 20) && decide (b < 256)
  | .ropeLinkUp a | .ropePortLost a | .portSilence a | .refclkEthLoss a =>
    decide (a < 2)
  | .heartbeat h _ _ _ _ _ _ _ _ => decide (h.port < 2)
  | .ropeResendTimeout a _ =>
    decide (a < 3)
  | .smbusReadTemperature a x =>
    decide (a < 4) && decide (x.addr < 128)
  | .smbusReadVoltage a x =>
    decide (a < 5) && decide (x.addr < 128)
  | .smbusReadId x | .smbusReadMode x | .smbusReadLifecycle x | .smbusReadNvm x | .smbusReadFaultSummary x
  | .smbusUnsupportedCommand x =>
    decide (x.addr < 128)
  | .pfcPauseReceive a b _ | .pfcPauseExpiry a b =>
    decide (a < 4) && decide (b < 8)

end Sys2Proof
end

