-- ==== Sys2Proof/Decode.lean ====
section
/-! DEFINITION. Words to commands. The table of operations and events gives none of its rows any
bits, so that no word spells a command. -/

namespace Sys2Proof

/-- The command that a word spells by the table's bits. No row of the table has bits, so there is
none for any word. -/
def decodeTableWord (_nbits _w : Nat) : Option Instr := none

end Sys2Proof
end

