-- ==== Sys2Proof/Config.lean ====
section
/-! DEFINITION. What one implementation fixes and the free values. Every constant here is
opaque: no proof can see its value. -/

namespace Sys2Proof

/-- The primitives of the published standards that 00 R8 names. The spec gives each one's inputs
and the length of its output and leaves the computation to the standard. -/
inductive CryptoFn where
  /-- One block: AES (0), its inverse (3), TDEA (1), its inverse (2), the ChaCha20 block of a counter (4), and
  Poly1305 (5). -/
  | block
  /-- A digest by the ALG code of 07 R208. -/
  | hash
  /-- An extendable output by ALG code (07 R208). -/
  | xof
  /-- HMAC by ALG code (07 R208). -/
  | hmac
  /-- KMAC128 or KMAC256 (SP 800-185). -/
  | kmac
  /-- PBKDF2 (07 R217). -/
  | pbkdf2
  /-- RSA secret-key or public-key operation of 08 R233. -/
  | rsa
  /-- Elliptic-curve operation of 08 R233. -/
  | ecc
  /-- Lattice operation of 09 R260. -/
  | lattice
  /-- Stateless and stateful hash-based signature (09 R257-R259). -/
  | hashSig
  /-- Public part of a secret key. -/
  | publicKey
  /-- Secret key material made from drawn bytes. -/
  | privateKey
  /-- The encoding of an unwrapped key (11 R332). -/
  | keyWrap
  /-- The identity signature of Tolyr and the join (03 R93, 14 R433). -/
  | identity
  /-- X25519: the public value of a scalar (0), the shared secret (1), and its input check (2) (03 R90-R95). -/
  | x25519
  deriving DecidableEq, Repr

/-- Byte `i` of the output of a standard's primitive under numeric parameters and byte-string
inputs. DESIGN CHOICE (log 1): the standards are not restated in the spec. -/
opaque Config.cryptoByte : CryptoFn → List Nat → List (List Byte) → Nat → Byte

/-- The verdict of a standard's check (a signature, a point, an encoding, a tag). DESIGN CHOICE (log 1). -/
opaque Config.cryptoOk : CryptoFn → List Nat → List (List Byte) → Bool

/-- A data-dependent length inside a bound: the recovered OAEP message (08 R237), the parameter set
of an unwrapped key (11 R332). DESIGN CHOICE (log 1). -/
opaque Config.cryptoLen : CryptoFn → List Nat → List (List Byte) → Nat

/-- A value that the spec leaves open: the n-th byte of them, read at `State.freeCtr`. A free value (DESIGN CHOICE,
log 2). -/
opaque Config.freeByte : Nat → Byte

/-- A raw bit of the noise cells (10 R282): the n-th sample that the conditioners take, read at
`State.freeCtr`. A free value (DESIGN CHOICE, log 2). -/
opaque Config.noise : Nat → Bool

/-- Identity CSRs of a core (mvendorid, marchid, mimpid, mconfigptr), whose values no rule gives (log 127). -/
opaque Config.idCsr : Nat → BitVec 64

/-- SYSCTL_ID.STEPPING, silicon-specific (01 R41). -/
opaque Config.stepping : Byte

/-- The reconstructed 256-bit PUF response of this die (11 R327). -/
opaque Config.puf : List Byte

/-- SHA3-256 of the boot ROM, extended into WORLD_MEAS0 (13 R388). -/
opaque Config.bootRomDigest : List Byte

/-- The vendor's key reference in the boot ROM (17 R513). -/
opaque Config.vendorRef : List Byte

/-- The byte a boot ROM address reads as (19 R551); the ROM's contents are the implementation's. -/
opaque Config.romByte : Nat → Byte

/-- The bytes of a frame from its EtherType to its payload, by kind (0 IP and UDP, 1 IP and ICMP, else ARP or NDP),
source, destination, UDP port and payload length: the header fields that the standards leave open and no rule of the
spec gives (03 R75). DESIGN CHOICE (log 85). -/
opaque Config.packetHead : Nat → Nat → Nat → Nat → Nat → List Byte

/-- An address of the partner's host port: 0 its MAC, 1 IPv4, 2 IPv6 link-local, 3 IPv6 global. The spec does not say
how the survivor of a declaration learns them (14 R425; log 21). A free value. -/
opaque Config.peerAddr : Nat → Nat → Nat

end Sys2Proof
end

