-- ==== Sys2Proof/Machine/State.lean ====
section
/-! DEFINITION. The state of the block: every register, FIFO, counter, mode and pin that the spec
names, as plain data, the reasons a step can stop, and the state right after reset. -/

namespace Sys2Proof.Machine

/-- Why a command stops the machine. No meaning of this model raises one: every command of the
spec has an effect, or leaves the state as it is (log 4). -/
inductive Fault where
  /-- Raised by no command; kept so that the type is not empty. Safe. -/
  | none
  deriving DecidableEq, Repr

/-- Why a command is refused by the model. -/
inductive Refusal where
  /-- A row of the table whose meaning has not been written. Safe. -/
  | notModelled (mnemonic : String)
  deriving DecidableEq, Repr

/-- The operating modes of 01 R34, in code order. -/
inductive Mode where
  | vault | startup | service | degraded | maintenance | lockdown
  deriving DecidableEq, Repr

/-- SYSCTL_MODE and the mode machine (01 R34-R39, R42). -/
structure Sys where
  mode : Mode := .startup
  unkeyed : Bool := false
  paired : Bool := false
  summitRestarting : Bool := false
  handedOver : Bool := false
  /-- FENCED, saturating at 255 (01 R42). -/
  fenced : Nat := 0
  /-- Held in STARTUP: no card verified, or SCRAPPED or INVALID (01 R37, 17 R499). -/
  held : Bool := false
  /-- MAINT_ENTER has passed its commit point; the context of its job (01 R39). -/
  maintPending : Option Nat := none
  /-- MAINTENANCE was entered and the sessions are still to be handed to the partner (01 R39, 14 R431). -/
  handDue : Bool := false
  /-- Boot step reached: 0 none, 1 reset left, 4 card verified and applied (17 R516). -/
  bootStep : Nat := 0
  deriving DecidableEq, Repr

/-- The phases of a job between the grant of its context and its release. -/
inductive Phase where
  /-- Context granted, header not yet read (04 R132). -/
  | granted
  /-- Header read, waiting for PIDX to cover the entry (04 R132). -/
  | fetchWait
  /-- Checks passed; waits unstarted (02 R53, 05 R161, 11 R312). -/
  | ready
  /-- Past its commit point (04 R141). -/
  | running
  /-- A random job held between segments (02 R53), or RSA_KEYGEN held (08 R246). -/
  | held
  /-- Status decided; released at the first boundary from `due` on. -/
  | completed
  /-- Sent to the partner (14 R429). -/
  | forwarded
  deriving DecidableEq, Repr

/-- One job context (02 R55) and what the device holds of its job. -/
structure Job where
  slot : Nat := 0
  /-- Index of the header unit. -/
  entry : W32 := 0
  hdr : Header := {}
  input : List Byte := []
  phase : Phase := .granted
  /-- Order of the context grants (02 R47). -/
  order : Nat := 0
  unit : Option Nat := none
  /-- Unit on which the last run failed (02 R47). -/
  badUnit : Option Nat := none
  /-- First-segment boundary of the current count. -/
  started : Nat := 0
  /-- Quota boundary, floor boundary, or the boundary of a refusal's release. -/
  due : Nat := 0
  notBefore : Nat := 0
  keyLoaded : Bool := false
  /-- Bytes that the job draws (02 R53), and those of the reservation still to be granted. -/
  draw : Nat := 0
  entNeed : Nat := 0
  /-- The pool bytes granted to its latest reservation (10 R289). -/
  rnd : List Byte := []
  entSince : Nat := 0
  /-- Salts still to be reserved, and salts reserved (11 R324). -/
  saltNeed : Nat := 0
  saltHeld : Nat := 0
  /-- Class 1 SEQ count that the partner must have applied before release (01 R29). -/
  ackNeed : Nat := 0
  retries : Nat := 0
  /-- Past its commit point (04 R141); a restart leaves it so (04 R146). -/
  committed : Bool := false
  /-- HBM read errors met by this job (16 R481). -/
  hbmErrs : Nat := 0
  /-- Slots that it created objects in. -/
  made : List Nat := []
  /-- Output staging blocks held (19 R558). -/
  stage : Nat := 0
  result : Option Res := none
  workDone : Bool := false
  nonce : Option (List Byte) := none
  leaf : Option Nat := none
  /-- The keys in its unit since its first segment started (11 R312, R334). -/
  keyA : Option KeyObj := none
  keyB : Option KeyObj := none
  /-- Cold store slots and granules reserved at fetch (11 R314). -/
  resSlots : List Nat := []
  resGran : Nat := 0
  /-- Output of an RNG_BYTES job so far, or other partial output. -/
  partialOut : List Byte := []
  /-- Identifier under which it was sent to the partner (14 R429). -/
  fwdId : Nat := 0
  /-- Forward identifier when the job runs for the partner (14 R429). -/
  forPartner : Option Nat := none
  /-- Session slot, queue number and index of its entry on the partner. -/
  fwdFrom : Option (Nat × Nat × W32) := none
  /-- Its session has ended: result and head frames are discarded (04 R145). -/
  discard : Bool := false
  /-- The partner has still to grant the staging of its stream (06 R197). -/
  stageWait : Bool := false
  /-- The stream that it belongs to (05 R160), and that its refusal has ended the open stream that it names. -/
  strm : Option Nat := none
  endsSid : Bool := false
  /-- The tenant seed of its partition has been cleared before its commit point (11 R342). -/
  seedGone : Bool := false
  /-- The core has read its input, in the pitch before its first segment (08 R229). -/
  inputRead : Bool := false
  /-- Challenge drawn for it, or another internal draw that it waits for. -/
  drawWait : Bool := false
  deriving DecidableEq, Repr

/-- The scheduler (02). -/
structure Sched where
  /-- PITCH_COUNT (02 R44, R64). -/
  pitch : Nat := 0
  jobs : Tab Job := []
  /-- Last slot granted a context (02 R56). -/
  rrLast : Nat := 1535
  nextOrder : Nat := 0
  /-- PITCH_PCAP.CAP of each partition that differs from 4,096 (02 R67). -/
  pcaps : Tab Nat := []
  /-- PITCH_OVR.COUNT (02 R68). -/
  overruns : Nat := 0
  scrubBehind : Bool := false
  compact : Bool := false
  scrubPasses : Nat := 0
  /-- Forwarded jobs received and not yet given a context (14 R429). -/
  fwdIn : List Forwarded := []
  nextFwd : Nat := 0
  deriving DecidableEq, Repr

/-- The states of a unit (06 R205; conditioners 10 R306). -/
inductive UState where
  | off | inService | draining | scrubbing | fenced | inKat
  deriving DecidableEq, Repr

/-- What a unit holds of the job that runs on it: key registers, with their complement in the shadow datapath of
a lane (06 R176), the 64 KiB input and output buffers of a lane (R175), the local memory of a PKE core (64 KiB, 08
R227) or of a slice (256 KiB, 09 R252), and the progress of the run. -/
structure UnitMem where
  key : List Byte := []
  shadow : List Byte := []
  inBuf : List Byte := []
  outBuf : List Byte := []
  work : List Byte := []
  /-- Input bytes that the run has processed (06 R177). -/
  done : Nat := 0
  /-- Signing attempts that the run has rejected (09 R266). -/
  tries : Nat := 0
  deriving DecidableEq, Repr

/-- One unit, numbered 0-111 as SWEEP_USEL.UNIT numbers them (16 R489). -/
structure UnitRec where
  st : UState := .off
  /-- The enable bit of its block's control register. -/
  en : Bool := true
  pendingEn : Bool := false
  /-- An off unit enabled returns to service at the next boundary (06 R202). -/
  enableAt : Bool := false
  job : Option Nat := none
  /-- A segment is running (02 R46). -/
  seg : Bool := false
  /-- The segment has been counted as an overrun (02 R48). -/
  overrun : Bool := false
  /-- The sweep reservation of 16 R491. -/
  reserved : Bool := false
  step : Nat := 0
  lastStart : Nat := 0
  lastPass : Nat := 0
  /-- The latest pitch for which a boundary gave it a segment, or in which a key load, a sweep step or other background
  segment occupies it (02 R46, R60). -/
  busyAt : Option Nat := none
  mem : UnitMem := {}
  deriving DecidableEq, Repr

/-- States of a queue slot (04 R149). -/
inductive QState where
  | active | resetting | tearing
  deriving DecidableEq, Repr

/-- An entry fetched and not yet covered by CHEAD. -/
structure EntRec where
  index : W32 := 0
  len : Nat := 0
  released : Bool := false
  /-- The context of its FULL-class stream after its release; an ended one where the stream has ended (05 R167). -/
  ctx : Option Stream := none
  deriving DecidableEq, Repr

/-- One queue (04 R126-R150). -/
structure Queue where
  st : QState := .active
  admin : Bool := false
  isInternal : Bool := false
  sizeLog2 : Nat := 16
  qnum : Nat := 0
  session : Nat := 0
  part : Nat := 0
  /-- QBASE. -/
  base : Nat := 0
  applied : W32 := 0
  /-- Runs of units that the host has written and PIDX (applied) has not passed (04 R131, 05 R166). -/
  ahead : List (W32 × Nat) := []
  visible : W32 := 0
  cidx : W32 := 0
  chead : W32 := 0
  entries : List EntRec := []
  /-- FULL-class stream contexts as of the latest head advance (05 R167). -/
  headStreams : List Stream := []
  /-- Context wait in boundaries of the entry at CIDX (02 R58). -/
  wait : Nat := 0
  /-- The entry at CIDX reached the wait limit while partly published (04 R134). -/
  lateRefuse : Bool := false
  /-- PIDX values waiting for the mirror of class 2 (01 R30): (SEQ count needed, PIDX). -/
  pidxGate : List (Nat × W32) := []
  /-- CHEAD values waiting for the mirror of class 1 (01 R33): (SEQ count needed, CHEAD). -/
  headGates : List (Nat × W32) := []
  /-- A teardown takes effect at the next boundary (04 R142): 1 reset, 2 destroy. -/
  tearAsk : Nat := 0
  /-- Teardown position P once sampled, and the context of the job that asked. -/
  tearP : Option W32 := none
  /-- Position of a teardown that goes on after a takeover (04 R146). -/
  tearTo : Option W32 := none
  tearJob : Option Nat := none
  aborted : Nat := 0
  discard : Bool := false
  /-- The CHEAD the host has acknowledged (14 R419). -/
  rhead : W32 := 0
  /-- HEAD write address of an internal queue (13 R392). -/
  headAddr : Nat := 0
  /-- Entries of a queue taken over that are complete, or run already for the failed partner, and so are
  not fetched again (14 R426). -/
  skip : List W32 := []
  /-- PIDX of the takeover: entries before it were fetched by the failed partner (17 R519). -/
  replayTo : Option W32 := none
  /-- Earliest pitch of the next fetch grant (04 R133). -/
  nextGrant : Nat := 0
  deriving DecidableEq, Repr

/-- The queue manager. -/
structure Qm where
  queues : Tab Queue := []
  /-- The arena is initialised (04 R148). -/
  arena : Bool := false
  ipidxRej : Bool := false
  deriving DecidableEq, Repr

/-- Streams and the staging pool (05 R159). -/
structure Strm where
  tab : List Stream := []
  deriving DecidableEq, Repr

/-- The vault (11). -/
structure Vault where
  objs : Tab KeyObj := []
  /-- Next generation of each slot that has been used (11 R314). -/
  gens : Tab Nat := []
  /-- Hot copies, least recently used first (11 R311). -/
  hot : List Nat := []
  /-- The object that each cold record holds, and the record's first granule (11 R309). -/
  recs : Tab KeyObj := []
  place : Tab Nat := []
  /-- Slots whose record is to be written at the next boundary (11 R311, 21 R582). -/
  due : List Nat := []
  /-- Records of deleted partitions that compaction has still to free, as first granule and length (12 R350). -/
  orphans : List (Nat × Nat) := []
  /-- Bytes of the records and of the slot table that a master has written over, by address. -/
  patched : Tab Byte := []
  /-- Slots whose record is being fetched from the partner (11 R313). -/
  awaited : List Nat := []
  /-- Salts in the reserve, of 4 bytes each (11 R324). -/
  salts : List (List Byte) := []
  /-- BBRAM root slots, bindings and tenant seeds (11 R326). -/
  roots : Tab (List Byte) := []
  binds : Tab Nat := []
  seeds : Tab (List Byte) := []
  /-- The Test Root Key is in force (11 R329). -/
  trk : Bool := false
  pufOk : Bool := false
  /-- Life-cycle code and debug byte used in drk (11 R327). -/
  lcs : Nat := 0
  dbg : Nat := 0
  derived : Bool := false
  /-- Stateful keys whose traversal state is brought up to a leaf after a takeover (09 R272). -/
  catchUp : List (Nat × Nat) := []
  /-- VAULT_LOST (11 R347). -/
  lostSlot : Nat := 0
  lostValid : Bool := false
  lostOvf : Bool := false
  lostKind : Bool := false
  deriving DecidableEq, Repr

/-- What asks the pool for bytes (10 R297). -/
inductive Draw where
  | hbmKeys | accept (hs : Nat) | join | proposal (ctx : Nat) | token (ctx : Nat) | seed (ctx : Nat)
  | dbgChal | lcChal (ctx : Nat) | salts | job (ctx : Nat)
  /-- The salt of a replicated key pack (11 R330, 14 R443). -/
  | replica (member slot gen oper : Nat)
  deriving DecidableEq, Repr

/-- One bank of noise cells (10 R304, R305). -/
structure Block where
  cond : Nat := 0
  bytes : List Byte := []
  /-- The APT window of its last sample has closed (10 R288). -/
  tested : Bool := false
  deriving DecidableEq, Repr

/-- One noise bank (10 R283, R304). -/
structure Bank where
  /-- 0 off, 1 healthy, 2 recalibrating, 3 starting, 4 quarantined. -/
  st : Nat := 0
  cause : Nat := 0
  cell : Nat := 0
  pitch : Nat := 0
  /-- BIAS, CORR1-CORR4 and completed windows (10 R285). -/
  bias : BitVec 16 := 0
  corr : List (BitVec 16) := [0, 0, 0, 0]
  windows : Nat := 0
  /-- Blocks pending validation (10 R288). -/
  pendingBlocks : List Block := []
  /-- BIAS_MAX and CORR_MAX of the running estimator window (10 R286). -/
  thr : Nat × Nat := (4096, 2048)
  /-- RCT and APT cutoffs of the running APT window (10 R284, R286). -/
  cut : Nat × Nat := (41, 795)
  /-- Latest pitch of a recalibration (10 R291). -/
  lastRecal : Nat := 0
  deriving DecidableEq, Repr

/-- The entropy subsystem (10). -/
structure Ent where
  banks : Tab Bank := []
  emptyRd : Bool := false
  isOpen : Bool := false
  stopped : Bool := false
  starting : Bool := false
  /-- The pool: validated bytes, oldest first (10 R288). -/
  pool : List Byte := []
  /-- Words in the ENT_DATA FIFO (10 R299). -/
  fifo : List Word := []
  /-- Internal requests and job reservations, in request order, with the bytes wanted. -/
  internalQ : List (Draw × Nat) := []
  jobQ : List (Draw × Nat) := []
  /-- Blocks granted to jobs since the FIFO's last block (10 R297). -/
  share : Nat := 0
  /-- Round-robin bank of the conditioners (10 R287). -/
  rr : Nat := 0
  /-- EST1 held for the selected bank after a read of EST0 (10 R305). -/
  est1Held : Option Word := none
  /-- The known-answer test port (10 R307). -/
  katCond : Nat := 0
  katIn : List Word := []
  /-- The input of the test that has been asked for. -/
  katTest : List Word := []
  katBusy : Bool := false
  katStart : Bool := false
  katDone : Bool := false
  katErr : Bool := false
  katOut : List Word := []
  /-- Pool bytes reach 4 KiB at this pitch's window close; output opens 2 us later (10 R293). -/
  opening : Bool := false
  deriving DecidableEq, Repr

/-- The quorum engine (12). -/
structure Quorum where
  props : Tab Proposal := []
  nextId : Nat := 0
  serial : Nat := 0
  parts : List Nat := [0]
  creds : List Cred := []
  /-- Journal, newest last, at most 1,024 records (12 R365), and JOURNAL_SEQ. -/
  journal : List JRec := []
  journalSeq : Nat := 0
  tok0 : Word := 0
  tok1 : Word := 0
  /-- QUO_CMT.RESULT. -/
  cmtResult : Nat := 0
  /-- Records that the write buffer takes before the latest commit by QUO_CMT.GO is complete (15 R468). -/
  cmtWait : Nat := 0
  /-- Tokens of proposals that became void, so that QUO_CMT.RESULT can tell them (12 R370). -/
  voidTokens : List (List Byte) := []
  /-- PROPOSAL_IDs of the latest 1,024 proposals that have become final here: a mirror frame in flight revives none of
  them (12 R364). -/
  closedIds : List Nat := []
  /-- Commits due at the next boundary: the token, and the context of Q_COMMIT or none for QUO_CMT.GO. -/
  commits : List (List Byte × Option Nat) := []
  deriving DecidableEq, Repr

/-- The fault collector (16 R482-R485, R494). -/
structure FaultReg where
  src : Nat := 0
  cls : Nat := 0
  unit : Nat := 0
  valid : Bool := false
  pitch : Nat := 0
  ovfSet : Bool := false
  ovfCount : Nat := 0
  f0 : Nat := 0
  f1 : Nat := 0
  f2 : Nat := 0
  f3 : Nat := 0
  /-- Pitches and units of recent datapath mismatches (06 R180) and self-check failures of PKE
  cores and lattice slices (08 R243, 09 R268). -/
  mismatches : List (Nat × Nat) := []
  pkeFails : List (Nat × Nat) := []
  latFails : List (Nat × Nat) := []
  /-- SYM_MISM, PKE_CHECK and LAT_CHECK: unit, valid, kind, count, pitch. -/
  symRec : Nat × Bool × Nat × Nat := (0, false, 0, 0)
  pkeRec : Nat × Bool × Nat × Nat := (0, false, 0, 0)
  latRec : Nat × Bool × Nat × Nat := (0, false, 0, 0)
  latKind : Bool := false
  deriving DecidableEq, Repr

/-- The event counters (16 R486-R488, R495): values that are not 0, overflow bits, and counters
whose overflow has not been reported yet. -/
structure Evc where
  vals : Tab Nat := []
  ovf : W32 := 0
  due : List Nat := []
  deriving DecidableEq, Repr

/-- The idle sweep (16 R489-R496). -/
structure Sweep where
  blocked : Bool := false
  fails : Nat := 0
  passes : Nat := 0
  failUnit : Nat := 0
  failStep : Nat := 0
  failKind : Bool := false
  failValid : Bool := false
  failPitch : Nat := 0
  deriving DecidableEq, Repr

/-- One rope port (14 R445). -/
structure RopePort where
  up : Bool := false
  silent : Bool := false
  rtt : Nat := 0
  /-- Pitch of the last authenticated frame, and of the latest heartbeat, received or counted as missed (14 R446). -/
  lastAuth : Nat := 0
  lastBeat : Nat := 0
  /-- Bytes sent in the pitch `loadAt`, and the frames of class 2 that wait in the transmit queue (14 R415). -/
  load : Nat := 0
  loadAt : Nat := 0
  txq : List OutEv := []
  deriving DecidableEq, Repr

/-- A frame sent to the partner and not acknowledged, with the pitch of its latest sending (14 R415). -/
structure RopeTx where
  cls : Nat := 0
  seq : Nat := 0
  body : RopeBody := .ack (0, 0, 0)
  sentAt : Nat := 0
  deriving DecidableEq, Repr

/-- A session or queue of the partner as mirrored (14 R418, R419). -/
structure PeerQueue where
  session : Nat := 0
  qnum : Nat := 0
  sizeLog2 : Nat := 16
  pidx : W32 := 0
  cidx : W32 := 0
  chead : W32 := 0
  units : List (Nat × List Byte) := []
  /-- A teardown in progress: a destroy or not, and its position. -/
  tear : Option (Bool × W32) := none
  deriving DecidableEq, Repr

/-- A fabric route (14 R441). -/
structure Route where
  via : Nat := 0
  port : Nat := 0
  hops : Nat := 0
  pitch : Nat := 0
  deriving DecidableEq, Repr

/-- The pair controller, the rope link and the fabric (14). -/
structure Pair where
  port0 : RopePort := {}
  port1 : RopePort := {}
  /-- PAIR_STAT.STATE (14 R448). -/
  st : Nat := 0
  /-- PAIR_LIVE_IN toggles; the 1 ms of trust of R422. -/
  liveIn : Bool := false
  liveSince : Nat := 0
  trusted : Bool := false
  fabDup : Bool := false
  fabDupPitch : Nat := 0
  refuse : Nat := 0
  takeovers : Nat := 0
  takePitch : Nat := 0
  takeCause : Nat := 0
  copied : Nat := 0
  total : Nat := 0
  /-- Pair keys are set (14 R434). -/
  keys : Bool := false
  /-- Next SEQ, SEQ count acknowledged and SEQ count applied, by class 0-2 (14 R415). -/
  tx : List Nat := [0, 0, 0]
  acked : List Nat := [0, 0, 0]
  rx : List Nat := [0, 0, 0]
  /-- Frames sent and not acknowledged. -/
  unacked : List RopeTx := []
  /-- Keys and IVs of the two directions (14 R434). -/
  keyOut : List Byte := []
  ivOut : List Byte := []
  keyIn : List Byte := []
  ivIn : List Byte := []
  /-- Join progress: the partner's hello, attestation, and whether this device is the source. -/
  peerHello : Option (Word × Nat × Nat) := none
  helloSent : Bool := false
  attested : Bool := false
  source : Bool := false
  joinBytes : List Byte := []
  peerNonce : List Byte := []
  /-- JOIN_ATTEST of both devices and the JOIN_KEY sent, which the transcript needs (14 R434). -/
  ownAttest : List Byte := []
  peerAttest : List Byte := []
  ownKey : List Byte := []
  /-- Next slot of the bulk copy (14 R435). -/
  bulkNext : Nat := 0
  /-- The pair has ended with FENCE 3: the lead still takes the second's HANDOVER (14 R438). -/
  handWait : Bool := false
  /-- Self-fenced, and not yet a partner again (14 R423). -/
  fencedOff : Bool := false
  /-- Pitch at which the wait of R436 began. -/
  joinWaitFrom : Nat := 0
  /-- Stateful keys are held by the second instead of the lead (09 R269). -/
  leafAway : Bool := false
  /-- The host addresses are held; the partner's addresses are held (14 R425, R436). -/
  addrHeld : Bool := false
  addrTaken : Bool := false
  announces : Nat := 0
  /-- The addresses of the partner's host ports that a HANDOVER has listed (14 R413). -/
  peerAddrs : Tab (List Nat) := []
  /-- The partner as mirrored. -/
  peerQueues : List PeerQueue := []
  peerSessions : List SessPos := []
  peerBinds : List (Nat × Nat × W32 × List Byte) := []
  peerMade : List (Nat × Nat × W32 × List Byte) := []
  /-- Stream contexts of the partner's queues as last mirrored: session, queue number, stream (05 R167). -/
  peerStreams : List (Nat × Nat × Stream) := []
  /-- Staging blocks reserved here for the partner's streams: session, queue number, stream, blocks (06 R197). -/
  peerStaging : List (Nat × Nat × Nat × Nat) := []
  /-- The quorum state as the latest mirror frame, sent or applied, has left it (12 R364). -/
  told : QuorumView := {}
  deriving DecidableEq, Repr

/-- A replication sent to a fabric member and not acknowledged (14 R443): operation 1 creation, 2
destruction, 3 attribute change. -/
structure Repl where
  member : Nat := 0
  slot : Nat := 0
  gen : Nat := 0
  oper : Nat := 1
  /-- Frames sent so far. -/
  tries : Nat := 0
  pitch : Nat := 0
  /-- The key pack, once its salt is drawn. -/
  pack : Option (List Byte) := none
  deriving DecidableEq, Repr

/-- YLZ-7200 fabric membership (14 R439-R443). -/
structure Fabric where
  routes : Tab Route := []
  /-- Replay window per SRC: BOOT_RTC and SEQ values accepted (14 R440). -/
  windows : Tab (Nat × List Nat) := []
  /-- Replications not acknowledged. -/
  repl : List Repl := []
  seq : Nat := 0
  /-- BOOT_RTC: the RTC value at this STARTUP (14 R440). -/
  boot : Nat := 0
  deriving DecidableEq, Repr

/-- Where an avalanche leads when its line is released (01 R35). -/
inductive After where
  | systemReset | lockdown
  deriving DecidableEq, Repr

/-- Tamper detection, the RTC and the avalanche driver of the guard die (15). -/
structure Tamper where
  active : BitVec 32 := 0
  levelMax : Nat := 0
  evt : BitVec 32 := 0
  firstSrc : Nat := 0
  firstValid : Bool := false
  firstPitch : Nat := 0
  /-- RTC count, and the millionths of a count since it (15 R454). -/
  rtc : Nat := 0
  rtcFrac : Nat := 0
  /-- Consecutive failed checks of sources 0-9 (15 R451, R452). -/
  fails : Tab Nat := []
  /-- Sources whose first ALERT since STARTUP has been recorded (15 R455). -/
  alerted : BitVec 32 := 0
  /-- The avalanche line (15 R458, R459). -/
  line : Bool := false
  confirmed : Bool := false
  released : Bool := false
  holdDie : Bool := false
  after : After := .systemReset
  /-- RTC count of the latest check of each source 0-9 on battery (15 R451, R452). -/
  checked : Tab Nat := []
  deriving DecidableEq, Repr

/-- A cairn record before its SEQ and CHECK are known (15 R465). -/
structure CairnEnt where
  type : Nat := 0
  rtc : Nat := 0
  bitmap : BitVec 32 := 0
  lcs : Nat := 0
  trk : Bool := false
  mode : Nat := 0
  /-- Target SEQ once programming has begun (15 R469). -/
  target : Option Nat := none
  deriving DecidableEq, Repr

/-- The cairn log and its write buffer (15 R465-R470). -/
structure Cairn where
  log : Tab (BitVec 128) := []
  next : Nat := 0
  seq : Nat := 0
  full : Bool := false
  chainErr : Bool := false
  resUsed : Nat := 0
  lost : Nat := 0
  buf : List CairnEnt := []
  ovf : Nat := 0
  /-- Operations that wait for a free buffer entry (15 R468). -/
  waiting : List CairnEnt := []
  /-- New state of the last 0xE0 record. -/
  lastLc : Nat := 1
  deriving DecidableEq, Repr

/-- A life-cycle transition being programmed (17 R502, R503): the states, the steps still to go, the job
that waits for it, and the values of the data fields. -/
structure Transition where
  old : Nat := 1
  target : Nat := 1
  left : Nat := 0
  paused : Bool := false
  ctx : Option Nat := none
  devId : Word := 0
  seed : List Byte := []
  helper : List Byte := []
  owner : List Byte := []
  deriving DecidableEq, Repr

/-- The life-cycle word and the other antifuse fields (17 R497-R503), with LC_STAT and LC_HOLD. -/
structure Life where
  s1 : BitVec 16 := 0
  s2 : BitVec 16 := 0
  s3 : BitVec 16 := 0
  s4 : BitVec 16 := 0
  s5 : BitVec 16 := 0
  devId : Word := 0
  otpSeed : List Byte := []
  helper : List Byte := []
  owner : List Byte := []
  trims : Tab W32 := []
  svn : Word := 0
  /-- The state decoded at the latest power-up (17 R498); 15 is INVALID. -/
  code : Nat := 1
  pendingPwr : Bool := false
  nextSt : Nat := 0
  /-- Pitches for which VDD_GUARD has been within 3 %, and the VHOLD_OK input. -/
  stable : Nat := 0
  holdOk : Bool := false
  /-- LC_CHALLENGE and its issue pitch. -/
  chal : Option (List Byte × Nat) := none
  trans : Option Transition := none
  deriving DecidableEq, Repr

/-- A tenant function package loaded from a card (13 R389, 17 R511). -/
structure TenantFn where
  part : Nat := 0
  func : Nat := 0
  line : Nat := 0
  inboxLog2 : Nat := 0
  limitMs : Nat := 0
  addr : Nat := 0
  pidx : W32 := 0
  free : W32 := 0
  deriving DecidableEq, Repr

/-- The NVM loader (17 R516-R520, R527). -/
structure Nvm where
  booted : Nat := 0
  fallback : Bool := false
  octal : Bool := false
  aResult : Nat := 0
  bResult : Nat := 0
  svn : Nat := 0
  updSt : Nat := 0
  written : Nat := 0
  updLen : Nat := 0
  updDigest : List Byte := []
  updSession : Nat := 0
  updData : List Byte := []
  policyDigest : List Byte := []
  /-- Certificates of the card, in its order (03 R93). -/
  certs : List (List Byte) := []
  deriving DecidableEq, Repr

/-- Debug authorization and the TAP (17 R521-R528). -/
structure Dbg where
  enabled : BitVec 4 := 0
  refuse : Nat := 0
  accepted : Nat := 0
  chal : Option (List Byte × Nat) := none
  /-- Enables accepted whose cairn record waits for a free entry (17 R524, 15 R468). -/
  waitEn : BitVec 4 := 0
  /-- TAP instruction register. -/
  ir : Byte := 0xFF
  deriving DecidableEq, Repr

/-- One core (13 R372-R379). The register lists hold x1-x31. -/
structure Core where
  /-- The world bit: `true` for the base world. -/
  base : Bool := false
  /-- 0 U, 1 S, 3 M. -/
  priv : Nat := 3
  pc : Word := 0
  x : List Word := List.replicate 31 0
  /-- The base register bank. -/
  bank : List Word := List.replicate 31 0
  trapped : Bool := false
  wbepc : Word := 0
  wbinfo : Word := 0
  wten : Word := 0
  wsivec : Word := 0
  /-- Machine and supervisor CSRs of the two banks, by CSR number (13 R374). -/
  csrS : Tab Word := []
  csrB : Tab Word := []
  parked : Bool := false
  halted : Bool := false
  /-- A halt request held while in the summit world (13 R396). -/
  haltHeld : Bool := false
  /-- Waits: only the boot core runs before the firmware is released (17 R516). -/
  waits : Bool := false
  deriving DecidableEq, Repr

/-- One interrupt source (13 R381, R409). -/
structure Irq where
  en : Bool := false
  base : Bool := false
  cores : BitVec 8 := 0
  prio : Nat := 0
  pend : Bool := false
  claimed : Bool := false
  deriving DecidableEq, Repr

/-- One call placed in an inbox (13 R390, R391). -/
structure Call where
  tf : Nat := 0
  unit : W32 := 0
  units : Nat := 0
  /-- Context and grant order of its job. -/
  ctx : Nat := 0
  order : Nat := 0
  due : Nat := 0
  done : Bool := false
  deriving DecidableEq, Repr

/-- A line of 64 bytes that a core caches, and whether it holds writes that memory has not (13 R402). -/
structure CacheLine where
  core : Nat := 0
  addr : Nat := 0
  bytes : List Byte := []
  dirty : Bool := false
  deriving DecidableEq, Repr

/-- Worlds, interrupts, watchdogs and tenant functions (13). -/
structure World where
  cores : Tab Core := []
  /-- Lines that cores cache (13 R402, R405). -/
  lines : List CacheLine := []
  ready : Bool := false
  /-- READY has been set once since STARTUP (13 R380, 17 R516). -/
  everReady : Bool := false
  tfRej : Bool := false
  trigger : Nat := 0
  fails : Nat := 0
  restarts : Nat := 0
  /-- Pitch at which the running restart was triggered (13 R386). -/
  restartAt : Nat := 0
  swCount : Nat := 0
  bwCount : Nat := 0
  bwExpired : Bool := false
  irqs : Tab Irq := []
  tfs : Tab TenantFn := []
  calls : List Call := []
  iqBusy : Bool := false
  iqDone : Bool := false
  iqStatus : Nat := 0
  iqSlot : Nat := 0
  /-- WORLD_MEAS0-3 (13 R388). -/
  meas : List (List Byte) := List.replicate 4 (List.replicate 48 0)
  fwDigest : List Byte := []
  fwEntry : Nat := 0
  /-- Bytes of the protected copy of the summit firmware in HBM (17 R516, 19 R556). -/
  fwLen : Nat := 0
  deriving DecidableEq, Repr

/-- Capture registers of one ACU (13 R403, R410). -/
structure AcuRec where
  synAddr : Nat := 0
  synValid : Bool := false
  synOvf : Bool := false
  synMaster : Nat := 0
  synWorld : Nat := 0
  synRegion : Nat := 0
  synKind : Nat := 0
  synCount : Nat := 0
  noteValid : Bool := false
  noteOvf : Bool := false
  noteMaster : Nat := 0
  noteRegion : Nat := 0
  noteCount : Nat := 0
  epoch : Nat := 0
  wait : Bool := false
  deriving DecidableEq, Repr

/-- The access control units (13). -/
structure Acu where
  recs : Tab AcuRec := []
  bootDone : Bool := false
  /-- The commit that waits for the epoch switch: its token, and the context of Q_COMMIT. -/
  commit : Option (List Byte × Option Nat) := none
  /-- Requests that wait unchecked at a port (13 R405). -/
  waiting : List Access := []
  deriving DecidableEq, Repr

/-- One neighbour cache entry (03 R79). -/
structure Neigh where
  mac : Nat := 0
  resolved : Bool := false
  tries : Nat := 0
  /-- Pitch of the last confirmation or solicitation. -/
  stamp : Nat := 0
  /-- Frames waiting for resolution, at most 64. -/
  waiting : List OutEv := []
  deriving DecidableEq, Repr

/-- A half-open handshake (03 R83, R91). -/
structure Handshake where
  sid : Nat := 0
  tag : Nat := 0
  src : Nat := 0
  /-- The address that the HELLO was sent to. -/
  loc : Nat := 0
  cred : Cred := {}
  hello : List Byte := []
  accept : List Byte := []
  /-- ACCEPT waits for its entropy draw (10 R298). -/
  waiting : Bool := true
  /-- ACCEPT waits for the partner: class 1 SEQ count (14 R418). -/
  gate : Option Nat := none
  start : Nat := 0
  maxFrame : Nat := 1400
  rxWindow : Nat := 16
  prk : List Byte := []
  deriving DecidableEq, Repr

/-- An installed MACsec SA (03 R76): key handle, the SAK and the salt of its 44 bytes, the SSCI, and the packet
number of the next frame sent, or the one after the highest received. -/
structure Sa where
  handle : Word := 0
  sak : List Byte := []
  salt : List Byte := []
  ssci : Nat := 0
  pn : Nat := 1
  deriving DecidableEq, Repr

/-- A HELLO message of which fragments have arrived (03 R89): its sender, the SESSION_ID field of its frames,
MSG_LEN, and the fragments by offset. -/
structure Assembly where
  src : Nat := 0
  key : Nat := 0
  total : Nat := 0
  parts : List (Nat × List Byte) := []
  deriving DecidableEq, Repr

/-- One host port (03). -/
structure Eth where
  up : Bool := false
  activeMode : Nat := 0
  anDone : Bool := false
  /-- ETH_CFG and the address table as latched when MODE left 0 (03 R118, R120). -/
  cfg : Word := 0
  addr : Tab Word := []
  /-- The address table as written (03 R120): index × 2, plus 1 for the high word. -/
  addrSet : Tab Word := []
  dadFail : Bool := false
  /-- IPv6 addresses tentative under duplicate address detection (03 R78). -/
  dad : Bool := false
  /-- IPv6 addresses found duplicate since link-up (03 R78). -/
  dupes : List Nat := []
  taken : Bool := false
  neigh : Tab Neigh := []
  hs : List Handshake := []
  /-- HELLO messages that are being assembled, or whole and not yet acted on (03 R89). -/
  asm : List Assembly := []
  /-- Priorities paused by the peer; a pause has been sent (03 R74). -/
  paused : BitVec 8 := 0
  pauseSent : Bool := false
  /-- Frames that wait for the end of a pause of their priority. -/
  held : List OutEv := []
  /-- Echo replies in the current second and the pitch that opened it (03 R80). -/
  echoes : Nat := 0
  echoFrom : Nat := 0
  /-- Installed MACsec SAs by direction × 4 + AN, and the AN in use (03 R76). -/
  sas : Tab Sa := []
  txAn : Nat := 0
  instErr : Bool := false
  deriving DecidableEq, Repr

/-- A reliable frame sent and not acknowledged (03 R109). -/
structure TxFrame where
  dseq : W32 := 0
  body : TolBody := .ack 0 0 0 []
  sentAt : Nat := 0
  /-- TOL_CFG when its timer was last started (03 R123). -/
  cfg : Nat := 0x0010025800C8001E
  retx : Nat := 0
  /-- The last frame of a RESULT payload: output staging blocks (19 R558) and held-plaintext blocks
  (06 R198) that its acknowledgement frees. -/
  stage : Nat := 0
  held : Nat := 0
  deriving DecidableEq, Repr

/-- A host frame held out of order (03 R108). -/
structure RxFrame where
  dseq : W32 := 0
  qnum : Nat := 0
  units : Nat := 0
  first : W32 := 0
  newPidx : W32 := 0
  data : List Byte := []
  /-- A KEY_UPDATE instead: NEW_EPOCH and RESPONSE. -/
  upd : Option (W32 × Bool) := none
  deriving DecidableEq, Repr

/-- One Tolyr session (03 R82-R116, R124). -/
structure Sess where
  sid : Nat := 0
  port : Nat := 0
  /-- 2 open, 3 closing (TOL_SINFO.STATE). -/
  st : Nat := 2
  taken : Bool := false
  deviceLevel : Bool := false
  part : Nat := 0
  /-- Role of the client key (12 R351): 0 DSO, 1 Auditor, 2 Operator, 3 Tenant Officer, 4 client. -/
  role : Nat := 4
  txEpoch : W32 := 0
  rxEpoch : W32 := 0
  /-- The epoch before is still accepted (03 R104), from this pitch. -/
  graceFrom : Option Nat := none
  epochFrom : Nat := 0
  txSeq : Nat := 0
  rxSeq : Nat := 0
  /-- Replay window: SEQ values accepted among the last 1,024 (03 R100). -/
  seen : List Nat := []
  /-- The window of the epoch before, during its grace. -/
  seenPrev : List Nat := []
  /-- Earlier epochs whose 1 s runs still: the epoch, the pitch of the switch and the window (03 R104). -/
  older : List (W32 × Nat × List Nat) := []
  txDseq : W32 := 0
  rxDseq : W32 := 0
  /-- CUM and WINDOW of the host's latest ACK (03 R107). -/
  cum : W32 := 0
  window : Nat := 16
  unacked : List TxFrame := []
  /-- Reliable frames that wait for the host's window. -/
  blocked : List (TolBody × Nat × Nat) := []
  held : List RxFrame := []
  /-- ACK of host frames that wait for the mirror (03 R108): class 2 SEQ count, next DSEQ. -/
  ackGate : List (Nat × W32) := []
  /-- CUM of the device's latest ACK. -/
  ackCum : W32 := 0
  srtt : Option Nat := none
  rttvar : Nat := 0
  dest : Nat := 0
  /-- The device's address that the host uses. -/
  loc : Nat := 0
  lastRx : Nat := 0
  /-- TOL_CFG when the silence began and when the epoch began (03 R123). -/
  idleCfg : Nat := 0x0010025800C8001E
  updCfg : Nat := 0x0010025800C8001E
  /-- Key update in progress: the new epoch named. -/
  update : Option W32 := none
  /-- Update answer or start that waits for the partner (03 R103): class 1 SEQ count. -/
  updateGate : Option (Nat × Bool) := none
  /-- Secret of the newest epoch in use, and the keys of every epoch that has not been erased (03 R98, R104). -/
  prk : List Byte := []
  keys : List (W32 × List Byte) := []
  /-- CLOSE waits for the mirror of the end (03 R116): class 1 SEQ count, reason, status. -/
  closeGate : Option (Nat × Nat × Nat) := none
  /-- Teardowns of the failed partner that ended here before their command came again: queue number, destroyed or
  reset, and the command's result (04 R146). -/
  torn : List (Nat × Bool × Res) := []
  /-- PAIR_MOVE is being repeated (03 R113): its KIND. -/
  pairMove : Option Nat := none
  /-- Its MOVE_ID. -/
  moveId : W32 := 0
  maxFrame : Nat := 1400
  /-- The HELLO that opened it, its address, and the ACCEPT that answered (03 R91). -/
  hello : List Byte := []
  helloSrc : Nat := 0
  helloTag : Nat := 0
  accept : List Byte := []
  /-- The HELLO of step 3 that opened it (03 R96). -/
  step3 : List Byte := []
  deriving DecidableEq, Repr

/-- The Tolyr engine (03). -/
structure Tol where
  sess : Tab Sess := []
  nextSid : Nat := 1
  deriving DecidableEq, Repr

/-- One power domain (18 R532-R540, R548). -/
structure Dom where
  req : Nat := 0
  ownerBase : Bool := false
  lease : BitVec 8 := 0
  /-- PWR_DSTAT.STATE. -/
  st : Nat := 1
  /-- The request being carried out came from the base world (18 R536). -/
  byBase : Bool := false
  held : Option Nat := none
  pend : Bool := false
  autoOff : Bool := false
  /-- The domain was switched off in this pitch: an on request is only latched (18 R537). -/
  goingOff : Bool := false
  rej : Bool := false
  rejCause : Nat := 0
  deriving DecidableEq, Repr

/-- Clocks, power domains and resets (18). -/
structure Clk where
  refSys : Bool := false
  refEth0 : Bool := false
  refEth1 : Bool := false
  doms : Tab Dom := []
  cause : Nat := 1
  /-- RESETS, kept on the guard die. -/
  resets : Nat := 0
  deriving DecidableEq, Repr

/-- SMBus telemetry (18 R546, R550). -/
structure Mgmt where
  asel : Bool := false
  reads : Nat := 0
  errors : Nat := 0
  temps : List Nat := [0, 0, 0, 0]
  volts : List Nat := [0, 0, 0, 0, 0]
  /-- The snapshot of the last refresh: bytes of commands 0x01-0x03 and of block 0x30. -/
  snap : List Byte := []
  deriving DecidableEq, Repr

/-- The HBM controller (19 R559-R561, 20 R577). -/
structure Hbm where
  ready : Bool := false
  /-- The 64-byte line that the patrol scrub reaches next, of the 2^28 lines of the stack (19 R559). -/
  scrubLine : Nat := 0
  errAddr : Nat := 0
  errValid : Bool := false
  refreshDoubled : Bool := false
  deriving DecidableEq, Repr

/-- The board: supplies and pins (18 R541, 15 R454, 14 R420). -/
structure Board where
  mainPower : Bool := true
  vddGuard : Bool := true
  vbat : Bool := true
  xtal : Bool := true
  /-- PAIR_LIVE_OUT is driven as a square wave. -/
  liveOut : Bool := false
  deriving DecidableEq, Repr

/-- The whole block. `regs` holds each RW register of 19 R555 that differs from its reset value,
by CSR offset; `rwq` each staged two-party register, as (staged, in force); `cnt` each statistics
counter that is not 0, by block index × 64 + counter index. -/
structure State where
  sys : Sys := {}
  sched : Sched := {}
  units : Tab UnitRec := []
  qm : Qm := {}
  strm : Strm := {}
  vault : Vault := {}
  ent : Ent := {}
  quorum : Quorum := {}
  flt : FaultReg := {}
  evc : Evc := {}
  sweep : Sweep := {}
  pair : Pair := {}
  fab : Fabric := {}
  tam : Tamper := {}
  cairn : Cairn := {}
  life : Life := {}
  nvm : Nvm := {}
  dbg : Dbg := {}
  world : World := {}
  acu : Acu := {}
  eth : Tab Eth := []
  tol : Tol := {}
  clk : Clk := {}
  mgmt : Mgmt := {}
  hbm : Hbm := {}
  board : Board := {}
  regs : Tab Word := []
  rwq : Tab (Word × Word) := []
  cnt : Tab Nat := []
  /-- Memory of the address map (19 R551): bytes that differ from what an unlisted address reads as. -/
  mem : List Host.Cell := []
  /-- What has left the block, oldest first. The model's own (log 3). -/
  out : List OutEv := []
  /-- Index of the next free value (log 2). The model's own. -/
  freeCtr : Nat := 0
  /-- The commands that wait, first in first out. -/
  pending : List Instr := []
  deriving DecidableEq, Repr

/-- The cores leave reset in the summit world at machine level at address 0; C0 runs the boot ROM and the
others wait (13 R373, 17 R516). -/
def bootCores : Tab Core := [1, 2, 3, 4, 5, 6, 7].map fun c => (c, { waits := true })

/-- The block right after the compute die's first power-on reset: every field at its reset value
(01 R42, 18 R541, R542), the supplies present, the antifuse unprogrammed, nothing in memory. Values
the spec does not give are named in log 6. -/
def State.reset : State := { world := { cores := bootCores } }

end Sys2Proof.Machine
end

