-- ==== Sys2Proof/Machine/Bits.lean ====
section
/-! DEFINITION. Sparse tables, byte strings, bit fields, saturating counts and the byte memory:
the helpers that every operation uses. -/

namespace Sys2Proof.Machine

/-! ### Sparse tables -/

/-- The entry numbered `n`, if listed. -/
def tget {α : Type} : Tab α → Nat → Option α
  | [], _ => none
  | (k, v) :: t, n => if k = n then some v else tget t n

/-- The entry numbered `n`, or `d`. -/
def tgetD {α : Type} (t : Tab α) (n : Nat) (d : α) : α := (tget t n).getD d

/-- Lists `v` under `n`, in place of what `n` held. -/
def tput {α : Type} : Tab α → Nat → α → Tab α
  | [], n, v => [(n, v)]
  | (k, w) :: t, n, v =>
    if n < k then (n, v) :: (k, w) :: t
    else if k = n then (n, v) :: t
    else (k, w) :: tput t n v

/-- Unlists `n`. -/
def tdel {α : Type} : Tab α → Nat → Tab α
  | [], _ => []
  | (k, w) :: t, n => if k = n then tdel t n else (k, w) :: tdel t n

/-- Changes the entry under `n` where there is one. -/
def tmod {α : Type} : Tab α → Nat → (α → α) → Tab α
  | [], _, _ => []
  | (k, w) :: t, n, f => if k = n then (k, f w) :: t else (k, w) :: tmod t n f

/-- Changes every entry. -/
def tmap {α : Type} (t : Tab α) (f : Nat → α → α) : Tab α := t.map fun p => (p.1, f p.1 p.2)

/-- The lowest number below `bound` that the table does not list. -/
def lowestFree {α : Type} (t : Tab α) (bound : Nat) : Option Nat :=
  (List.range bound).find? fun n => (tget t n).isNone

/-! ### Lists -/

/-- The element at `n`, or `d`. -/
def nthD {α : Type} (l : List α) (n : Nat) (d : α) : α := (l[n]?).getD d

/-- Replaces the element at `n`. -/
def setNth {α : Type} (l : List α) (n : Nat) (v : α) : List α := l.set n v

/-- `len` bytes from `off` on, as many as there are. -/
def sliceB (b : List Byte) (off len : Nat) : List Byte := (b.drop off).take len

/-- Fills up to `n` bytes with zeros and cuts to `n`. -/
def padTo (n : Nat) (b : List Byte) : List Byte := (b ++ List.replicate (n - b.length) 0).take n

/-- The bytes of an ASCII string (03 R95). -/
def ascii (t : String) : List Byte := t.toList.map fun c => BitVec.ofNat 8 c.toNat

/-! ### Little-endian integers (00 R11) -/

/-- `v` as `n` bytes, the lowest first. -/
def leBytes : Nat → Nat → List Byte
  | 0, _ => []
  | n + 1, v => BitVec.ofNat 8 v :: leBytes n (v / 256)

/-- The integer that bytes spell, the lowest first. -/
def leNat : List Byte → Nat
  | [] => 0
  | b :: t => b.toNat + 256 * leNat t

/-- `v` as `n` bytes, the highest first. -/
def beBytes (n v : Nat) : List Byte := (leBytes n v).reverse

/-- A little-endian integer of `len` bytes at `off`. -/
def leAt (b : List Byte) (off len : Nat) : Nat := leNat (sliceB b off len)

/-! ### Bit fields -/

/-- The field of `w` bits at `lo` of a number. -/
def fld (v lo w : Nat) : Nat := (v >>> lo) % 2 ^ w

/-- Bit `n` of a number. -/
def bitAt (v n : Nat) : Bool := v.testBit n

/-- A field placed at its position. -/
def putF (v lo w : Nat) : Nat := (v % 2 ^ w) <<< lo

/-- A flag as a number. -/
def b2n (b : Bool) : Nat := if b then 1 else 0

/-- A 64-bit register value from a sum of placed fields. -/
def wordOf (l : List Nat) : Word := BitVec.ofNat 64 (l.foldl (· + ·) 0)

/-- `v` as a two's-complement number of `w` bits. -/
def signed (v w : Nat) : Int :=
  if v % 2 ^ w < 2 ^ (w - 1) then (v % 2 ^ w : Nat) else (v % 2 ^ w : Nat) - (2 ^ w : Nat)

/-- An integer as `w` bits of two's complement. -/
def unsigned (v : Int) (w : Nat) : Nat := (v % (2 ^ w : Nat)).toNat

/-- The integer held inside a window. -/
def clampI (lo hi v : Int) : Int := if v < lo then lo else if hi < v then hi else v

/-- The number held inside a window. -/
def clampN (lo hi v : Nat) : Nat := if v < lo then lo else if hi < v then hi else v

/-- Division rounding up; 0 for a divisor of 0. -/
def ceilDiv (a b : Nat) : Nat := if b = 0 then 0 else (a + b - 1) / b

/-- An addition that stops at the largest number of `w` bits. -/
def satAdd (w a k : Nat) : Nat := if a + k < 2 ^ w then a + k else 2 ^ w - 1

/-- d(a, b) = (a - b) mod 2^32 (04 R129). -/
def dist (a b : W32) : Nat := (a - b).toNat

/-- An index moved on by `n` units. -/
def idxAdd (a : W32) (n : Nat) : W32 := a + BitVec.ofNat 32 n

/-- The exponent of the smallest power of two that is not below `n`, up to 64. -/
def ceilLog2 (n : Nat) : Nat := ((List.range 64).find? fun k => n ≤ 2 ^ k).getD 64

/-! ### Memory: (address, byte) pairs with rising addresses and no byte that an unlisted address
reads as -/

/-- What an address that is not listed reads as (19 R551): the boot ROM is the implementation's,
erased flash is 0xFF and every other byte is 0 (DESIGN CHOICE, log 8: the spec gives no contents). -/
def memDefault (a : Nat) : Byte :=
  if a < 0x80000 then Config.romByte a
  else if 0x10000000 ≤ a ∧ a < 0x20000000 then 0xFF else 0

/-- The listed byte at `a`. -/
def cellAt : List Host.Cell → Nat → Option Byte
  | [], _ => none
  | (k, v) :: t, a => if k = a then some v else cellAt t a

/-- One byte of memory. -/
def readByte (m : List Host.Cell) (a : Nat) : Byte := (cellAt m a).getD (memDefault a)

/-- Removes the listing of `a`. -/
def cellDel : List Host.Cell → Nat → List Host.Cell
  | [], _ => []
  | (k, v) :: t, a => if k = a then t else (k, v) :: cellDel t a

/-- Lists `b` at `a`, keeping the addresses rising. -/
def cellPut : List Host.Cell → Nat → Byte → List Host.Cell
  | [], a, b => [(a, b)]
  | (k, v) :: t, a, b =>
    if a < k then (a, b) :: (k, v) :: t
    else if k = a then (a, b) :: t
    else (k, v) :: cellPut t a b

/-- Writes one byte. Memory below 0x8_0000 is the boot ROM, which no write changes; elsewhere the
byte that an unlisted address reads as is stored by unlisting. -/
def writeByte (m : List Host.Cell) (a : Nat) (b : Byte) : List Host.Cell :=
  if a < 0x80000 then m else if b = memDefault a then cellDel m a else cellPut m a b

/-- Reads `n` bytes upward. -/
def readBytes (m : List Host.Cell) : Nat → Nat → List Byte
  | _, 0 => []
  | a, n + 1 => readByte m a :: readBytes m (a + 1) n

/-- Writes bytes upward. -/
def writeBytes (m : List Host.Cell) : Nat → List Byte → List Host.Cell
  | _, [] => m
  | a, b :: t => writeBytes (writeByte m a b) (a + 1) t

/-- Forgets every listed byte from `lo` up to `hi`. -/
def clearRange (m : List Host.Cell) (lo hi : Nat) : List Host.Cell :=
  m.filter fun c => decide (c.1 < lo) || decide (hi ≤ c.1)

/-- Addresses strictly above `b`, rising, and no listing of what an unlisted address reads as. -/
def memWfAbove : Nat → List Host.Cell → Bool
  | _, [] => true
  | b, (k, v) :: t => decide (b < k) && decide (v ≠ memDefault k) && memWfAbove k t

/-- The canonical form: addresses rising, none in the boot ROM, no byte listed that an unlisted
address reads as. -/
def Memory.wf (m : List Host.Cell) : Bool := memWfAbove 0x7FFFF m

/-! ### Uninterpreted primitives as byte strings -/

/-- `n` bytes of the output of a standard's primitive (log 1). -/
def crypto (f : CryptoFn) (ps : List Nat) (ins : List (List Byte)) (n : Nat) : List Byte :=
  (List.range n).map (Config.cryptoByte f ps ins)

/-- ALG codes of 07 R208 used by the device's own compositions. -/
def algSha256 : Nat := 2
def algSha384 : Nat := 3
def algSha512 : Nat := 4
def algSha3x256 : Nat := 9
def algSha3x384 : Nat := 10
def algKmac256 : Nat := 13

/-- A sum of placed fields as a number. -/
def sumF (l : List Nat) : Nat := l.foldl (· + ·) 0

end Sys2Proof.Machine
end

