-- ==== Sys2Proof/Machine/Modes.lean ====
section
/-! DEFINITION. The constructions that the chapters build on the primitives of the standards: the modes of the block
ciphers (03 R88, R101, 06 R185, R186, R191, 11 R330, R332), and HKDF with SHA-384 (03 R95, R98). -/

namespace Sys2Proof.Machine

/-! ### Bytes -/

/-- A big-endian integer. -/
def beNat (b : List Byte) : Nat := leNat b.reverse

/-- XOR byte by byte, as long as the shorter one. -/
def xorBytes (a b : List Byte) : List Byte := List.zipWith (· ^^^ ·) a b

/-- Zeros up to a whole number of `n`-byte blocks. -/
def padBlocks (n : Nat) (b : List Byte) : List Byte := padTo (ceilDiv b.length n * n) b

/-- The blocks of `n` bytes of some data; the last one may be shorter. -/
def blocksOf (n : Nat) (b : List Byte) : List (List Byte) :=
  (List.range (ceilDiv b.length n)).map fun i => sliceB b (n * i) n

/-! ### Block ciphers and their modes (06 R185; SP 800-38A) -/

/-- A block cipher: its block length and its two directions under a key. -/
structure Cipher where
  len : Nat
  enc : List Byte → List Byte → List Byte
  dec : List Byte → List Byte → List Byte

/-- One block of AES under a key, and its inverse (FIPS 197). -/
def aesBlock (key block : List Byte) : List Byte := crypto .block [0] [key, block] 16
def aesInverse (key block : List Byte) : List Byte := crypto .block [3] [key, block] 16

def aes : Cipher := { len := 16, enc := aesBlock, dec := aesInverse }

/-- TDEA (SP 800-67). -/
def tdea : Cipher :=
  { len := 8, enc := fun key b => crypto .block [1] [key, b] 8, dec := fun key b => crypto .block [2] [key, b] 8 }

/-- ECB, forward and inverse. -/
def ecbEnc (c : Cipher) (key data : List Byte) : List Byte := ((blocksOf c.len data).map (c.enc key)).flatten
def ecbDec (c : Cipher) (key data : List Byte) : List Byte := ((blocksOf c.len data).map (c.dec key)).flatten

/-- CBC: the ciphertext, by the chain of its blocks from the IV on. -/
def cbcEnc (c : Cipher) (key iv data : List Byte) : List Byte :=
  ((blocksOf c.len data).foldl (fun (r : List Byte × List Byte) p =>
    let x := c.enc key (xorBytes p r.1)
    (x, r.2 ++ x)) (iv, [])).2

/-- CBC: the plaintext. -/
def cbcDec (c : Cipher) (key iv data : List Byte) : List Byte :=
  let l := blocksOf c.len data
  (List.zipWith (fun x prev => xorBytes (c.dec key x) prev) l (iv :: l)).flatten

/-- CFB with 128-bit feedback: the ciphertext. -/
def cfbEnc (key iv data : List Byte) : List Byte :=
  ((blocksOf 16 data).foldl (fun (r : List Byte × List Byte) p =>
    let x := xorBytes p (aesBlock key r.1)
    (x, r.2 ++ x)) (iv, [])).2

/-- CFB with 128-bit feedback: the plaintext. -/
def cfbDec (key iv data : List Byte) : List Byte :=
  let l := blocksOf 16 data
  (List.zipWith (fun x prev => xorBytes x (aesBlock key prev)) l (iv :: l)).flatten

/-- OFB; the same function encrypts and decrypts. -/
def ofbMode (key iv data : List Byte) : List Byte :=
  ((blocksOf 16 data).foldl (fun (r : List Byte × List Byte) p =>
    let o := aesBlock key r.1
    (o, r.2 ++ xorBytes p o)) (iv, [])).2

/-- The counter block `k` steps on: its low 32 bits, big-endian, are incremented modulo 2^32. -/
def ctrStep (b : List Byte) (k : Nat) : List Byte :=
  b.take 12 ++ beBytes 4 ((beNat (sliceB b 12 4) + k) % 2 ^ 32)

/-- The key stream of `n` blocks from a counter block on. -/
def ctrStream (key b : List Byte) (n : Nat) : List Byte :=
  ((List.range n).map fun k => aesBlock key (ctrStep b k)).flatten

/-- Data under the key stream; the same function encrypts and decrypts. -/
def ctrMode (key b data : List Byte) : List Byte := xorBytes data (ctrStream key b (ceilDiv data.length 16))

/-- Twice an element of GF(2^128) in the order of IEEE 1619. -/
def doubled (t : Nat) : Nat := if bitAt t 127 then (2 * t) % 2 ^ 128 ^^^ 0x87 else 2 * t

/-- The tweak of each block of a data unit: the unit's number as a 128-bit little-endian integer, encrypted under
the second half of the key, and doubled from block to block (06 R186). -/
def xtsTweak (key2 : List Byte) (unit : Nat) : Nat → Nat
  | 0 => leNat (aesBlock key2 (leBytes 16 unit))
  | j + 1 => doubled (xtsTweak key2 unit j)

/-- XTS over whole data units of `du` bytes, numbered from `dun` on. -/
def xtsMode (f : List Byte → List Byte → List Byte) (key : List Byte) (dun du : Nat) (data : List Byte) : List Byte :=
  let half := key.length / 2
  let one (u : Nat) (j : Nat) (b : List Byte) : List Byte :=
    let t := leBytes 16 (xtsTweak (key.drop half) u j)
    xorBytes (f (key.take half) (xorBytes b t)) t
  let unit (i : Nat) (d : List Byte) : List Byte := ((blocksOf 16 d).mapIdx (one (dun + i))).flatten
  ((blocksOf du data).mapIdx unit).flatten

/-! ### GCM and GMAC with a nonce of 12 bytes (06 R191; SP 800-38D) -/

/-- J0 = nonce || 0x00000001. -/
def gcmJ0 (iv : List Byte) : List Byte := iv ++ [0, 0, 0, 1]

/-- An element of GF(2^128) times x, bit 0 of a block being its most significant one. -/
def timesX (v : Nat) : Nat := if bitAt v 0 then v >>> 1 ^^^ 0xE1 <<< 120 else v >>> 1

/-- The product of two blocks in GF(2^128). -/
def gfMul (x y : Nat) : Nat :=
  ((List.range 128).foldl (fun (r : Nat × Nat) i =>
    (if bitAt x (127 - i) then r.1 ^^^ r.2 else r.1, timesX r.2)) (0, y)).1

/-- GHASH of whole blocks under the hash key. -/
def ghash (h : Nat) (b : List Byte) : Nat := (blocksOf 16 b).foldl (fun y x => gfMul (y ^^^ beNat x) h) 0

/-- The ciphertext of data, or the data of a ciphertext. -/
def gcmCrypt (key iv data : List Byte) : List Byte := ctrMode key (ctrStep (gcmJ0 iv) 1) data

/-- The 16-byte tag over additional data and ciphertext. -/
def gcmTag (key iv aad ct : List Byte) : List Byte :=
  let lens := beBytes 8 (8 * aad.length) ++ beBytes 8 (8 * ct.length)
  let y := ghash (beNat (aesBlock key (List.replicate 16 0))) (padBlocks 16 aad ++ padBlocks 16 ct ++ lens)
  xorBytes (beBytes 16 y) (aesBlock key (gcmJ0 iv))

/-- Ciphertext and tag. -/
def gcmSeal (key iv aad data : List Byte) : List Byte :=
  let ct := gcmCrypt key iv data
  ct ++ gcmTag key iv aad ct

/-- The data of a ciphertext whose tag verifies. -/
def gcmOpen (key iv aad sealed : List Byte) : Option (List Byte) :=
  let ct := sealed.take (sealed.length - 16)
  if gcmTag key iv aad ct = sealed.drop (sealed.length - 16) then some (gcmCrypt key iv ct) else none

/-! ### CCM (SP 800-38C) -/

/-- Counter block `i` of CCM, and the first block of its MAC. -/
def ccmCtr (nonce : List Byte) (i : Nat) : List Byte :=
  [BitVec.ofNat 8 (14 - nonce.length)] ++ nonce ++ beBytes (15 - nonce.length) i
def ccmFirst (nonce : List Byte) (aad n t : Nat) : List Byte :=
  [BitVec.ofNat 8 ((if aad = 0 then 0 else 64) + 8 * ((t - 2) / 2) + (14 - nonce.length))] ++ nonce
    ++ beBytes (15 - nonce.length) n

/-- The data under the key stream from counter block 1 on. -/
def ccmCrypt (key nonce data : List Byte) : List Byte :=
  xorBytes data ((List.range (ceilDiv data.length 16)).map fun i => aesBlock key (ccmCtr nonce (i + 1))).flatten

/-- The tag of `t` bytes over additional data and plaintext. -/
def ccmTag (key nonce aad data : List Byte) (t : Nat) : List Byte :=
  let a := if aad = [] then [] else padBlocks 16 (beBytes 2 aad.length ++ aad)
  let m := ccmFirst nonce aad.length data.length t ++ a ++ padBlocks 16 data
  let y := (blocksOf 16 m).foldl (fun y x => aesBlock key (xorBytes y x)) (List.replicate 16 0)
  (xorBytes y (aesBlock key (ccmCtr nonce 0))).take t

/-! ### AES-GCM-SIV (RFC 8452) -/

/-- POLYVAL, by the relation to GHASH that RFC 8452 gives. -/
def polyval (h b : List Byte) : List Byte :=
  (beBytes 16 (ghash (timesX (beNat h.reverse)) ((blocksOf 16 b).map List.reverse).flatten)).reverse

/-- `n` bytes of the key derivation of a nonce, from block `i` on. -/
def sivDerive (key nonce : List Byte) (i n : Nat) : List Byte :=
  ((List.range (ceilDiv n 8)).map fun k => (aesBlock key (leBytes 4 (i + k) ++ nonce)).take 8).flatten.take n

/-- The tag over additional data and plaintext. -/
def sivTag (key nonce aad data : List Byte) : List Byte :=
  let lens := leBytes 8 (8 * aad.length) ++ leBytes 8 (8 * data.length)
  let y := polyval (sivDerive key nonce 0 16) (padBlocks 16 aad ++ padBlocks 16 data ++ lens)
  let x := xorBytes y (padTo 16 nonce)
  aesBlock (sivDerive key nonce 2 key.length) (x.take 15 ++ (x.drop 15).map fun b => b &&& 0x7F)

/-- The data under the key stream that a tag starts: the low 32 bits, little-endian, count. -/
def sivCrypt (key nonce tag data : List Byte) : List Byte :=
  let c := (tag.take 15).drop 4 ++ (tag.drop 15).map fun b => b ||| 0x80
  let block (i : Nat) : List Byte :=
    aesBlock (sivDerive key nonce 2 key.length) (leBytes 4 ((leNat (tag.take 4) + i) % 2 ^ 32) ++ c)
  xorBytes data ((List.range (ceilDiv data.length 16)).map block).flatten

/-! ### ChaCha20-Poly1305 (RFC 8439, 06 R191) -/

/-- Block `i` of the ChaCha20 key stream. -/
def chachaBlock (key nonce : List Byte) (i : Nat) : List Byte := crypto .block [4, i] [key, nonce] 64

/-- The data under the key stream; the block counter starts at 1. -/
def chachaCrypt (key nonce data : List Byte) : List Byte :=
  xorBytes data ((List.range (ceilDiv data.length 64)).map fun i => chachaBlock key nonce (i + 1)).flatten

/-- The 16-byte Poly1305 tag, its key from block 0. -/
def chachaTag (key nonce aad ct : List Byte) : List Byte :=
  let lens := leBytes 8 aad.length ++ leBytes 8 ct.length
  crypto .block [5] [(chachaBlock key nonce 0).take 32, padBlocks 16 aad ++ padBlocks 16 ct ++ lens] 16

/-! ### KW and KWP (SP 800-38F) -/

/-- Step `t` of the wrapping function over a check value and semiblocks, and its inverse. -/
def kwStep (key : List Byte) (n : Nat) (r : List Byte × List Byte) (t : Nat) : List Byte × List Byte :=
  let i := 8 * ((t - 1) % n)
  let b := aesBlock key (r.1 ++ sliceB r.2 i 8)
  (xorBytes (b.take 8) (beBytes 8 t), r.2.take i ++ b.drop 8 ++ r.2.drop (i + 8))
def kwBack (key : List Byte) (n : Nat) (r : List Byte × List Byte) (t : Nat) : List Byte × List Byte :=
  let i := 8 * ((t - 1) % n)
  let b := aesInverse key (xorBytes r.1 (beBytes 8 t) ++ sliceB r.2 i 8)
  (b.take 8, r.2.take i ++ b.drop 8 ++ r.2.drop (i + 8))

/-- The wrapping function over an ICV and whole semiblocks; one semiblock is one block of AES. -/
def kwSeal (key icv m : List Byte) : List Byte :=
  let n := m.length / 8
  if n = 1 then aesBlock key (icv ++ m)
  else
    let r := (List.range' 1 (6 * n)).foldl (kwStep key n) (icv, m)
    r.1 ++ r.2

/-- Its inverse: the check value and what it covers. -/
def kwOpen (key w : List Byte) : List Byte × List Byte :=
  let n := w.length / 8 - 1
  if n = 1 then
    let b := aesInverse key w
    (b.take 8, b.drop 8)
  else (List.range' 1 (6 * n)).reverse.foldl (kwBack key n) (w.take 8, w.drop 8)

/-- The default ICVs of KW, and of KWP with the length of the data. -/
def kwIcv : List Byte := List.replicate 8 0xA6
def kwpIcv (n : Nat) : List Byte := [0xA6, 0x59, 0x59, 0xA6] ++ beBytes 4 n

/-! ### CMAC (SP 800-38B) -/

/-- AES-CMAC. -/
def cmac (key m : List Byte) : List Byte :=
  let twice (b : List Byte) : List Byte := beBytes 16 (doubled (beNat b))
  let k1 := twice (aesBlock key (List.replicate 16 0))
  let n := ceilDiv m.length 16
  let tail := m.drop (16 * (n - 1))
  let end_ := if tail.length = 16 then xorBytes tail k1 else xorBytes (padTo 16 (tail ++ [0x80])) (twice k1)
  (blocksOf 16 (m.take (16 * (n - 1)) ++ end_)).foldl (fun y x => aesBlock key (xorBytes y x)) (List.replicate 16 0)

/-! ### HKDF with SHA-384 (03 R95, R98; RFC 5869) -/

/-- HMAC with SHA-384. -/
def hmac384 (key m : List Byte) : List Byte := crypto .hmac [algSha384] [key, m] 48

/-- HKDF-Extract. -/
def hkdf384Extract (salt ikm : List Byte) : List Byte := hmac384 salt ikm

/-- HKDF-Expand to at most 48 bytes, which is its first block. -/
def hkdf384Expand (prk info : List Byte) (n : Nat) : List Byte := (hmac384 prk (info ++ [1])).take n

end Sys2Proof.Machine
end

