-- ==== Sys2Proof/Machine/Wire.lean ====
section
/-! DEFINITION. The bytes of rope and fabric bodies. 14 R413 and R440 list the fields of each body; their order is
that of the tables, every number little-endian (00 R11), and the widths that no rule gives are the model's (log 94). -/

namespace Sys2Proof.Machine

/-! ### Pieces -/

/-- A flag in one byte. -/
def wBool (b : Bool) : List Byte := leBytes 1 (b2n b)

/-- A byte string behind its length in 4 bytes. -/
def wBytes (b : List Byte) : List Byte := leBytes 4 b.length ++ b

/-- A list behind its length in 4 bytes. -/
def wList {α : Type} (f : α → List Byte) (l : List α) : List Byte := leBytes 4 l.length ++ (l.map f).flatten

/-- A value that may be absent: one byte says so. -/
def wOpt {α : Type} (f : α → List Byte) : Option α → List Byte
  | none => [0]
  | some x => [1] ++ f x

/-- A number of `n` bytes. -/
def wN (n v : Nat) : List Byte := leBytes n v

/-- An index of 32 bits. -/
def wIdx (v : W32) : List Byte := leBytes 4 v.toNat

/-- A word of 64 bits. -/
def wWord (v : Word) : List Byte := leBytes 8 v.toNat

/-- A numbered set: the number of each thing in 4 bytes before it. -/
def wTab {α : Type} (f : α → List Byte) (t : Tab α) : List Byte := wList (fun p => wN 4 p.1 ++ f p.2) t

/-! ### Records -/

/-- The 64-byte entry header W0-W7 (05 R153). -/
def wHeader (h : Header) : List Byte :=
  wN 8 (putF h.lenUnits 0 16 + putF h.opcode 16 12 + putF h.chain 28 4 + putF h.part 32 8 + putF h.mirror 40 8)
    ++ wWord h.tag ++ wWord h.keyA ++ wWord h.keyB ++ wN 4 h.inBytes ++ wN 4 h.outMax ++ wWord h.param0 ++ wWord h.param1
    ++ wN 4 h.streamId ++ wN 4 0

/-- A vault object: generation, partition, class and family, the fields of 11 R319, its material and its state. -/
def wObj (o : KeyObj) : List Byte :=
  wN 4 o.gen ++ wN 1 o.part ++ wN 1 o.cls ++ wN 1 o.fam ++ wN 4 o.param ++ wN 8 o.policy ++ wN 8 o.invLead ++ wN 8 o.invSecond
    ++ wN 8 o.cap ++ wBytes o.salt ++ wOpt (wN 4) o.link ++ wWord o.label ++ wN 8 o.next ++ wN 8 o.travAt ++ wN 8 o.wcount
    ++ wBool o.lost ++ wBytes o.trav ++ wBytes o.mat

/-- A credential (12 R366) with its scope and index. -/
def wCred (c : Cred) : List Byte := wN 1 c.role ++ wN 1 c.alg ++ wN 1 c.part ++ wN 1 c.index ++ wBool c.card ++ wBytes c.key

/-- A proposal and its state (12 R355, R360). -/
def wProposal (p : Proposal) : List Byte :=
  wN 4 p.id ++ wN 1 p.kind ++ wN 1 p.cls ++ wN 1 p.part ++ wN 1 p.m ++ wBytes p.nonce ++ wWord p.devId ++ wN 8 p.deadline
    ++ wBytes p.digest ++ wN 1 p.state ++ wList (wN 4) p.image ++ wN 2 p.opcode ++ wN 1 p.opPart
    ++ wList (fun a => wN 1 a.1 ++ wN 1 a.2) p.approvers ++ wBytes p.token ++ wN 8 p.expires ++ wN 8 p.tokenEnd
    ++ wN 4 p.session

/-- The 40-byte record of the quorum journal (12 R365). -/
def wJRec (r : JRec) : List Byte :=
  wN 8 r.pitch ++ wN 4 r.id ++ wN 1 r.event ++ wN 1 r.scope ++ wN 1 r.index ++ wN 1 r.cls ++ wN 2 r.status ++ wBytes r.digest8

/-- A change of the quorum state (12 R364). -/
def wQuorum (q : QuorumMirror) : List Byte :=
  wList wProposal q.props ++ wList (wN 4) q.gone ++ wList (wN 1) q.partsOn ++ wList (wN 1) q.partsOff ++ wList wCred q.credsOn
    ++ wList wCred q.credsOff ++ wN 8 q.serial

/-- A stream context (05 R159-R163, R167). -/
def wStream (t : Stream) : List Byte :=
  wN 2 t.slot ++ wN 8 t.id ++ wN 4 t.sid ++ wN 2 t.opcode ++ wN 1 t.part ++ wN 1 t.mirror ++ wBool t.stateClass ++ wWord t.keyA
    ++ wWord t.keyB ++ wWord t.param0 ++ wWord t.param1 ++ wBool t.opened ++ wBytes t.iv ++ wBytes t.aad ++ wBytes t.data
    ++ wN 8 t.fetched ++ wN 4 t.entries ++ wN 4 t.done ++ wN 8 t.doneBytes ++ wBytes t.template ++ wBytes t.seed
    ++ wBytes t.leaves ++ wN 2 t.blocks ++ wN 8 t.lastRelease ++ wN 4 t.inFlight ++ wBool t.ended

/-- A session position (14 R413, R418). -/
def wSessPos (p : SessPos) : List Byte :=
  wN 2 p.slot ++ wN 1 p.event ++ wN 4 p.sid ++ wN 1 p.port ++ wN 1 p.part ++ wN 1 p.role ++ wBool p.deviceLevel ++ wIdx p.epoch
    ++ wIdx p.txNext ++ wIdx p.rxNext ++ wN 2 p.maxFrame ++ wN 16 p.dest ++ wN 16 p.loc ++ wN 2 p.window ++ wTab wIdx p.rheads
    ++ wTab wIdx p.pidxs ++ wBytes p.prk

/-- The root store: slots, bindings and tenant seeds (11 R326). -/
def wRoots (roots : Tab (List Byte)) (binds : Tab Nat) (seeds : Tab (List Byte)) : List Byte :=
  wTab wBytes roots ++ wTab (wN 1) binds ++ wTab wBytes seeds

/-- Session, queue number and index of an entry. -/
def wEntry (session qnum : Nat) (entry : W32) : List Byte := wN 2 session ++ wN 2 qnum ++ wIdx entry

/-- A queue as it is mirrored: its size and its indices. -/
def wQueue (session qnum sizeLog2 : Nat) (pidx cidx chead : W32) : List Byte :=
  wN 2 session ++ wN 2 qnum ++ wN 1 sizeLog2 ++ wIdx pidx ++ wIdx cidx ++ wIdx chead

/-! ### Bodies -/

/-- One state change of 14 R418 behind its number. -/
def wChange : Change → List Byte
  | .keyPut slot o => [1] ++ wN 4 slot ++ wObj o
  | .keyDel slot gen => [2] ++ wN 4 slot ++ wN 4 gen
  | .bind s q e n slot o => [3] ++ wEntry s q e ++ wBytes n ++ wN 4 slot ++ wObj o
  | .made s q e out objs => [4] ++ wEntry s q e ++ wBytes out ++ wTab wObj objs
  | .leaf s q e leaf slot o => [5] ++ wEntry s q e ++ wN 8 leaf ++ wN 4 slot ++ wObj o
  | .unmade s q e => [6] ++ wEntry s q e
  | .quorum q => [7] ++ wQuorum q
  | .journal r => [8] ++ wJRec r
  | .queuePut s q lg p c h => [9] ++ wQueue s q lg p c h
  | .queueDel s q => [10] ++ wN 2 s ++ wN 2 q
  | .queueTear s q gone p => [11] ++ wN 2 s ++ wN 2 q ++ wBool gone ++ wIdx p
  | .queueNext s q c => [12] ++ wEntry s q c
  | .leafHolder away => [13] ++ wBool away
  | .staging s q sid n => [14] ++ wN 2 s ++ wN 2 q ++ wN 4 sid ++ wN 2 n
  | .stagingAns s q sid g => [15] ++ wN 2 s ++ wN 2 q ++ wN 4 sid ++ wBool g
  | .roots r b d => [16] ++ wRoots r b d
  | .ask slot => [17] ++ wN 4 slot
  | .answer slot o => [18] ++ wN 4 slot ++ wObj o

/-- One record of the copy of 14 R435 behind its number. -/
def wBulk : BulkRec → List Byte
  | .roots r b d => [1] ++ wRoots r b d
  | .quorum q j => [2] ++ wQuorum q ++ wList wJRec j
  | .session p => [3] ++ wSessPos p
  | .queue s q lg p c h t => [4] ++ wQueue s q lg p c h ++ wOpt (fun x => wBool x.1 ++ wIdx x.2) t
  | .streams s q l => [5] ++ wN 2 s ++ wN 2 q ++ wList wStream l
  | .object slot o => [6] ++ wN 4 slot ++ wObj o
  | .staging s q sid n => [7] ++ wN 2 s ++ wN 2 q ++ wN 4 sid ++ wN 2 n

/-- A job that one device sends to the other (14 R429). -/
def wForwarded (f : Forwarded) : List Byte :=
  wN 4 f.id ++ wEntry f.session f.qnum f.entry ++ wHeader f.hdr ++ wBytes f.input ++ wOpt wBytes f.nonce ++ wOpt (wN 8) f.leaf
    ++ wOpt wStream f.stream ++ wOpt (fun r => wN 2 r.status ++ wBytes r.out) f.made ++ wBool f.committed

/-- The cumulative SEQ applied in each class. -/
def wAcked (a : Nat × Nat × Nat) : List Byte := wN 8 a.1 ++ wN 8 a.2.1 ++ wN 8 a.2.2

/-- The body of a JOIN_HELLO. -/
def helloBody (devId : Word) (role dir : Nat) (nonce : List Byte) : List Byte :=
  wWord devId ++ wN 1 role ++ wN 1 dir ++ nonce

/-- The body of a frame (14 R413, R440, R441). -/
def ropeBytes : RopeBody → List Byte
  | .joinHello d r dir n => helloBody d r dir n
  | .joinAttest r sig => r ++ sig
  | .joinKey k p => k ++ p
  | .heartbeat mode st pitch a trust => wN 1 mode ++ wN 1 st ++ wN 8 pitch ++ wAcked a ++ wBool trust
  | .ack a => wAcked a
  | .fence r => wN 1 r
  | .handover kind l addrs => wN 1 kind ++ wList (wN 2) l ++ wTab (wList (wN 16)) addrs
  | .state c => wChange c
  | .head s q h l => wN 2 s ++ wN 2 q ++ wIdx h ++ wList wStream l
  | .sessionPos p => wSessPos p
  | .forward f => [0] ++ wForwarded f
  | .forwardResult id r n => [1] ++ wN 4 id ++ wN 2 r.status ++ wBytes r.out ++ wOpt wBytes n
  | .entryUnits s q first b => wN 2 s ++ wN 2 q ++ wIdx first ++ b
  | .relay port addr d => wN 1 port ++ wN 16 addr ++ d
  | .bulk r => wBulk r
  | .replicate op slot gen pack => wN 1 op ++ wN 4 slot ++ wN 4 gen ++ (pack.getD [])
  | .replAck slot gen => wN 4 slot ++ wN 4 gen
  | .announce member second routes => wN 2 member ++ wBool second ++ (routes.map fun r => wN 2 r.1 ++ wN 1 r.2).flatten

end Sys2Proof.Machine
end

