-- ==== Sys2Proof/Machine/Ops.lean ====
section
/-! DEFINITION. The named operations that every family shares: stored registers, modes, counters,
interrupt sources, what leaves the block, random bytes, the cairn buffer and the rope mirror. -/

namespace Sys2Proof.Machine

/-! ### Stored registers -/

/-- First CSR offset of a block: block index × 64 KiB (19 R555). -/
def blk (n : Nat) : Nat := n * 0x10000

/-- Reset values of the RW registers that do not reset to 0 (19 R555 and the chapters it names). -/
def rwReset (off : Nat) : Nat :=
  if off = 0x10010 then 0xC350
  else if off = 0x30000 then 0x00100258_00C8001E
  else if off = 0x40000 ∨ off = 0x50000 ∨ off = 0x60000 ∨ off = 0x70000 then 0x0025A800_00000000
  else if off = 0x120010 then 0x1_0000C350
  else if off = 0x120020 then 0xC350
  else if off = 0x150028 then 6
  else if off = 0x160000 then 1
  else if off = 0x1E0000 then 0x100
  else 0

/-- Base, size as log2, permissions R W X and MTYPE of region 0 of ACU `n` under the boot rules (13
R397, R407, R410). The SRAM ports are not an aligned power of two, so the smallest aligned region that
holds the port covers them (DEDUCED, log 9). -/
def acuBoot (n : Nat) : Nat × Nat × Nat × Nat :=
  match n with
  | 0 => (0, 19, 0b101, 0)
  | 1 => (0, 23, 0b111, 0)
  | 2 => (0, 24, 0b111, 0)
  | 3 => (0, 23, 0b011, 2)
  | 4 | 5 | 6 | 7 | 8 => (0x1000000, 21, 0b011, 3)
  | 13 => (0x10000000, 28, 0b011, 3)
  | _ => (0x10000000000 + (n - 9) * 0x100000000, 32, 0b111, 0)

/-- Reset values of the RWQ registers, staged and in force (12 R369, 13 R407, 15 R473). -/
def rwqReset (off : Nat) : Nat :=
  if off = 0x100000 then 0x0000022222222222
  else if off = 0x100008 then 0x0000_0258_0E10_003C
  else if off = 0x130000 then 0x007FFF00
  else if off = 0x130008 then 0x00600300
  else if off = 0x130010 then 0x1111113311111111
  else if off = 0x130018 then 0x01111131
  else if off = 0x130020 then 0x000A0022
  else if off = 0x130028 then 0x00050808
  else if off = 0x130030 then 0x00014E20
  else if off = 0x130038 then 4
  else if off = 0x130040 then 0xD36E
  else if 0x110000 ≤ off ∧ off < 0x113800 ∧ (off - 0x110000) % 0x400 < 0x18 then
    let n := (off - 0x110000) / 0x400
    let (base, lg, perm, mt) := acuBoot n
    match (off - 0x110000) % 0x20 with
    | 0 => 1 + putF lg 2 6 + base
    | 8 => 0x7F3F7FFF
    | _ => 2 + putF perm 2 3 + putF mt 6 2
  else 0

/-- An RW register as stored. -/
def rw (s : State) (off : Nat) : Nat := (tgetD s.regs off (BitVec.ofNat 64 (rwReset off))).toNat

/-- Stores an RW register; a register at its reset value is not listed. -/
def setRw (off v : Nat) (s : State) : State :=
  { s with regs := if v % 2 ^ 64 = rwReset off then tdel s.regs off
                   else tput s.regs off (BitVec.ofNat 64 v) }

/-- The staged value of an RWQ register (00 R16). -/
def staged (s : State) (off : Nat) : Nat :=
  (tgetD s.rwq off (BitVec.ofNat 64 (rwqReset off), 0)).1.toNat

/-- The value in force of an RWQ register (00 R16). -/
def inForce (s : State) (off : Nat) : Nat :=
  (tgetD s.rwq off (0, BitVec.ofNat 64 (rwqReset off))).2.toNat

/-- Stores both values of an RWQ register; at the reset values it is not listed. -/
def rwqPut (t : Tab (Word × Word)) (off st fo : Nat) : Tab (Word × Word) :=
  if st % 2 ^ 64 = rwqReset off ∧ fo % 2 ^ 64 = rwqReset off then tdel t off
  else tput t off (BitVec.ofNat 64 st, BitVec.ofNat 64 fo)

/-- Changes the staged value. -/
def setStaged (off v : Nat) (s : State) : State :=
  { s with rwq := rwqPut s.rwq off v (inForce s off) }

/-- Copies the staged values of a list of registers into force (12 R362). -/
def copyForce (s : State) (offs : List Nat) : Tab (Word × Word) :=
  offs.foldl (fun t o => rwqPut t o (staged s o) (staged s o)) s.rwq

/-! ### Modes and time -/

/-- SYSCTL_MODE.MODE (01 R42). -/
def Mode.code : Mode → Nat
  | .vault => 0 | .startup => 1 | .service => 2 | .degraded => 3 | .maintenance => 4 | .lockdown => 5

/-- One second in pitches (02 R44). -/
def second : Nat := 500000

/-- SERVICE, DEGRADED or MAINTENANCE, and no avalanche in progress: the device serves. -/
def serving (s : State) : Bool :=
  (s.sys.mode == .service || s.sys.mode == .degraded || s.sys.mode == .maintenance) && !s.tam.line

/-- The compute die runs: main power is present and no avalanche holds it (01 R35, 15 R459). -/
def dieOn (s : State) : Bool := s.sys.mode != .vault && !s.tam.holdDie

/-! ### Counters -/

/-- Statistics counter `i` of block `b` counts `k` more and saturates at 2^48 - 1. -/
def bump (b i k : Nat) (s : State) : State :=
  if k = 0 then s
  else { s with cnt := tput s.cnt (b * 64 + i) (satAdd 48 (tgetD s.cnt (b * 64 + i) 0) k) }

/-- EVC_CFGn. -/
def evcCfg (s : State) (n : Nat) : Nat := rw s (0x160100 + 8 * n)

/-- One event counter takes `k` events (16 R486): value, and whether it overflows now. -/
def evcCount (saturate : Bool) (v k : Nat) : Nat × Bool :=
  if saturate then
    (min (v + k) (2 ^ 48 - 1), decide (v < 2 ^ 48 - 1) && decide (2 ^ 48 - 1 ≤ v + k))
  else
    ((v + k) % 2 ^ 48, decide (v < 2 ^ 48 - 1) && decide (2 ^ 48 - 1 ≤ v + k)
      || decide (v = 2 ^ 48 - 1) && decide (2 ^ 48 ≤ k))

/-- Counter `n` of the event counters sees `k` events of source `src`. -/
def evcOne (s : State) (src k : Nat) (e : Evc) (n : Nat) : Evc :=
  let c := evcCfg s n
  if fld c 0 8 = src ∧ bitAt c 9 = true then
    let r := evcCount (bitAt c 8) (tgetD e.vals n 0) k
    { e with vals := tput e.vals n r.1, due := if r.2 then e.due ++ [n] else e.due }
  else e

/-- An event of 16 R488 occurs `k` times. -/
def evcAdd (src k : Nat) (s : State) : State :=
  if k = 0 ∨ bitAt (rw s 0x160000) 0 = false then s
  else { s with evc := (List.range 32).foldl (evcOne s src k) s.evc }

/-! ### Interrupt sources -/

/-- Source `n` becomes pending (13 R381); a claimed source is re-evaluated at its completion. -/
def raise (n : Nat) (s : State) : State :=
  if 8 ≤ n ∧ n < 32 then s
  else
    let i := tgetD s.world.irqs n { base := decide (32 ≤ n) }
    { s with world := { s.world with irqs := tput s.world.irqs n { i with pend := true } } }

/-- PAIR_STAT.STATE. A self-fenced device shows 5 until it synchronises as target (14 R423, R448). -/
def pairShown (s : State) : Nat := if s.pair.fencedOff && [0, 1, 7].contains s.pair.st then 5 else s.pair.st

/-- The pair controller goes to a state; every change of PAIR_STAT.STATE raises source 7 (13 R381, 14 R448). -/
def pairState (st : Nat) (s : State) : State :=
  let t := { s with pair := { s.pair with st := st } }
  if pairShown t = pairShown s then t else raise 7 t

/-! ### What leaves the block -/

/-- Appends to what has left the block (log 3). -/
def emit (e : OutEv) (s : State) : State := { s with out := s.out ++ [e] }

/-! ### Random bytes -/

/-- The next `n` bytes of conditioned noise. -/
def freeBytes (s : State) (n : Nat) : List Byte :=
  (List.range n).map fun i => Config.freeByte (s.freeCtr + i)

/-- Uses up `n` bytes of conditioned noise. -/
def useBytes (n : Nat) (s : State) : State := { s with freeCtr := s.freeCtr + n }

/-! ### The cairn write buffer -/

/-- A record of an event that happens now (15 R465). -/
def cairnEnt (s : State) (type : Nat) (bitmap : BitVec 32) : CairnEnt :=
  { type, rtc := s.tam.rtc, bitmap, lcs := s.life.code, trk := s.vault.trk, mode := s.sys.mode.code }

/-- A tamper, F3 or ZEROIZE record is dropped and counted when the buffer is full; the operation
behind any other record waits for a free entry (15 R468). -/
def cairnPut (c : Cairn) (e : CairnEnt) : Cairn :=
  if c.buf.length < 16 then { c with buf := c.buf ++ [e] }
  else if e.type ≤ 0x21 then { c with ovf := satAdd 32 c.ovf 1 }
  else { c with waiting := c.waiting ++ [e] }

/-- Places one record in the cairn write buffer. -/
def cairnPlace (type : Nat) (bitmap : BitVec 32) (s : State) : State :=
  { s with cairn := cairnPut s.cairn (cairnEnt s type bitmap) }

/-! ### The rope mirror (14 R413-R418) -/

/-- The pair keys are set and the partner takes mirror frames (14 R434, R435). -/
def mirroring (s : State) : Bool :=
  s.pair.keys && (s.pair.st == 2 || s.pair.st == 3 || s.pair.st == 6)

/-- A member of an established pair. -/
def paired (s : State) : Bool := s.sys.paired

/-- The frames that mirror state (14 R418, R449). -/
def isMirror : RopeBody → Bool
  | .state _ | .head _ _ _ _ | .sessionPos _ | .entryUnits _ _ _ _ => true
  | _ => false

/-- TYPE of a rope frame (14 R413), or of a fabric frame (14 R440). -/
def ropeType : RopeBody → Nat
  | .joinHello _ _ _ _ => 0x01
  | .joinAttest _ _ => 0x02
  | .joinKey _ _ => 0x03
  | .heartbeat _ _ _ _ _ => 0x10
  | .ack _ => 0x11
  | .fence _ => 0x12
  | .handover _ _ _ => 0x13
  | .state _ => 0x20
  | .head _ _ _ _ => 0x21
  | .sessionPos _ => 0x22
  | .forward _ | .forwardResult _ _ _ => 0x23
  | .entryUnits _ _ _ _ => 0x24
  | .relay _ _ _ => 0x25
  | .bulk _ => 0x26
  | .announce _ _ _ => 1
  | .replicate _ _ _ _ => 2
  | .replAck _ _ => 3

/-- The 16-byte header of a rope frame (14 R412). -/
def ropeHeader (cls seq : Nat) (b : RopeBody) : List Byte :=
  [1] ++ leBytes 1 (ropeType b) ++ leBytes 1 cls ++ [0] ++ leBytes 8 seq ++ leBytes 2 (ropeBytes b).length ++ [0, 0]

/-- The IV of a protected frame: the direction IV XORed with CLASS in byte 0 and SEQ in bytes 4-11 (14 R414). -/
def ropeIv (iv : List Byte) (cls seq : Nat) : List Byte :=
  xorBytes (padTo 12 iv) (leBytes 1 cls ++ [0, 0, 0] ++ leBytes 8 seq)

/-- A protected frame under a direction key: the header is the additional data (14 R414). -/
def ropeFrame (k iv : List Byte) (cls seq : Nat) (b : RopeBody) : List Byte :=
  ropeHeader cls seq b ++ gcmSeal k (ropeIv iv cls seq) (ropeHeader cls seq b) (ropeBytes b)

/-! ### Rope ports and their transmit queues (14 R411, R415, R421, R439) -/

def ropePort (s : State) (p : Nat) : RopePort := if p = 0 then s.pair.port0 else s.pair.port1

def setRope (p : Nat) (r : RopePort) (s : State) : State :=
  if p = 0 then { s with pair := { s.pair with port0 := r } } else { s with pair := { s.pair with port1 := r } }

/-- PAIR_FAB.EN and PAIR_CTL.JOIN in force. -/
def fabOn (s : State) : Bool := bitAt (inForce s 0x1F0018) 0
def joinOn (s : State) : Bool := bitAt (inForce s 0x1F0010) 0

/-- The port carries rope frames: in fabric mode ROPE0 of a device that is paired or is to join (14 R439; DEDUCED,
log 95). -/
def usesRope (s : State) (p : Nat) : Bool := decide (p < 2) && (!fabOn s || (p == 0 && (joinOn s || paired s)))

/-- The port carries fabric frames: both ports of an unpaired member, ROPE1 of a paired one. -/
def usesFabric (s : State) (p : Nat) : Bool := decide (p < 2) && fabOn s && (p == 1 || !paired s)

/-- The port is up and in use for the rope link. -/
def ropeUp (s : State) (p : Nat) : Bool := usesRope s p && (ropePort s p).up

/-- The port has received no frame that authenticates for 300 us. -/
def portSilent (s : State) (p : Nat) : Bool :=
  (ropePort s p).silent || decide ((ropePort s p).lastAuth + 150 ≤ s.sched.pitch)

/-- Every port that carries rope frames is silent. -/
def linkSilent (s : State) : Bool := [0, 1].all fun p => !usesRope s p || portSilent s p

/-- Bytes of a frame on the wire: addresses, EtherType and FCS around its payload. -/
def frameBytes : OutEv → Nat
  | .rope _ _ _ _ b => b.length + 18
  | _ => 0

/-- Bytes that a port sends in one pitch at 200 Gb/s (14 R411). -/
def portRate : Nat := 50000

/-- Bytes that a port has sent in this pitch, and the length of its transmit queue with them. -/
def portSent (s : State) (p : Nat) : Nat := if (ropePort s p).loadAt = s.sched.pitch then (ropePort s p).load else 0
def portLoad (s : State) (p : Nat) : Nat := portSent s p + ((ropePort s p).txq.map frameBytes).foldl (· + ·) 0

/-- The ports that a new frame of a class leaves on: both for class 0 and 1, for class 2 the one with the shorter
transmit queue, ROPE0 when they are equal (14 R415; DESIGN CHOICE, log 95). -/
def ropePorts (cls : Nat) (s : State) : List Nat :=
  let up := [0, 1].filter (ropeUp s)
  if cls < 2 then up
  else if up.length = 2 && decide (portLoad s 1 < portLoad s 0) then [1] else up.take 1

/-- A port has sent `n` bytes more. -/
def addLoad (n : Nat) (s : State) (p : Nat) : State :=
  setRope p { ropePort s p with load := portSent s p + n, loadAt := s.sched.pitch } s

/-- A frame leaves on the ports given. -/
def ropeOut (e : OutEv) (ports : List Nat) (s : State) : State :=
  let p0 := b2n (ports.contains 0)
  let p1 := b2n (ports.contains 1)
  let s1 := ports.foldl (addLoad (frameBytes e)) s
  evcAdd 0x59 p1 (evcAdd 0x58 p0 (bump 9 0 p1 (bump 8 0 p0 { s1 with out := s1.out ++ [e] })))

/-- The port has no room in this pitch for a frame of class 2. -/
def portFull (s : State) (p : Nat) : Bool := decide (portRate ≤ portSent s p) || !(ropePort s p).txq.isEmpty

/-- A protected frame is queued on the ports given. Frames of class 0 and 1 go ahead of those of class 2, which wait
for a pitch in which their port has room. -/
def ropeEmit (cls seq : Nat) (b : RopeBody) (ports : List Nat) (s : State) : State :=
  let e : OutEv := .rope cls seq b ports (ropeFrame s.pair.keyOut s.pair.ivOut cls seq b)
  match if cls = 2 then ports.find? (portFull s) else none with
  | some p => setRope p { ropePort s p with txq := (ropePort s p).txq ++ [e] } s
  | none => ropeOut e ports s

/-- Frames of class 2 leave a port in order while the pitch has room. -/
def drainPort (p : Nat) : Nat → State → State
  | 0, s => s
  | fuel + 1, s =>
    match (ropePort s p).txq with
    | [] => s
    | e :: rest =>
      if portRate ≤ portSent s p then s
      else drainPort p fuel (ropeOut e [p] (setRope p { ropePort s p with txq := rest } s))

/-- The transmit queues of both ports at the beginning of a pitch. -/
def drainRope (s : State) : State :=
  [0, 1].foldl (fun t p => drainPort p (ropePort t p).txq.length t) s

/-- Sends one protected frame of a class; it waits for the partner's acknowledgement (14 R415). -/
def ropeSend (cls : Nat) (b : RopeBody) (s : State) : State :=
  if s.pair.keys = false then s
  else
    let q := nthD s.pair.tx cls 0
    let f : RopeTx := { cls, seq := q, body := b, sentAt := s.sched.pitch }
    let s1 := { s with pair := { s.pair with tx := setNth s.pair.tx cls (q + 1), unacked := s.pair.unacked ++ [f] } }
    bump 31 0 (b2n (isMirror b)) (ropeEmit cls q b (ropePorts cls s) s1)

/-- Mirrors one state change; answers the class 1 count that the partner must have applied before
what the change gates may happen. On an unpaired device nothing waits (01 R29). -/
def mirror (c : Change) (s : State) : State :=
  if mirroring s then ropeSend 1 (.state c) s else s

/-- The class 1 count up to which everything sent so far must be acknowledged. -/
def gate1 (s : State) : Nat := if paired s then nthD s.pair.tx 1 0 else 0

/-- The same for class 2 (entry units). -/
def gate2 (s : State) : Nat := if paired s then nthD s.pair.tx 2 0 else 0

/-- A count of class `cls` has been acknowledged, or nothing waits for a partner (01 R29, R33). -/
def acked (s : State) (cls need : Nat) : Bool :=
  !paired s || decide (need ≤ nthD s.pair.acked cls 0)

/-- FENCE is sent once, best effort, on both ports (14 R424); nothing waits for it. -/
def sendFence (reason : Nat) (s : State) : State :=
  if s.pair.keys = false then s
  else ropeEmit 0 (nthD s.pair.tx 0 0) (.fence reason) (ropePorts 0 s)
    { s with pair := { s.pair with tx := setNth s.pair.tx 0 (nthD s.pair.tx 0 0 + 1) } }

end Sys2Proof.Machine
end

