-- ==== Sys2Proof/Machine/Operands.lean ====
section
/-! DEFINITION. What the header of an entry fixes: its fields, parameter sets, quota, unit class,
keys, permitted lengths, draws, creations and largest output (02 R50, 05 R153-R158, and the opcode
tables of 06 to 12). -/

namespace Sys2Proof.Machine

/-! ### The header (05 R153) -/

/-- W0-W7 from the 64 bytes of a header unit. -/
def decodeHeader (b : List Byte) : Header :=
  let w0 := leAt b 0 8
  { lenUnits := fld w0 0 16, opcode := fld w0 16 12, chain := fld w0 28 4, part := fld w0 32 8,
    mirror := fld w0 40 8, rsvOk := fld w0 48 16 == 0 && leAt b 60 4 == 0,
    tag := BitVec.ofNat 64 (leAt b 8 8), keyA := BitVec.ofNat 64 (leAt b 16 8),
    keyB := BitVec.ofNat 64 (leAt b 24 8), inBytes := leAt b 32 4, outMax := leAt b 36 4,
    param0 := BitVec.ofNat 64 (leAt b 40 8), param1 := BitVec.ofNat 64 (leAt b 48 8),
    streamId := leAt b 56 4 }

/-- The header as bytes, W1 zeroed (12 R356). -/
def headerBytes0 (h : Header) : List Byte :=
  leBytes 8 (h.lenUnits + h.opcode * 2 ^ 16 + h.chain * 2 ^ 28 + h.part * 2 ^ 32 + h.mirror * 2 ^ 40)
    ++ leBytes 8 0 ++ leBytes 8 h.keyA.toNat ++ leBytes 8 h.keyB.toNat
    ++ leBytes 4 h.inBytes ++ leBytes 4 h.outMax ++ leBytes 8 h.param0.toNat
    ++ leBytes 8 h.param1.toNat ++ leBytes 8 h.streamId

end Sys2Proof.Machine

namespace Sys2Proof

/-- A field of PARAM0. -/
def Header.p0 (h : Header) (lo w : Nat) : Nat := Machine.fld h.param0.toNat lo w

/-- A field of PARAM1. -/
def Header.p1 (h : Header) (lo w : Nat) : Nat := Machine.fld h.param1.toNat lo w

/-- CHAIN 0 or 1: the entry carries the parts marked "first" (06 R188). -/
def Header.isFirst (h : Header) : Bool := h.chain == 0 || h.chain == 1

/-- CHAIN 0 or 3: the entry carries the parts marked "last". -/
def Header.isLast (h : Header) : Bool := h.chain == 0 || h.chain == 3

end Sys2Proof

namespace Sys2Proof.Machine

/-! ### Opcode classes (05 R174) -/

/-- The unit classes of 02 R46, the entropy output, firmware and tenant functions. -/
inductive UCls where
  | lane | sha2 | keccak | pke | lat | ke | ent | firm | tenant
  deriving DecidableEq, Repr

/-- Opcodes of the symmetric class (06 R184). -/
def symOps : List Nat :=
  [0x100, 0x101, 0x104, 0x105, 0x108, 0x109, 0x10C, 0x10D, 0x110, 0x111, 0x118, 0x119, 0x120, 0x121,
   0x124, 0x125, 0x128, 0x129, 0x12C, 0x12D, 0x130, 0x131, 0x132, 0x133, 0x140, 0x141, 0x150, 0x151,
   0x154, 0x155]

/-- Opcodes of the hash class (07 R212). -/
def hashOps : List Nat :=
  [0x200, 0x201, 0x204, 0x210, 0x211, 0x214, 0x215, 0x218, 0x219, 0x220, 0x221, 0x222, 0x224, 0x226,
   0x228, 0x229]

/-- Opcodes of the PKE class (08 R233). -/
def pkeOps : List Nat :=
  [0x300, 0x301, 0x302, 0x303, 0x304, 0x305, 0x308, 0x310, 0x311, 0x314, 0x315, 0x318, 0x319, 0x31C]

/-- Opcodes of the lattice class (09 R260). -/
def latOps : List Nat :=
  [0x400, 0x401, 0x402, 0x410, 0x411, 0x412, 0x420, 0x421, 0x422, 0x430, 0x431, 0x432, 0x434, 0x435,
   0x436, 0x440]

/-- Key-management opcodes (11 R337). -/
def keyOps : List Nat :=
  [0x500, 0x504, 0x505, 0x508, 0x509, 0x510, 0x511, 0x520, 0x521, 0x530, 0x5F0, 0x5F1, 0x5F2, 0x5F3]

/-- Admin opcodes (04 R136, 15 R471, 17 R501, R519). -/
def adminOps : List Nat := [1, 2, 3, 4, 5, 0x010, 0x020, 0x021, 0x022, 0x030, 0x031]

/-- Quorum opcodes (12 R366). -/
def quorumOps : List Nat :=
  [0x700, 0x701, 0x702, 0x703, 0x704, 0x705, 0x706, 0x708, 0x709, 0x70C, 0x710, 0x711, 0x714, 0x715,
   0x718, 0x719, 0x720, 0x721]

/-- Admin and quorum opcodes: accepted only on admin queues. -/
def adminOnly (op : Nat) : Bool := decide (op < 0x100) || decide (0x700 ≤ op ∧ op < 0x800)

/-- Opcodes that some chapter defines; a tenant function must exist as well (13 R390). -/
def implemented (op : Nat) : Bool :=
  symOps.contains op || hashOps.contains op || pkeOps.contains op || latOps.contains op
    || keyOps.contains op || adminOps.contains op || quorumOps.contains op
    || op == 0x600 || op == 0x608 || decide (0x800 ≤ op ∧ op < 0x900)

/-- CMAC runs on a cipher lane (07 R211). -/
def isCmac (op : Nat) : Bool := op == 0x218 || op == 0x219

/-- PBKDF2 (07 R212). -/
def isPbkdf (op : Nat) : Bool := op == 0x228 || op == 0x229

/-- KDFs from a vault key (07 R212). -/
def isKdf (op : Nat) : Bool := [0x220, 0x221, 0x222, 0x224, 0x226].contains op

/-- The unit class that serves an entry (02 R46, 07 R208, R211). -/
def unitClass (h : Header) : UCls :=
  let op := h.opcode
  if op < 0x100 then .firm
  else if op < 0x200 then .lane
  else if op < 0x300 then
    if isCmac op then .lane
    else if isPbkdf op then .sha2
    else if h.p0 0 4 < 8 then .sha2 else .keccak
  else if op < 0x400 then .pke
  else if op < 0x500 then .lat
  else if op < 0x600 then .ke
  else if op < 0x700 then .ent
  else if op < 0x800 then .firm
  else .tenant

/-- The units of a class, numbered 0-111 as 16 R489 numbers them. -/
def UCls.units : UCls → List Nat
  | .lane => List.range' 0 4
  | .sha2 => List.range' 4 8
  | .keccak => List.range' 12 8
  | .pke => List.range' 20 64
  | .lat => List.range' 84 16
  | .ke => List.range' 100 8
  | _ => []

/-- Jobs that hold a unit of 02 R46. -/
def UCls.needsUnit (c : UCls) : Bool := !c.units.isEmpty

/-! ### DEST, PSET and the public parameters -/

/-- DEST of an opcode that has one: where its result goes (07 R214, 08 R235, 09 R261, 11 R338). -/
def destOf (h : Header) : Nat :=
  let op := h.opcode
  if isKdf op || isPbkdf op then h.p0 6 2
  else if op == 0x308 || op == 0x31C || op == 0x318 || op == 0x319 then h.p0 14 2
  else if [0x400, 0x401, 0x402, 0x410, 0x420, 0x430, 0x434, 0x440].contains op then h.p0 8 2
  else if op == 0x500 then h.p0 0 2
  else 0

/-- k = ceil(ITER / 8,192) (07 R212). -/
def pbkdfK (h : Header) : Nat := ceilDiv (h.p1 0 32) 8192

/-- PITCH_QSEL.PSET of an entry (02 R69). -/
def qselPset (h : Header) : Nat :=
  let op := h.opcode
  let st := if destOf h ≠ 0 then 0x80 else 0
  if isKdf op then st
  else if isPbkdf op then pbkdfK h + st
  else if op == 0x318 || op == 0x319 then h.p0 0 8 + st
  else if 0x300 ≤ op ∧ op < 0x400 then h.p0 0 8
  else if op == 0x400 || op == 0x401 || op == 0x402 then h.p0 0 8 + st
  else if op == 0x430 || op == 0x434 then h.p0 0 8 + (if h.isLast then 0x80 else 0)
  else if op == 0x440 then st
  else if 0x400 ≤ op ∧ op < 0x500 then h.p0 0 8
  else 0

/-! ### Quota forms (02 R50, R69) -/

/-- PITCH_QVAL. -/
structure QForm where
  base : Nat := 0
  stepLog2 : Nat := 0
  /-- STEP counts OUT_MAX in place of IN_BYTES. -/
  stepOut : Bool := false
  mirror : Nat := 0
  unquoted : Bool := false
  deriving DecidableEq, Repr

/-- Private and public operation quotas of the RSA classes 1-9 (08 R230). -/
def rsaQuota (pset : Nat) : Option (Nat × Nat) :=
  if pset = 0 then none
  else ([(56, 6), (76, 8), (96, 10), (512, 20), (640, 32), (2240, 72), (5280, 128), (17728, 288),
    (41984, 512)] : List (Nat × Nat))[pset - 1]?

/-- A curve of 08 R231: fb, ob, and the quotas sign, verify, derive, key generation (0 = none). -/
structure Curve where
  fb : Nat
  ob : Nat
  sign : Nat
  verify : Nat
  derive : Nat
  keygen : Nat
  deriving DecidableEq, Repr

/-- The curves of 08 R231 by PSET. -/
def curveOf (pset : Nat) : Option Curve :=
  if pset = 0 then none
  else ([⟨32, 32, 32, 72, 40, 34⟩, ⟨48, 48, 72, 160, 88, 74⟩, ⟨66, 66, 160, 360, 200, 162⟩,
    ⟨32, 32, 40, 88, 48, 42⟩, ⟨48, 48, 96, 200, 112, 98⟩, ⟨64, 64, 192, 420, 240, 194⟩,
    ⟨32, 32, 32, 72, 40, 34⟩, ⟨32, 32, 0, 0, 20, 22⟩, ⟨56, 56, 0, 0, 48, 50⟩,
    ⟨32, 32, 24, 48, 0, 26⟩, ⟨57, 56, 64, 128, 0, 66⟩] : List Curve)[pset - 1]?

/-- Family of a curve: ECC 8, XDH 9, EDDSA 10 (08 R231, 11 R316). -/
def curveFam (pset : Nat) : Nat := if pset ≤ 7 then 8 else if pset ≤ 9 then 9 else 10

/-- ek, dk, ciphertext bytes and the quotas keygen, encaps, decaps of ML-KEM (09 R255). -/
def mlkemSet (pset : Nat) : Option (Nat × Nat × Nat × Nat × Nat × Nat) :=
  match pset with
  | 1 => some (800, 1632, 768, 6, 4, 4)
  | 2 => some (1184, 2400, 1088, 8, 6, 6)
  | 3 => some (1568, 3168, 1568, 12, 8, 8)
  | _ => none

/-- pk, sk, signature bytes, the quotas keygen, sign, verify, and the attempt budget of ML-DSA
(09 R256). -/
def mldsaSet (pset : Nat) : Option (Nat × Nat × Nat × Nat × Nat × Nat × Nat) :=
  match pset with
  | 1 => some (1312, 2560, 2420, 8, 36, 6, 168)
  | 2 => some (1952, 4032, 3309, 10, 48, 8, 204)
  | 3 => some (2592, 4896, 4627, 14, 60, 12, 148)
  | _ => none

/-- Attempt budget of a parameter set of ML-DSA (09 R256). -/
def attemptBudget (pset : Nat) : Nat := ((mldsaSet pset).map fun t => t.2.2.2.2.2.2).getD 0

/-- n, signature bytes and the quotas keygen, sign, verify of SLH-DSA (09 R257). -/
def slhSet (pset : Nat) : Option (Nat × Nat × Nat × Nat × Nat) :=
  if pset = 0 ∨ 12 < pset then none
  else ([(16, 7856, 2432, 18000, 36), (16, 17088, 40, 900, 100), (24, 16224, 3530, 32400, 50),
    (24, 35664, 57, 1440, 144), (32, 29792, 2317, 28260, 72), (32, 49856, 147, 2950, 146)] :
    List (Nat × Nat × Nat × Nat × Nat))[(pset - 1) % 6]?

/-- Parameters of a stateful key: hash bytes, tree height per level, levels, chain count and hash
calls per leaf, leaves and build leaves (09 R258, R259). -/
structure StSet where
  n : Nat
  hh : Nat
  levels : Nat
  p : Nat
  lc : Nat
  leaves : Nat
  build : Nat
  deriving DecidableEq, Repr

/-- LMS/HSS parameters (09 R258). -/
def lmsSet (pset : Nat) : Option StSet :=
  if 128 ≤ pset then none
  else
    let n := if pset % 2 = 0 then 32 else 24
    let hh := 10 + 5 * fld pset 2 2
    let w8 := bitAt pset 4
    let levels := fld pset 5 2 + 1
    let p := if n = 32 then (if w8 then 34 else 67) else (if w8 then 26 else 51)
    let lc := p * 2 ^ (if w8 then 8 else 4)
    some { n, hh, levels, p, lc, leaves := 2 ^ (hh * levels), build := levels * 2 ^ hh }

/-- XMSS and XMSS^MT parameters (09 R259). -/
def xmssSet (pset : Nat) : Option StSet :=
  if 64 ≤ pset then none
  else
    let n := if pset % 2 = 0 then 32 else 24
    let len := if n = 32 then 67 else 51
    (([(10, 1, 10), (16, 1, 16), (20, 1, 20), (20, 2, 10), (20, 4, 5), (40, 2, 20), (40, 4, 10),
      (40, 8, 5), (60, 3, 20), (60, 6, 10), (60, 12, 5)] : List (Nat × Nat × Nat))[fld pset 2 4]?).map
      fun (th, d, hh) =>
        { n, hh, levels := d, p := len, lc := 52 * len, leaves := 2 ^ th, build := d * 2 ^ hh }

/-- sign and build quotas of a stateful set (09 R258). -/
def stSign (t : StSet) : Nat := 4 + t.levels * ceilDiv ((ceilDiv t.hh 2 + 3) * t.lc) 100
def stBuild (t : StSet) : Nat := 2 + ceilDiv (256 * t.lc) 100

/-- Quota forms of the symmetric opcodes (06 R184): odd opcodes decrypt or verify. -/
def symForm (op : Nat) : Option QForm :=
  if symOps.contains op then
    some (if op % 2 = 0 then { base := 4, stepLog2 := 14, mirror := 2 } else { base := 2, stepLog2 := 14 })
  else none

/-- Quota forms of the hash opcodes (07 R212). -/
def hashForm (op pset : Nat) : Option QForm :=
  if isPbkdf op then
    let k := pset % 0x80
    let per := if op = 0x228 then 178 else 274
    if k = 0 ∨ 0x100 ≤ pset then none
    else if 0x80 ≤ pset then some { base := 4 + per * k, stepLog2 := 12, mirror := 2 }
    else some { base := 2 + per * k, stepLog2 := 12 }
  else if isKdf op && pset == 0x80 then some { base := 4, stepLog2 := 12, mirror := 2 }
  else if hashOps.contains op && pset == 0 then some { base := 2, stepLog2 := 12 }
  else none

/-- Quota forms of the PKE opcodes (08 R230, R231, R233). -/
def pkeForm (op pset : Nat) : Option QForm :=
  let fixed (b m : Nat) : Option QForm := if b = 0 then none else some { base := b, mirror := m }
  if op == 0x300 || op == 0x302 || op == 0x305 then (rsaQuota pset).bind fun q => fixed q.1 0
  else if op == 0x301 || op == 0x303 || op == 0x304 then (rsaQuota pset).bind fun q => fixed q.2 0
  else if op == 0x308 then (rsaQuota pset).map fun _ => { base := 4, mirror := 2, unquoted := true }
  else if op == 0x310 && decide (pset ≤ 7) then (curveOf pset).bind fun c => fixed c.sign 0
  else if op == 0x311 && decide (pset ≤ 7) then (curveOf pset).bind fun c => fixed c.verify 0
  else if op == 0x314 && decide (10 ≤ pset) then (curveOf pset).bind fun c => fixed c.sign 0
  else if op == 0x315 && decide (10 ≤ pset) then (curveOf pset).bind fun c => fixed c.verify 0
  else if op == 0x318 || op == 0x319 then
    let ps := pset % 0x80
    let fam := if op == 0x318 then 8 else 9
    if curveFam ps = fam ∧ pset < 0x100 then
      (curveOf ps).bind fun c => if 0x80 ≤ pset then fixed (c.derive + 2) 2 else fixed c.derive 0
    else none
  else if op == 0x31C then (curveOf pset).bind fun c => fixed c.keygen 2
  else none

/-- Quota forms of the lattice opcodes (09 R255-R260). -/
def latForm (op pset : Nat) : Option QForm :=
  let fixed (b m : Nat) : Option QForm := some { base := b, mirror := m }
  let stored := decide (0x80 ≤ pset)
  let ps := pset % 0x80
  match op with
  | 0x400 => (mlkemSet ps).bind fun t => if stored then fixed (t.2.2.2.1 + 2) 2 else fixed t.2.2.2.1 0
  | 0x401 => (mlkemSet ps).bind fun t => if stored then fixed (t.2.2.2.2.1 + 2) 2 else fixed t.2.2.2.2.1 0
  | 0x402 => (mlkemSet ps).bind fun t => if stored then fixed (t.2.2.2.2.2 + 2) 2 else fixed t.2.2.2.2.2 0
  | 0x410 => (mldsaSet pset).bind fun t => fixed t.2.2.2.1 2
  | 0x411 => (mldsaSet pset).bind fun t => fixed t.2.2.2.2.1 0
  | 0x412 => (mldsaSet pset).bind fun t => fixed t.2.2.2.2.2.1 0
  | 0x420 => (slhSet pset).bind fun t => fixed t.2.2.1 2
  | 0x421 => (slhSet pset).bind fun t => fixed t.2.2.2.1 0
  | 0x422 => (slhSet pset).bind fun t => fixed t.2.2.2.2 0
  | 0x430 => (lmsSet ps).bind fun t => if stored then fixed (stBuild t + 2) 2 else fixed (stBuild t) 0
  | 0x431 => (lmsSet pset).bind fun t => fixed (stSign t) 2
  | 0x432 => (lmsSet pset).bind fun t => fixed (2 + t.levels * ceilDiv (t.lc + t.hh) 100) 0
  | 0x434 => (xmssSet ps).bind fun t => if stored then fixed (stBuild t + 2) 2 else fixed (stBuild t) 0
  | 0x435 => (xmssSet pset).bind fun t => fixed (stSign t) 2
  | 0x436 => (xmssSet pset).bind fun t => fixed (2 + t.levels * ceilDiv (t.lc + 4 * t.hh) 100) 0
  | 0x440 => if pset = 0 then fixed 2 0 else if pset = 0x80 then fixed 4 2 else none
  | _ => none

/-- Quota forms of the key-management opcodes (11 R337). -/
def keyForm (op : Nat) : Option QForm :=
  if !keyOps.contains op then none
  else if op == 0x508 || op == 0x509 then some { base := 2 }
  else if op == 0x510 || op == 0x520 || op == 0x5F2 then some { base := 4 }
  else if op == 0x5F0 || op == 0x5F3 then some { base := 6, mirror := 2 }
  else some { base := 4, mirror := 2 }

/-- Floor quotas of the unquoted opcodes (04 R136, 12 R366, 13 R390, 15 R471, 17 R501, R519).
ZEROIZE has none and is released at the first boundary after it begins (12 R590). A tenant opcode has its form
whether a function is installed or not (DESIGN CHOICE, log 97). -/
def firmForm (op : Nat) : Option QForm :=
  let u (b m : Nat) : Option QForm := some { base := b, mirror := m, unquoted := true }
  if op == 1 || op == 2 || op == 3 || op == 4 then u 4 2
  else if op == 5 || op == 0x010 || op == 0x021 || op == 0x031 || op == 0x705 || op == 0x706 then u 1 0
  else if op == 0x020 || op == 0x022 || op == 0x030 || op == 0x720 then u 4 0
  else if op == 0x70C then u 1 0
  else if quorumOps.contains op then u 4 2
  else if 0x800 ≤ op ∧ op < 0x900 then u 1 0
  else none

/-- PITCH_QVAL of an opcode and parameter set; `none` is VALID = 0 (02 R69). -/
def qform (op pset : Nat) : Option QForm :=
  if 0x300 ≤ op ∧ op < 0x400 then pkeForm op pset
  else if 0x400 ≤ op ∧ op < 0x500 then latForm op pset
  else if 0x200 ≤ op ∧ op < 0x300 then hashForm op pset
  else if pset ≠ 0 then none
  else if op == 0x600 then some { base := 1, stepLog2 := 11, stepOut := true }
  else if op == 0x608 then some { base := 1 }
  else if 0x100 ≤ op ∧ op < 0x200 then symForm op
  else if 0x500 ≤ op ∧ op < 0x600 then keyForm op
  else firmForm op

/-- The quota form of an entry. -/
def formOf (h : Header) : Option QForm := qform h.opcode (qselPset h)

/-- BASE + ceil(N / 2^STEP_LOG2) (02 R50, R69). -/
def QForm.quota (f : QForm) (inB outM : Nat) : Nat :=
  f.base + (if f.stepLog2 = 0 then 0 else ceilDiv (if f.stepOut then outM else inB) (2 ^ f.stepLog2))

/-- The quota of an entry, or the floor of an unquoted one. -/
def quotaOf (h : Header) : Nat := ((formOf h).getD { base := 1 }).quota h.inBytes h.outMax

/-- The opcode and parameter set change state (05 R165). -/
def changesState (h : Header) : Bool := ((formOf h).getD {}).mirror != 0

/-- Released under 02 R51. -/
def isUnquoted (h : Header) : Bool := ((formOf h).getD {}).unquoted

/-- STATE is honoured (05 R165); everything else is mirrored as FULL. -/
def honoursState (h : Header) : Bool :=
  h.mirror == 1 && !changesState h && (formOf h).isSome
    && (match unitClass h with | .lane | .sha2 | .keccak | .pke | .lat | .ent => true | _ => false)

/-! ### Hash lengths and signature sizes -/

/-- Output or PRF length of an ALG code (07 R208), SHAKE as 09 R261 uses it. -/
def algLen (alg : Nat) : Nat :=
  ([20, 28, 32, 48, 64, 28, 32, 0, 28, 32, 48, 64, 32, 64, 32, 64] : List Nat).getD alg 0

/-- ALG 1-6 and 8-11. -/
def algPlain (a : Nat) : Bool := decide (1 ≤ a ∧ a ≤ 6) || decide (8 ≤ a ∧ a ≤ 11)

/-- The class of a modulus of `w` bits (08 R230); 0 where there is none. -/
def rsaClass (w : Nat) : Nat :=
  if w % 64 ≠ 0 ∨ w < 1024 ∨ 16384 < w then 0
  else ((([1024, 1536, 2048, 3072, 4096, 6144, 8192, 12288, 16384] : List Nat).findIdx? fun t => w ≤ t).getD 8) + 1

/-- HSS or XMSS public key bytes (11 R588). -/
def stPub (op : Nat) (t : StSet) : Nat := if op < 0x434 then 28 + t.n else 4 + 2 * t.n

/-- Signature bytes: HSS (RFC 8554) and XMSS (RFC 8391) (09 R262). -/
def stSig (op : Nat) (t : StSet) : Nat :=
  if op < 0x434 then
    4 + t.levels * (4 + (4 + t.n * (t.p + 1)) + 4 + t.hh * t.n) + (t.levels - 1) * (24 + t.n)
  else (if t.levels = 1 then 4 else ceilDiv (t.levels * t.hh) 8) + t.n + t.levels * (t.n * (t.p + t.hh))

/-- The stateful set of an opcode (LMS or XMSS). -/
def stSet (op pset : Nat) : Option StSet := if op < 0x434 then lmsSet pset else xmssSet pset

/-! ### Parameter words (order 6 of 05 R157) -/

/-- All bits of PARAM0 and PARAM1 outside the masks are 0. -/
def onlyBits (h : Header) (m0 m1 : Nat) : Bool :=
  (h.param0.toNat &&& m0) == h.param0.toNat && (h.param1.toNat &&& m1) == h.param1.toNat

/-- TAG_LEN of GCM and GMAC; 0 = 16 (06 R185, R186). -/
def gcmTagOk (t : Nat) : Bool := t == 0 || decide (12 ≤ t ∧ t ≤ 16)
def ccmTagOk (t : Nat) : Bool := t == 0 || (t % 2 == 0 && decide (4 ≤ t ∧ t ≤ 16))
def tagLen (h : Header) : Nat :=
  if [0x120, 0x121, 0x124, 0x125, 0x128, 0x129].contains h.opcode then
    (if h.p1 0 5 = 0 then 16 else h.p1 0 5)
  else 16
def nonceLen (h : Header) : Nat :=
  if h.opcode == 0x129 then (if h.p1 8 4 = 0 then 12 else h.p1 8 4) else 12

/-- Opcodes that carry additional data (06 R186). -/
def hasAad (op : Nat) : Bool :=
  [0x120, 0x121, 0x128, 0x129, 0x12C, 0x12D, 0x140, 0x141].contains op

/-- AAD_BYTES of an entry. -/
def aadLen (h : Header) : Nat := if hasAad h.opcode then h.p0 0 32 else 0

/-- PARAM words of the symmetric opcodes (06 R186). -/
def symParamOk (h : Header) : Bool :=
  let op := h.opcode
  let aadOk := aadLen h == 0 || h.isFirst
  if op == 0x100 || op == 0x104 then onlyBits h 1 0 && (h.p0 0 1 == 0 || h.isLast)
  else if op == 0x118 || op == 0x119 then
    onlyBits h (2 ^ 64 - 1) 0x1F && decide (9 ≤ h.p1 0 5 ∧ h.p1 0 5 ≤ 19)
  else if op == 0x120 then onlyBits h 0xFFFFFFFF 0x1F && gcmTagOk (h.p1 0 5) && aadOk
  else if op == 0x121 then
    onlyBits h 0xFFFFFFFF 0xFFFFFFFF0000001F && gcmTagOk (h.p1 0 5) && aadOk
      && (h.chain != 0 || h.p1 32 32 == 0)
  else if op == 0x124 || op == 0x125 then onlyBits h 0 0x1F && gcmTagOk (h.p1 0 5)
  else if op == 0x128 then onlyBits h 0xFFFFFFFF 0x1F && ccmTagOk (h.p1 0 5)
  else if op == 0x129 then
    onlyBits h 0xFFFFFFFF 0xF1F && ccmTagOk (h.p1 0 5)
      && (h.p1 8 4 == 0 || decide (7 ≤ h.p1 8 4 ∧ h.p1 8 4 ≤ 13))
  else if op == 0x12C || op == 0x12D || op == 0x140 then onlyBits h 0xFFFFFFFF 0 && aadOk
  else if op == 0x141 then
    onlyBits h 0xFFFFFFFF 0xFFFFFFFF00000000 && aadOk && (h.chain != 0 || h.p1 32 32 == 0)
  else onlyBits h 0 0

/-- OUT_LEN of the hash opcodes, with 0 standing for the default (07 R214). -/
def hashOutLen (h : Header) : Nat :=
  let o := h.p0 16 16
  let op := h.opcode
  if op == 0x200 then algLen (h.p0 0 4)
  else if op == 0x201 || op == 0x210 || op == 0x211 then (if o = 0 then algLen (h.p0 0 4) else o)
  else if op == 0x214 || op == 0x215 then (if o = 0 then 32 else o)
  else if isCmac op then (if o = 0 then 16 else o)
  else o

/-- OUT_LEN holds a value that the opcode defines (07 R214). -/
def hashOutLenOk (h : Header) : Bool :=
  let o := h.p0 16 16
  let op := h.opcode
  if op == 0x200 then o == 0
  else if op == 0x204 then decide (1 ≤ o ∧ o ≤ 8192)
  else if op == 0x201 || op == 0x210 || op == 0x211 then
    o == 0 || decide (12 ≤ o ∧ o ≤ algLen (h.p0 0 4))
  else if op == 0x214 || op == 0x215 then o == 0 || decide (16 ≤ o ∧ o ≤ 64)
  else if isCmac op then o == 0 || decide (8 ≤ o ∧ o ≤ 16)
  else if destOf h ≠ 0 then o == 0
  else if isPbkdf op then decide (1 ≤ o ∧ o ≤ (if op = 0x228 then 32 else 64))
  else decide (1 ≤ o ∧ o ≤ 512)

/-- ALG is one that the opcode permits (07 R209, R212, R214). -/
def hashAlgOk (h : Header) : Bool :=
  let a := h.p0 0 4
  match h.opcode with
  | 0x200 | 0x210 | 0x221 | 0x222 | 0x224 => algPlain a
  | 0x201 | 0x211 => algPlain a || a == 0
  | 0x204 => decide (12 ≤ a)
  | 0x214 | 0x215 => a == 12 || a == 13
  | 0x220 => algPlain a || a == 12 || a == 13
  | 0x226 => (decide (h.p0 4 2 ≤ 1) && algPlain a) || (h.p0 4 2 == 2 && (a == 12 || a == 13))
  | _ => a == 0

/-- S_BYTES, N_BYTES, IV_BYTES and SALT_BYTES where the opcode has them. -/
def hashS (h : Header) : Nat :=
  let a := h.p0 0 4
  if (h.opcode == 0x204 && decide (14 ≤ a)) || h.opcode == 0x214 || h.opcode == 0x215
    || (h.opcode == 0x220 && (a == 12 || a == 13)) then h.p1 0 16 else 0
def hashN (h : Header) : Nat := if h.opcode == 0x204 && decide (14 ≤ h.p0 0 4) then h.p1 16 16 else 0
def hashSalt (h : Header) : Nat :=
  if h.opcode == 0x221 || h.opcode == 0x224 || (h.opcode == 0x226 && h.p0 4 2 != 0) then h.p1 0 16
  else if isPbkdf h.opcode then h.p1 32 16 else 0

/-- PARAM1 of the hash opcodes (07 R214). -/
def hashP1Ok (h : Header) : Bool :=
  let a := h.p0 0 4
  match h.opcode with
  | 0x204 =>
    if 14 ≤ a then onlyBits h (2 ^ 64 - 1) 0xFFFFFFFF && decide (hashS h ≤ 256) && decide (hashN h ≤ 256)
    else h.param1 == 0
  | 0x214 | 0x215 => onlyBits h (2 ^ 64 - 1) 0xFFFF && decide (hashS h ≤ 256)
  | 0x220 => if a = 12 ∨ a = 13 then onlyBits h (2 ^ 64 - 1) 0xFFFF && decide (hashS h ≤ 256) else h.param1 == 0
  | 0x221 => onlyBits h (2 ^ 64 - 1) 0xFFFF && (h.p1 0 16 == 0 || h.p1 0 16 == algLen a)
  | 0x224 =>
    onlyBits h (2 ^ 64 - 1) 0x1FFFF && decide (h.p1 0 16 ≤ 256) && (h.p1 16 1 == 0 || h.p1 0 16 == 0)
  | 0x226 =>
    if h.p0 4 2 = 0 then h.param1 == 0 else onlyBits h (2 ^ 64 - 1) 0xFFFF && decide (h.p1 0 16 ≤ 256)
  | 0x228 | 0x229 =>
    onlyBits h (2 ^ 64 - 1) 0xFFFFFFFFFFFF && decide (1 ≤ h.p1 0 32 ∧ h.p1 0 32 ≤ 1040384)
      && decide (16 ≤ h.p1 32 16 ∧ h.p1 32 16 ≤ 256)
  | _ => h.param1 == 0

/-- PARAM words of the hash opcodes (07 R214). -/
def hashParamOk (h : Header) : Bool :=
  let kdf := isKdf h.opcode || isPbkdf h.opcode
  let m0 := 0xFFFF0000 + (if isCmac h.opcode || isPbkdf h.opcode then 0 else 0xF)
    + (if h.opcode = 0x226 then 0x30 else 0) + (if kdf then 0xC0 else 0)
  onlyBits h m0 (2 ^ 64 - 1) && hashAlgOk h && (!kdf || destOf h != 3) && hashOutLenOk h && hashP1Ok h

/-- INLINE of the PKE and lattice opcodes that have it. -/
def isInline (h : Header) : Bool :=
  if [0x301, 0x303, 0x304, 0x311, 0x315].contains h.opcode then h.p0 12 1 == 1
  else if [0x401, 0x412, 0x422, 0x432, 0x436].contains h.opcode then h.p0 10 1 == 1
  else false

/-- MOD_BITS is a multiple of 64 in the class that PSET names (08 R235). -/
def modBitsOk (h : Header) : Bool := h.p0 0 8 != 0 && rsaClass (h.p1 0 16) == h.p0 0 8

/-- HALG of the RSA opcodes (08 R235). -/
def rsaHalgOk (h : Header) : Bool :=
  algPlain (h.p0 8 4) || (h.p0 8 4 == 0 && (h.opcode == 0x301 || h.opcode == 0x303))

/-- PARAM words of the PKE opcodes (08 R234, R235). -/
def pkeParamOk (h : Header) : Bool :=
  let op := h.opcode
  let ps := h.p0 0 8
  let rsaPs := (rsaQuota ps).isSome
  let modOk := if isInline h then modBitsOk h && onlyBits h (2 ^ 64 - 1) 0xFFFF else h.param1 == 0
  match op with
  | 0x300 => onlyBits h 0xFFF 0 && rsaPs && rsaHalgOk h
  | 0x301 => onlyBits h 0x1FFF 0xFFFF && rsaPs && rsaHalgOk h && modOk
  | 0x302 => onlyBits h 0xFF0FFF 0 && rsaPs && rsaHalgOk h && decide (h.p0 16 8 ≤ algLen (h.p0 8 4))
  | 0x303 => onlyBits h 0xFF1FFF 0xFFFF && rsaPs && rsaHalgOk h && decide (h.p0 16 8 ≤ algLen (h.p0 8 4)) && modOk
  | 0x304 => onlyBits h 0xFF0000001FFF 0xFFFF && rsaPs && rsaHalgOk h && modOk
  | 0x305 => onlyBits h 0xFF0000000FFF 0 && rsaPs && rsaHalgOk h
  | 0x308 =>
    onlyBits h 0xC0FF 0xFFFFFFFF0000FFFF && rsaPs && decide (1 ≤ destOf h ∧ destOf h ≤ 2) && modBitsOk h
      && (h.p1 32 32 == 0 || (h.p1 32 32 % 2 == 1 && decide (65537 ≤ h.p1 32 32)))
  | 0x310 => onlyBits h 0xFF0000FF 0 && decide (1 ≤ ps ∧ ps ≤ 7) && decide (28 ≤ h.p0 24 8 ∧ h.p0 24 8 ≤ 64)
  | 0x311 => onlyBits h 0xFF0010FF 0 && decide (1 ≤ ps ∧ ps ≤ 7) && decide (20 ≤ h.p0 24 8 ∧ h.p0 24 8 ≤ 64)
  | 0x314 =>
    onlyBits h 0xFF000020FF 0 && (ps == 10 || ps == 11) && (ps != 10 || h.p0 13 1 == 1 || h.p0 32 8 == 0)
  | 0x315 =>
    onlyBits h 0xFF000030FF 0 && (ps == 10 || ps == 11) && (ps != 10 || h.p0 13 1 == 1 || h.p0 32 8 == 0)
  | 0x318 => onlyBits h 0xC0FF 0 && decide (1 ≤ ps ∧ ps ≤ 7) && decide (destOf h ≤ 1)
  | 0x319 => onlyBits h 0xC0FF 0 && (ps == 8 || ps == 9) && decide (destOf h ≤ 1)
  | 0x31C =>
    onlyBits h 0xC0FF 0 && (curveOf ps).isSome && decide (1 ≤ destOf h ∧ destOf h ≤ 2)
      && (destOf h == 1 || curveFam ps != 9)
  | _ => false

/-- MSG_MODE 0 pure, 1 prehash, 2 external μ (ML-DSA only) (09 R261). -/
def msgMode (h : Header) : Nat := h.p0 13 2
def msgModeOk (h : Header) : Bool :=
  decide (msgMode h ≤ 1) || (msgMode h == 2 && (h.opcode == 0x411 || h.opcode == 0x412))

/-- HALG in MSG_MODE 1; 0 otherwise. -/
def latHalgOk (h : Header) : Bool :=
  let a := h.p0 16 4
  if msgMode h = 1 then algPlain a || a == 12 || a == 13 else a == 0

/-- MSG_LEN holds a value that the verify opcode defines (09 R261). -/
def msgLenOk (h : Header) : Bool :=
  if h.opcode == 0x432 || h.opcode == 0x436 || msgMode h == 0 then decide (h.p1 0 16 ≤ 8192)
  else if msgMode h == 1 then h.p1 0 16 == algLen (h.p0 16 4)
  else h.p1 0 16 == 64

/-- PARAM words of the lattice opcodes (09 R261). -/
def latParamOk (h : Header) : Bool :=
  let ps := h.p0 0 8
  let d := destOf h
  match h.opcode with
  | 0x400 => onlyBits h 0x3FF 0 && (mlkemSet ps).isSome && d != 3
  | 0x401 => onlyBits h 0x7FF 0 && (mlkemSet ps).isSome && decide (d ≤ 1)
  | 0x402 => onlyBits h 0xBFF 0 && (mlkemSet ps).isSome && decide (d ≤ 1)
  | 0x410 => onlyBits h 0x3FF 0 && (mldsaSet ps).isSome && (d == 1 || d == 2)
  | 0x420 => onlyBits h 0x3FF 0 && (slhSet ps).isSome && (d == 1 || d == 2)
  | 0x411 => onlyBits h 0xFF0F70FF 0 && (mldsaSet ps).isSome && msgModeOk h && latHalgOk h
  | 0x421 => onlyBits h 0xFF0F70FF 0 && (slhSet ps).isSome && msgModeOk h && latHalgOk h
  | 0x412 =>
    onlyBits h 0xFF0F64FF 0xFFFF && (mldsaSet ps).isSome && msgModeOk h && latHalgOk h && msgLenOk h
  | 0x422 =>
    onlyBits h 0xFF0F64FF 0xFFFF && (slhSet ps).isSome && msgModeOk h && latHalgOk h && msgLenOk h
  | 0x430 => onlyBits h 0x3FF 0 && (lmsSet ps).isSome && (d == 1 || d == 2)
  | 0x434 => onlyBits h 0x3FF 0 && (xmssSet ps).isSome && (d == 1 || d == 2)
  | 0x431 => onlyBits h 0xFF 0 && (lmsSet ps).isSome
  | 0x435 => onlyBits h 0xFF 0 && (xmssSet ps).isSome
  | 0x432 => onlyBits h 0x4FF 0xFFFF && (lmsSet ps).isSome && msgLenOk h
  | 0x436 => onlyBits h 0x4FF 0xFFFF && (xmssSet ps).isSome && msgLenOk h
  | 0x440 =>
    onlyBits h 0x300 0xFFFF && d != 3
      && (if d = 0 then decide (1 ≤ h.p1 0 16 ∧ h.p1 0 16 ≤ 512) else h.param1 == 0)
  | _ => false

/-- PARAM words of the key-management opcodes (11 R338). -/
def keyParamOk (h : Header) : Bool :=
  match h.opcode with
  | 0x500 => onlyBits h 3 1 && (destOf h == 1 || destOf h == 2)
  | 0x530 => onlyBits h 0x3F 1 && decide (1 ≤ h.p0 0 6)
  | 0x5F1 => onlyBits h 0x1FF3F 1 && decide (1 ≤ h.p0 0 6)
  | _ => onlyBits h 0 1

/-- PARAM words of admin and quorum opcodes (04 R137, 12 R366, 15 R471). A PARAM word that the opcode does not use must
be 0 (05 R154); so must a field of one that it uses (DESIGN CHOICE, log 99). -/
def firmParamOk (h : Header) : Bool :=
  match h.opcode with
  | 1 => onlyBits h 0x1FFFFF 0xFFFFFFFF
  | 2 => onlyBits h 0x1FFFFF 0
  | 3 | 4 | 5 => onlyBits h 0xFFFF 0
  | 0x010 =>
    onlyBits h 0x3FF1FFF 0 && decide (1 ≤ h.p0 16 10 ∧ h.p0 16 10 ≤ 512)
      && decide (h.p0 0 13 + h.p0 16 10 ≤ 8192)
  | 0x706 => onlyBits h 0xFFFFFFFFFFFF 0 && decide (1 ≤ h.p0 32 16 ∧ h.p0 32 16 ≤ 256)
  | _ => onlyBits h 0 0

/-- The opcode may carry CHAIN ≠ 0 (06 R184, 07 R212, 09 R260). -/
def chainable (op : Nat) : Bool :=
  [0x100, 0x101, 0x104, 0x105, 0x108, 0x109, 0x10C, 0x10D, 0x110, 0x111, 0x120, 0x121, 0x124, 0x125,
   0x140, 0x141, 0x200, 0x201, 0x204, 0x210, 0x211, 0x214, 0x215, 0x218, 0x219, 0x430, 0x434].contains op

/-- Order 6 of 05 R157. A tenant function interprets its own PARAM words. -/
def paramOk (h : Header) : Bool :=
  (h.chain == 0 || chainable h.opcode) &&
  (if 0x800 ≤ h.opcode then onlyBits h 0 0
   else (formOf h).isSome &&
    match unitClass h with
    | .pke => pkeParamOk h
    | .lat => latParamOk h
    | .ke => keyParamOk h
    | .ent => onlyBits h 0 0
    | .firm => firmParamOk h
    | _ => if h.opcode < 0x200 then symParamOk h else hashParamOk h)

end Sys2Proof.Machine
end

