-- ==== Sys2Proof/Machine/Lengths.lean ====
section
/-! DEFINITION. The key vault as entries see it, the permitted input lengths of every opcode (order 5
of 05 R157, judged under R587), the objects an entry creates, its random draw and its largest
output (05 R158). -/

namespace Sys2Proof.Machine

/-! ### Handles (11 R315) -/

/-- The handle of an object in its slot. -/
def handleOf (slot : Nat) (o : KeyObj) : Nat :=
  o.part * 2 ^ 56 + o.cls * 2 ^ 52 + o.fam * 2 ^ 48 + slot * 2 ^ 24 + o.gen

def handleSlot (hd : Word) : Nat := fld hd.toNat 24 24
def handlePart (hd : Word) : Nat := fld hd.toNat 56 8

/-- The live object that a handle names, every field but the partition matching (11 R315). -/
def keyAt (s : State) (hd : Word) : Option KeyObj :=
  (tget s.vault.objs (handleSlot hd)).filter fun o =>
    !o.lost && fld hd.toNat 0 24 == o.gen && fld hd.toNat 48 4 == o.fam && fld hd.toNat 52 4 == o.cls

/-! ### Material sizes (11 R317, R588) -/

/-- Material of a public object of an asymmetric family; the parameter is as 11 R319 PARAM. -/
def pubLen (fam param : Nat) : Nat :=
  match fam with
  | 7 => param / 8 + 4
  | 8 => ((curveOf param).map fun c => 1 + 2 * c.fb).getD 0
  | 9 => ((curveOf param).map fun c => c.fb).getD 0
  | 10 => ((curveOf param).map fun c => c.fb).getD 0
  | 11 => ((mlkemSet param).map fun t => t.1).getD 0
  | 12 => ((mldsaSet param).map fun t => t.1).getD 0
  | 13 => ((slhSet param).map fun t => 2 * t.1).getD 0
  | 14 => ((lmsSet param).map fun t => 28 + t.n).getD 0
  | 15 => ((xmssSet param).map fun t => 4 + 2 * t.n).getD 0
  | _ => 0

/-- Material of a private object of an asymmetric family. -/
def privLen (fam param : Nat) : Nat :=
  match fam with
  | 7 => 9 * (param / 8) / 2 + 4
  | 8 => ((curveOf param).map fun c => c.ob + 1 + 2 * c.fb).getD 0
  | 9 => ((curveOf param).map fun c => 2 * c.fb).getD 0
  | 10 => ((curveOf param).map fun c => 2 * c.fb).getD 0
  | 11 => ((mlkemSet param).map fun t => t.2.1).getD 0
  | 12 => ((mldsaSet param).map fun t => t.2.1 + t.1).getD 0
  | 13 => ((slhSet param).map fun t => 6 * t.1).getD 0
  | 14 => ((lmsSet param).map fun t => 2 * t.n + 44).getD 0
  | 15 => ((xmssSet param).map fun t => 4 * t.n + 4).getD 0
  | _ => 0

/-- Extension of a stateful private object (11 R588). -/
def extLen (fam param : Nat) : Nat :=
  if fam = 14 then
    ((lmsSet param).map fun t => 16 + t.levels * (4 * t.hh + 4) * t.n
      + (t.levels - 1) * (12 + t.n * (t.p + t.hh + 1))).getD 0
  else if fam = 15 then
    ((xmssSet param).map fun t => 16 + t.levels * (4 * t.hh + 4) * t.n
      + (t.levels - 1) * t.n * (t.p + t.hh)).getD 0
  else 0

/-- A public object: VERIFY, KEM_ENCAP, or ENCRYPT of the RSA family (11 R317). -/
def isPublicObj (fam cls : Nat) : Bool :=
  (cls == 7 && [7, 8, 10, 12, 13, 14, 15].contains fam) || (cls == 11 && fam == 11) || (cls == 1 && fam == 7)

/-- Extension bytes of an object. -/
def objExt (o : KeyObj) : Nat := if isPublicObj o.fam o.cls then 0 else extLen o.fam o.param

/-- Cold store granules of a record (11 R309). -/
def granules (mat ext : Nat) : Nat := ceilDiv (80 + mat + ext) 64

/-- The object header of 11 R319. -/
def objHeader (slot : Nat) (o : KeyObj) : List Byte :=
  leBytes 8 (handleOf slot o) ++ leBytes 2 o.mat.length ++ leBytes 2 o.param ++ leBytes 4 o.policy
    ++ leBytes 8 o.invLead ++ leBytes 8 o.invSecond ++ leBytes 8 o.cap ++ padTo 4 o.salt
    ++ leBytes 4 (match o.link with | some n => n + 2 ^ 31 | none => 0)
    ++ leBytes 8 o.label.toNat ++ leBytes 4 (objExt o) ++ leBytes 4 0

/-- The public key inside an object's material, as KEY_GET_PUBLIC returns it (11 R317). -/
def objPublic (o : KeyObj) : List Byte :=
  let n := pubLen o.fam o.param
  if isPublicObj o.fam o.cls then o.mat
  else match o.fam with
    | 7 => o.mat.take n
    | 11 => (o.mat.drop (o.mat.length - 64 - n)).take n
    | _ => o.mat.drop (o.mat.length - n)

/-! ### Templates (11 R322) -/

structure Template where
  fam : Nat := 0
  cls : Nat := 0
  cls2 : Nat := 0
  keyLen : Nat := 0
  policy : Nat := 0
  cap : Nat := 0
  label : Word := 0
  rsvOk : Bool := true
  deriving DecidableEq, Repr

/-- The template in 64 bytes. -/
def templateOf (b : List Byte) : Template :=
  { fam := leAt b 0 1, cls := leAt b 1 1, cls2 := leAt b 2 1, keyLen := leAt b 4 2,
    policy := leAt b 8 4, cap := leAt b 16 8, label := BitVec.ofNat 64 (leAt b 24 8),
    rsvOk := leAt b 3 1 == 0 && leAt b 6 2 == 0 && leAt b 12 4 == 0 && leAt b 32 32 == 0 }

/-- Classes and lengths of the symmetric and SECRET families (11 R317). -/
def symMatOk (fam cls len : Nat) : Bool :=
  let encDec := cls == 1 || cls == 2
  match fam with
  | 0 => cls == 5 && decide (16 ≤ len ∧ len ≤ 512)
  | 1 =>
    ([1, 2, 3, 4, 9, 10].contains cls && [16, 24, 32].contains len) || (encDec && len == 44)
  | 2 => encDec && (len == 32 || len == 64)
  | 3 => encDec && len == 32
  | 4 => encDec && (len == 24 || (len == 16 && cls == 2))
  | 5 => (cls == 9 || cls == 10) && decide (16 ≤ len ∧ len ≤ 128)
  | 6 => (cls == 9 || cls == 10) && decide (16 ≤ len ∧ len ≤ 128)
  | _ => false

/-- The complementary pairs of 07 R219, in either order. -/
def pairClasses (a b : Nat) : Bool :=
  [(1, 2), (2, 1), (3, 4), (4, 3), (9, 10), (10, 9)].contains (a, b)

/-- Classes of an asymmetric private object and of its public object (08 R238, 09 R263). -/
def asymClasses (fam cls : Nat) : Option Nat :=
  match fam, cls with
  | 7, 6 => some 7
  | 7, 2 => some 1
  | 8, 6 => some 7
  | 10, 6 => some 7
  | 11, 12 => some 11
  | 12, 6 => some 7
  | 13, 6 => some 7
  | 14, 6 => some 7
  | 15, 6 => some 7
  | 8, 8 => some 0
  | 9, 8 => some 0
  | _, _ => none

/-- Families that hold key pairs, as the keygen opcodes name them. -/
def keygenFam (h : Header) : Option Nat :=
  match h.opcode with
  | 0x308 => some 7
  | 0x31C => some (curveFam (h.p0 0 8))
  | 0x400 => some 11
  | 0x410 => some 12
  | 0x420 => some 13
  | 0x430 => some 14
  | 0x434 => some 15
  | _ => none

/-- TOK of a key-management entry: its input begins with a token (11 R338). -/
def tokLen (h : Header) : Nat := if 0x500 ≤ h.opcode ∧ h.opcode < 0x600 then 16 * h.p1 0 1 else 0

/-- The entry carries a template. -/
def hasTemplate (h : Header) : Bool :=
  let op := h.opcode
  if op == 0x500 || op == 0x521 || op == 0x530 || op == 0x308 || op == 0x31C || op == 0x410
    || op == 0x420 then true
  else if op == 0x430 || op == 0x434 then h.isFirst
  else if 0x220 ≤ op ∧ op < 0x230 then destOf h != 0
  else if op == 0x318 || op == 0x319 || op == 0x400 || op == 0x401 || op == 0x402 || op == 0x440 then
    destOf h != 0
  else false

/-- The template of an entry. -/
def entryTemplate (h : Header) (input : List Byte) : Template :=
  templateOf (sliceB input (tokLen h) 64)

/-- Keys that a new key is derived from may limit its EXPORT and OUT_DATA bits (11 R323). -/
def inherits (policy : Nat) (parents : List KeyObj) : Bool :=
  parents.all fun o => (policy &&& 3) &&& (o.policy &&& 3) == policy &&& 3

/-- The keys named, when they are live (05 R587, 11 R323). -/
def namedKeys (s : State) (h : Header) : List KeyObj :=
  (keyAt s h.keyA).toList ++ (keyAt s h.keyB).toList

/-- Second class of a template for the DEST of the entry. -/
def class2Ok (t : Template) (dest want : Nat) : Bool :=
  if dest == 2 then want != 0 && t.cls2 == want else t.cls2 == 0

/-- The rules of 11 R322 and of the opcode for its template (07 R214, R219; 08 R238; 09 R263;
11 R332, R340). -/
def templateOk (s : State) (h : Header) (input : List Byte) : Bool :=
  let t := entryTemplate h input
  let op := h.opcode
  let dest := destOf h
  let derived := !(op == 0x500 || op == 0x521 || op == 0x530 || isPbkdf op || (keygenFam h).isSome)
  t.rsvOk && decide (t.policy < 16) && (!derived || inherits t.policy (namedKeys s h)) &&
  (match keygenFam h with
   | some f => t.fam == f && t.keyLen == 0
      && (match asymClasses t.fam t.cls with
          | some pub => class2Ok t dest pub
          | none => false)
   | none =>
     if op == 0x318 || op == 0x319 then
       t.fam == 0 && t.cls == 5 && t.cls2 == 0
         && t.keyLen == ((curveOf (h.p0 0 8)).map fun c => c.fb).getD 0
     else if op == 0x401 || op == 0x402 then
       t.fam == 0 && t.cls == 5 && t.cls2 == 0 && t.keyLen == 32
     else if op == 0x521 then
       t.cls2 == 0 && (if t.fam < 7 then symMatOk t.fam t.cls t.keyLen
                       else t.keyLen == 0 && (isPublicObj t.fam t.cls
                         || (decide (t.fam < 14) && (asymClasses t.fam t.cls).isSome)))
     else
       symMatOk t.fam t.cls t.keyLen
         && (if dest == 2 then pairClasses t.cls t.cls2 && symMatOk t.fam t.cls2 t.keyLen
             else t.cls2 == 0)
         && (op != 0x530 || [0, 1, 5, 6].contains t.fam)
         && (!isPbkdf op || decide (t.keyLen ≤ (if op = 0x228 then 32 else 64))))

/-- PARAM of the objects a keygen creates: modulus bits or PSET (11 R319). -/
def newParam (h : Header) : Nat := if h.opcode = 0x308 then h.p1 0 16 else h.p0 0 8

/-- (MAT_LEN, EXT_LEN) of each object that the entry may create (07 R221, 11 R588). -/
def createPlan (h : Header) (input : List Byte) : List (Nat × Nat) :=
  let op := h.opcode
  let t := entryTemplate h input
  match keygenFam h with
  | some f =>
    let last := h.isLast || !(op == 0x430 || op == 0x434)
    let priv := (privLen f (newParam h), extLen f (newParam h))
    if destOf h = 0 ∨ !last then []
    else if destOf h = 2 then [priv, (pubLen f (newParam h), 0)] else [priv]
  | none =>
    if op == 0x511 then [(h.inBytes - 128 - tokLen h, 0)]
    else if op == 0x521 then [(h.inBytes - 72 - tokLen h, 0)]
    else if hasTemplate h then
      if destOf h = 2 then [(t.keyLen, 0), (t.keyLen, 0)] else [(t.keyLen, 0)]
    else []

/-! ### Input lengths -/

/-- A permitted set of lengths: `base` fixed bytes, then between `lo` and `hi` bytes in steps. -/
structure LenRule where
  base : Nat := 0
  lo : Nat := 0
  hi : Nat := 0x100000
  step : Nat := 1
  deriving DecidableEq, Repr

/-- The length obeys the rule. -/
def LenRule.ok (r : LenRule) (n : Nat) : Bool :=
  decide (r.base + r.lo ≤ n) && decide (n ≤ r.base + r.hi) && (n - r.base) % r.step == 0

def exactLen (n : Nat) : LenRule := { base := n, lo := 0, hi := 0 }

/-- The entry is laid out as a single one: opcodes that do not chain have one layout. -/
def layFirst (h : Header) : Bool := h.isFirst || !chainable h.opcode
def layLast (h : Header) : Bool := h.isLast || !chainable h.opcode

/-- Bytes before the data of a symmetric entry (06 R188). -/
def symPre (h : Header) : Nat :=
  let op := h.opcode
  if !layFirst h then 0
  else if op == 0x105 || op == 0x109 || op == 0x10D || op == 0x111 then 16
  else if op == 0x155 then 8
  else if op == 0x121 || op == 0x12D || op == 0x141 then 12 + aadLen h
  else if op == 0x129 then nonceLen h + aadLen h
  else if op == 0x125 then 12
  else aadLen h

/-- Bytes after the data of a symmetric entry. -/
def symPost (h : Header) : Nat :=
  let op := h.opcode
  if !layLast h then 0
  else if op == 0x121 || op == 0x125 || op == 0x129 || op == 0x12D || op == 0x141 then tagLen h
  else 0

/-- Data bytes of a symmetric entry. -/
def symData (h : Header) : Nat := h.inBytes - symPre h - symPost h

/-- The fields that fix the layout of a symmetric entry hold defined values (05 R587). -/
def symFixed (h : Header) : Bool :=
  let op := h.opcode
  if op == 0x118 || op == 0x119 then decide (9 ≤ h.p1 0 5 ∧ h.p1 0 5 ≤ 19)
  else if op == 0x121 || op == 0x125 then !layLast h || gcmTagOk (h.p1 0 5)
  else if op == 0x129 then
    ccmTagOk (h.p1 0 5) && (h.p1 8 4 == 0 || decide (7 ≤ h.p1 8 4 ∧ h.p1 8 4 ≤ 13))
  else true

/-- Lengths of the symmetric opcodes (06 R188, R189). -/
def symRule (h : Header) : Option LenRule :=
  let op := h.opcode
  let base := symPre h + symPost h
  let final := layLast h
  let padded := h.p0 0 1 == 1
  let step16 := if final then 1 else 16
  if !symFixed h then none
  else match op with
    | 0x100 | 0x104 =>
      some { base, hi := if op = 0x100 then 0x100000 else 2048, step := if final && padded then 1 else 16 }
    | 0x101 | 0x105 => some { base, step := 16 }
    | 0x108 | 0x10C | 0x10D => some { base, hi := 2048, step := step16 }
    | 0x109 | 0x110 | 0x111 => some { base, step := step16 }
    | 0x118 | 0x119 => some { base, lo := 2 ^ h.p1 0 5, step := 2 ^ h.p1 0 5 }
    | 0x128 | 0x129 => some { base, hi := 2048 - aadLen h }
    | 0x12C | 0x12D => some { base, hi := 16384 - aadLen h }
    | 0x130 => some { lo := 16, hi := 256, step := 8 }
    | 0x131 => some { lo := 24, hi := 264, step := 8 }
    | 0x132 => some { lo := 1, hi := 256 }
    | 0x133 => some { lo := 16, hi := 264, step := 8 }
    | 0x140 | 0x141 => some { base, step := if final then 1 else 64 }
    | 0x150 | 0x151 | 0x154 | 0x155 => some { base, lo := 8, hi := 256, step := 8 }
    | _ => some { base, step := step16 }

/-- CCM and GCM-SIV bound the additional data together with the data (06 R189). -/
def symAadFits (h : Header) : Bool :=
  match h.opcode with
  | 0x128 | 0x129 => decide (aadLen h ≤ 2048)
  | 0x12C | 0x12D => decide (aadLen h ≤ 16384)
  | _ => true

/-- The PARAM fields that fix lengths of a hash entry hold defined values: S_BYTES, N_BYTES, IV_BYTES, SALT_BYTES, and
the fields that say which of them are present. Other fields are judged by order 6 alone (05 R587, 07 R218). -/
def hashSizesOk (h : Header) : Bool :=
  match h.opcode with
  | 0x204 => hashAlgOk h && decide (hashS h ≤ 256) && decide (hashN h ≤ 256)
  | 0x214 | 0x215 => decide (hashS h ≤ 256)
  | 0x220 => hashAlgOk h && decide (hashS h ≤ 256)
  | 0x221 => hashAlgOk h && (h.p1 0 16 == 0 || h.p1 0 16 == algLen (h.p0 0 4))
  | 0x224 => decide (h.p1 0 16 ≤ 256) && (h.p1 16 1 == 0 || h.p1 0 16 == 0)
  | 0x226 => h.p0 4 2 == 0 || (h.p0 4 2 != 3 && decide (h.p1 0 16 ≤ 256))
  | 0x228 | 0x229 => decide (16 ≤ h.p1 32 16 ∧ h.p1 32 16 ≤ 256)
  | _ => true

/-- The length of the digest or tag that ends a verify entry is defined: OUT_LEN, and for a hash the ALG that bounds
it. -/
def hashEndOk (h : Header) : Bool :=
  hashOutLenOk h && (!(h.opcode == 0x201 || h.opcode == 0x211) || hashAlgOk h)

/-- Bytes beside the message of a hash entry, where the fields that fix them are defined
(07 R216, R218). -/
def hashParts (h : Header) : Option Nat :=
  let op := h.opcode
  let verify := op == 0x201 || op == 0x211 || op == 0x215 || op == 0x219
  let post := if verify && layLast h then hashOutLen h else 0
  let pre := if layFirst h then hashN h + hashS h else 0
  let kdf := isKdf op || isPbkdf op
  if kdf then
    if destOf h = 3 ∨ !hashSizesOk h then none
    else some ((if destOf h = 0 then 0 else 64) + hashS h + hashSalt h)
  else if (verify && layLast h && !hashEndOk h) || (layFirst h && !hashSizesOk h) then none
  else some (pre + post)

/-- Message bytes of a hash entry. -/
def hashData (h : Header) : Nat := h.inBytes - (hashParts h).getD h.inBytes

/-- Lengths of the hash opcodes. -/
def hashRule (h : Header) : Option LenRule :=
  (hashParts h).map fun base =>
    if isCmac h.opcode then { base, hi := 2048, step := if layLast h then 1 else 16 } else { base }

/-- k, the modulus bytes of an RSA entry: from MOD_BITS, or from the key (05 R587). -/
def rsaK (s : State) (h : Header) : Option Nat :=
  if isInline h || h.opcode == 0x308 then (if modBitsOk h then some (h.p1 0 16 / 8) else none)
  else (keyAt s h.keyA).bind fun o =>
    if o.fam = 7 ∧ handlePart h.keyA = h.part ∧ o.part = h.part then some (o.param / 8) else none

/-- Lengths of the PKE opcodes (08 R236, R237). -/
def pkeRule (s : State) (h : Header) : Option LenRule :=
  let op := h.opcode
  let ps := h.p0 0 8
  let hl := algLen (h.p0 8 4)
  let label := h.p0 40 8
  let k := rsaK s h
  let key := if isInline h then 1 else 0
  let dest := if destOf h = 1 then 64 else 0
  match op with
  | 0x300 | 0x302 => if rsaHalgOk h then some (exactLen hl) else none
  | 0x301 | 0x303 =>
    if !rsaHalgOk h then none
    else k.map fun k => exactLen (key * (k + 4) + hl + k)
  | 0x304 =>
    if !rsaHalgOk h then some { base := label }
    else match k with
      | some k => if 2 * hl + 2 ≤ k then some { base := key * (k + 4) + label, hi := k - 2 * hl - 2 }
                  else some { lo := 0x100001 }
      | none => some { base := label }
  | 0x305 => match k with
      | some k => some (exactLen (label + k))
      | none => some { base := label }
  | 0x308 | 0x31C => some (exactLen 64)
  | 0x310 => if 28 ≤ h.p0 24 8 ∧ h.p0 24 8 ≤ 64 then some (exactLen (h.p0 24 8)) else none
  | 0x311 =>
    if 20 ≤ h.p0 24 8 ∧ h.p0 24 8 ≤ 64 ∧ ps ≤ 7 then
      (curveOf ps).map fun c => exactLen (key * (1 + 2 * c.fb) + h.p0 24 8 + 2 * c.ob)
    else none
  | 0x314 | 0x315 =>
    if (ps = 10 ∧ (h.p0 13 1 = 1 ∨ h.p0 32 8 = 0)) ∨ ps = 11 then
      let fb := if ps = 10 then 32 else 57
      let sig := if ps = 10 then 64 else 114
      let fixed := h.p0 32 8 + (if op = 0x315 then sig + key * fb else 0)
      some (if h.p0 13 1 = 1 then exactLen (fixed + 64) else { base := fixed, hi := 4096 })
    else none
  | 0x318 =>
    if destOf h ≤ 1 ∧ ps ≤ 7 then (curveOf ps).map fun c => exactLen (dest + 1 + 2 * c.fb) else none
  | 0x319 =>
    if destOf h ≤ 1 ∧ (ps = 8 ∨ ps = 9) then (curveOf ps).map fun c => exactLen (dest + c.fb) else none
  | _ => none

/-- The message or digest part of a lattice sign entry (09 R262). -/
def msgPart (h : Header) : Option LenRule :=
  if !(msgModeOk h && latHalgOk h) then none
  else if msgMode h = 0 then some { base := h.p0 24 8, hi := 8192 }
  else if msgMode h = 1 then some (exactLen (h.p0 24 8 + algLen (h.p0 16 4)))
  else some (exactLen (h.p0 24 8 + 64))

/-- Lengths of the lattice opcodes (09 R262, R263). -/
def latRule (h : Header) : Option LenRule :=
  let ps := h.p0 0 8
  let d := destOf h
  let key := if isInline h then 1 else 0
  match h.opcode with
  | 0x400 => if d = 3 then none else some (exactLen (if d = 0 then 0 else 64))
  | 0x401 =>
    if 2 ≤ d then none
    else (mlkemSet ps).map fun t => exactLen (64 * d + key * t.1)
  | 0x402 =>
    if 2 ≤ d then none
    else if h.p0 11 1 = 0 then some { base := 64 * d, lo := 1, hi := 1568 }
    else (mlkemSet ps).map fun t => { base := 64 * d + 128 + t.2.1, lo := 1, hi := 1568 }
  | 0x410 | 0x420 => some (exactLen 64)
  | 0x411 | 0x421 => msgPart h
  | 0x412 =>
    if !(msgModeOk h && latHalgOk h && msgLenOk h) then none
    else (mldsaSet ps).map fun t => { base := key * t.1 + h.p0 24 8 + h.p1 0 16 }
  | 0x422 =>
    if !(msgModeOk h && latHalgOk h && msgLenOk h) then none
    else (slhSet ps).map fun t => { base := key * (2 * t.1) + h.p0 24 8 + h.p1 0 16 }
  | 0x431 | 0x435 => some { hi := 8192 }
  | 0x432 | 0x436 =>
    if !msgLenOk h then none
    else (stSet h.opcode ps).map fun t => { base := key * stPub h.opcode t + h.p1 0 16 }
  | 0x430 | 0x434 => some (exactLen (if layFirst h then 64 else 0))
  | 0x440 => if d = 3 then none else some { base := if d = 0 then 0 else 64, hi := 4096 }
  | _ => none

/-- Lengths of the key-management opcodes (11 R337, R340). The opening of a pack judges its own
length (11 R331); material of 16 to 8,192 bytes wraps to 24 to 8,200 (11 R332). -/
def keyRule (h : Header) : LenRule :=
  let t := tokLen h
  match h.opcode with
  | 0x500 => exactLen (t + 64)
  | 0x505 => exactLen (t + 24)
  | 0x511 => { base := t }
  | 0x521 => { base := t + 64, lo := 24, hi := 8200, step := 8 }
  | 0x530 => { base := t + 64, hi := 256 }
  | 0x5F3 => exactLen (t + 6336)
  | _ => exactLen t

/-- Units of an inbox call (13 R390). -/
def callUnits (h : Header) : Nat := max h.lenUnits (ceilDiv (16 + h.outMax) 64)

/-- The tenant function that an entry calls. -/
def calledFn (s : State) (h : Header) : Option (Nat × TenantFn) :=
  s.world.tfs.find? fun p => p.2.part == h.part && p.2.func + 0x800 == h.opcode

/-- The lengths permitted, or `none` where order 5 checks only 05 R154. -/
def lenRule (s : State) (h : Header) : Option LenRule :=
  match unitClass h with
  | .pke => pkeRule s h
  | .lat => latRule h
  | .ke => some (keyRule h)
  | .ent =>
    if h.opcode = 0x600 ∧ ¬(1 ≤ h.outMax ∧ h.outMax ≤ 0x100000) then some { lo := 0x100001 }
    else some (exactLen 0)
  | .firm =>
    if h.opcode ≤ 5 then
      (if h.lenUnits = 1 ∧ ((h.opcode ≠ 1 ∧ h.opcode ≠ 2) ∨ (12 ≤ h.p0 16 5 ∧ h.p0 16 5 ≤ 24))
       then some (exactLen 0) else some { lo := 0x100001 })
    else if h.opcode = 0x010 then some (exactLen 0)
    else none
  | .tenant =>
    match calledFn s h with
    | some (_, t) => if callUnits h ≤ 2 ^ t.inboxLog2 / 64 then none else some { lo := 0x100001 }
    | none => none
  | _ => if h.opcode < 0x200 then symRule h else hashRule h

/-- Held decrypt streams: GCM and ChaCha20-Poly1305 (06 R197). -/
def holds (op : Nat) : Bool := op == 0x121 || op == 0x141

/-- STREAM_BYTES of a held stream. -/
def streamBytes (h : Header) : Nat := h.p1 32 32

/-- Data bytes that count toward the limit of a stream (06 R189, 07 R218). -/
def dataBytes (h : Header) : Nat :=
  if symOps.contains h.opcode then (if symFixed h then symData h else 0)
  else if hashOps.contains h.opcode then hashData h else 0

/-- Limit of a stream's data. -/
def streamLimit (h : Header) : Option Nat :=
  match h.opcode with
  | 0x110 | 0x111 => some (2 ^ 36)
  | 0x120 | 0x124 | 0x125 => some (2 ^ 36 - 32)
  | 0x140 => some (2 ^ 38 - 64)
  | 0x121 | 0x141 => some (streamBytes h)
  | _ => if hashOps.contains h.opcode then some (2 ^ 48) else none

/-- The open stream that an entry names (05 R160). -/
def findStream (s : State) (slot sid : Nat) : Option Stream :=
  s.strm.tab.find? fun st => st.slot == slot && st.sid == sid && !st.ended

/-- The stream limits and the sum of STREAM_BYTES (06 R189). -/
def streamLenOk (s : State) (slot : Nat) (h : Header) : Bool :=
  if h.chain = 0 ∨ !chainable h.opcode then true
  else
    let st := if h.chain = 1 then none else (findStream s slot h.streamId).filter fun t => t.opcode == h.opcode
    let before := (st.map fun t => t.fetched).getD 0
    let total := before + dataBytes h
    let judged := h.chain == 1 || st.isSome
    let h1 := match st with
      | some t => { h with param1 := t.param1 }
      | none => h
    !(judged) ||
      ((match streamLimit h1 with | some m => decide (total ≤ m) | none => true)
        && (!(holds h.opcode) ||
          (decide (streamBytes h1 ≤ 2 ^ 28) && (h.chain != 3 || !symFixed h || total == streamBytes h1))))

/-- Order 5 of 05 R157. -/
def lenOk (s : State) (slot : Nat) (h : Header) : Bool :=
  decide (h.inBytes + 64 ≤ h.lenUnits * 64)
    && (match lenRule s h with | some r => r.ok h.inBytes | none => true)
    && symAadFits h && streamLenOk s slot h

/-! ### Random draws (02 R53) -/

/-- Bytes that an entry reserves before its first segment (06 R195, 08 R242, 09 R267, 11 R330, R340). -/
def drawBytes (s : State) (h : Header) (input : List Byte) : Nat :=
  let op := h.opcode
  let ps := h.p0 0 8
  let k := (rsaK s h).getD 0
  let c := (curveOf ps).getD ⟨0, 0, 0, 0, 0, 0⟩
  match op with
  | 0x104 | 0x108 => if h.isFirst then 16 else 0
  | 0x154 => 8
  | 0x300 | 0x305 => k + 24
  | 0x302 => k + 24 + h.p0 16 8
  | 0x304 => algLen (h.p0 8 4)
  | 0x308 => 4096
  | 0x310 => (c.ob + 8) + 8 + (c.fb + 8)
  | 0x314 | 0x318 | 0x319 => 8 + (c.fb + 8)
  | 0x31C => (if curveFam ps = 8 then c.ob + 8 else c.fb) + 8 + (c.fb + 8)
  | 0x400 => 96
  | 0x401 => 32
  | 0x410 => 64
  | 0x411 => if h.p0 12 1 = 1 then 0 else 32
  | 0x420 => 3 * ((slhSet ps).map fun t => t.1).getD 0
  | 0x421 => if h.p0 12 1 = 1 then 0 else ((slhSet ps).map fun t => t.1).getD 0
  | 0x430 => if h.isFirst then ((lmsSet ps).map fun t => t.n + 16).getD 0 else 0
  | 0x431 => ((lmsSet ps).map fun t => t.n).getD 0
  | 0x434 => if h.isFirst then ((xmssSet ps).map fun t => 3 * t.n).getD 0 else 0
  | 0x500 => (entryTemplate h input).keyLen
  | 0x510 => 32
  | 0x5F0 => 48
  | 0x5F1 => if h.p0 16 1 = 1 then 0 else 32
  | 0x5F2 => 32
  | 0x600 => min 2048 h.outMax
  | 0x720 => 32
  | 0x030 => if leAt input 16 1 = 3 then 38 else 0
  | _ => 0

/-- Invocations that an encrypt-direction entry uses: one, or the blocks of a TDEA entry
(06 R190, R193, R194). -/
def invocations (h : Header) : Nat :=
  if h.opcode == 0x150 || h.opcode == 0x154 then ceilDiv h.inBytes 8
  else if symOps.contains h.opcode && h.opcode % 2 == 0 && h.isFirst then 1 else 0

/-- Stateful signing. -/
def isLeafOp (op : Nat) : Bool := op == 0x431 || op == 0x435

/-! ### Largest output (05 R158) -/

/-- Handles of a keygen entry. -/
def handleBytes (h : Header) : Nat := 8 * destOf h

/-- Largest output of the symmetric opcodes (06 R188). -/
def symOut (h : Header) : Nat :=
  let op := h.opcode
  let d := symData h
  let body := if (op == 0x100 || op == 0x104) && h.p0 0 1 == 1 then (d / 16 + 1) * 16 else d
  let first := layFirst h
  match op with
  | 0x100 => body
  | 0x104 | 0x108 | 0x10C | 0x110 => body + (if first then 16 else 0)
  | 0x154 => d + 8
  | 0x120 | 0x128 | 0x12C | 0x140 => d + (if first then 12 else 0) + (if layLast h then tagLen h else 0)
  | 0x121 | 0x141 => if h.chain = 0 then d else if h.chain = 3 then streamBytes h else 0
  | 0x124 => if layLast h then 12 + tagLen h else 0
  | 0x125 => 0
  | 0x130 => d + 8
  | 0x131 | 0x133 => d - 8
  | 0x132 => 8 * ceilDiv d 8 + 8
  | _ => d

/-- Largest output of the hash opcodes (07 R216). -/
def hashOut (h : Header) : Nat :=
  let op := h.opcode
  if op == 0x201 || op == 0x211 || op == 0x215 || op == 0x219 then 0
  else if isKdf op || isPbkdf op then (if destOf h = 0 then h.p0 16 16 else handleBytes h)
  else if layLast h then hashOutLen h else 0

/-- Largest output of the PKE opcodes (08 R236). -/
def pkeOut (s : State) (h : Header) : Nat :=
  let k := (rsaK s h).getD 0
  let c := (curveOf (h.p0 0 8)).getD ⟨0, 0, 0, 0, 0, 0⟩
  match h.opcode with
  | 0x300 | 0x302 | 0x304 => k
  | 0x305 => k - 2 * algLen (h.p0 8 4) - 2
  | 0x308 => handleBytes h + k + 4
  | 0x310 => 2 * c.ob
  | 0x314 => if h.p0 0 8 = 10 then 64 else 114
  | 0x318 | 0x319 => if destOf h = 0 then c.fb else 8
  | 0x31C => handleBytes h + pubLen (curveFam (h.p0 0 8)) (h.p0 0 8)
  | _ => 0

/-- Largest output of the lattice opcodes (09 R262). -/
def latOut (h : Header) : Nat :=
  let ps := h.p0 0 8
  let d := destOf h
  match h.opcode with
  | 0x400 => ((mlkemSet ps).map fun t => if d = 0 then t.1 + 128 + t.2.1 else handleBytes h + t.1).getD 0
  | 0x401 => ((mlkemSet ps).map fun t => t.2.2.1 + (if d = 0 then 32 else 8)).getD 0
  | 0x402 => if d = 0 then 32 else 8
  | 0x410 => handleBytes h + pubLen 12 ps
  | 0x420 => handleBytes h + pubLen 13 ps
  | 0x411 => ((mldsaSet ps).map fun t => t.2.2.1).getD 0
  | 0x421 => ((slhSet ps).map fun t => t.2.1).getD 0
  | 0x430 => if h.isLast then handleBytes h + pubLen 14 ps else 0
  | 0x434 => if h.isLast then handleBytes h + pubLen 15 ps else 0
  | 0x431 | 0x435 => ((stSet h.opcode ps).map fun t => stSig h.opcode t + 8).getD 0
  | 0x440 => if d = 0 then h.p1 0 16 else handleBytes h
  | _ => 0

/-- Bytes of a KWP wrapping. -/
def kwpLen (n : Nat) : Nat := 8 * ceilDiv n 8 + 8

/-- Largest output of the key-management opcodes (11 R337). -/
def keyOut (s : State) (h : Header) : Nat :=
  let mat := ((keyAt s h.keyA).map fun o => o.mat.length).getD 0
  match h.opcode with
  | 0x500 => handleBytes h
  | 0x508 => 64
  | 0x509 => ((keyAt s h.keyA).map fun o => pubLen o.fam o.param).getD 0
  | 0x510 => 128 + mat
  | 0x520 => kwpLen mat
  | 0x511 | 0x521 | 0x530 | 0x5F0 | 0x5F3 => 8
  | 0x5F2 => 6336
  | _ => 0

/-- Largest registry pack: the envelope of 11 R330 around the partition records, as many officers as 12 R351 allows in
the partitions that exist, each with the longest public key, and the client keys, for which 12 gives no limit, as they
are enrolled (12 R367; DEDUCED, log 86). -/
def regPackLen (s : State) : Nat :=
  128 + 32 + (32 + 16 * s.quorum.parts.length) * (6 + 1952)
    + ((s.quorum.creds.filter fun c => !c.card && decide (4 ≤ c.role)).map fun c => 6 + c.key.length).foldl (· + ·) 0

/-- Largest output of admin and quorum opcodes (04 R138, 12 R366, 15 R471, 17 R501). LC_TRANSITION with an input of 24 bytes may move to PROVISIONED (log 86). -/
def firmOut (s : State) (h : Header) : Nat :=
  match h.opcode with
  | 1 | 2 | 3 | 4 => 8
  | 5 => 24
  | 0x010 => 16 + 16 * h.p0 16 10
  | 0x030 => if h.inBytes = 24 then 4106 else 0
  | 0x031 => 32
  | 0x720 => regPackLen s
  | 0x700 | 0x701 => 64
  | 0x702 => 24
  | 0x705 => 72
  | 0x706 => 32 * h.p0 32 16
  | 0x714 => 8
  | _ => 0

/-- OUT_MAX of an entry must be at least this. -/
def maxOut (s : State) (h : Header) : Nat :=
  match unitClass h with
  | .pke => pkeOut s h
  | .lat => latOut h
  | .ke => keyOut s h
  | .ent => if h.opcode = 0x600 then h.outMax else 16
  | .firm => firmOut s h
  | .tenant => 0
  | _ => if h.opcode < 0x200 then symOut h else hashOut h

/-- Output staging blocks of 64 KiB that a job reserves at its grant; a last entry that returns held
plaintext reserves only the first (19 R558). -/
def stageBlocks (s : State) (h : Header) : Nat :=
  if holds h.opcode && h.chain == 3 then 1
  else ceilDiv (16 + (if 0x800 ≤ h.opcode then h.outMax else maxOut s h)) 65536

end Sys2Proof.Machine
end

