-- ==== Sys2Proof/Machine/Units.lean ====
section
/-! DEFINITION. Units and faults: which units are in service, the fault collector, fencing and the
restart of a fenced unit's job, the avalanche and LOCKDOWN (06 R179-R182, 15 R455-R459, 16
R477-R485). -/

namespace Sys2Proof.Machine

/-! ### Units (16 R489) -/

/-- The record of unit `u`. -/
def unitRec (s : State) (u : Nat) : UnitRec := tgetD s.units u {}

/-- Block index and instance of a unit (16 R480). -/
def unitBlock (u : Nat) : Nat × Nat :=
  if u < 4 then (10, u)
  else if u < 20 then (11, u - 4)
  else if u < 84 then (12, u - 20)
  else if u < 100 then (13, u - 84)
  else if u < 108 then (15, u - 100)
  else (14, u - 108)

/-- The switchable domain of a unit; key engine slots lie in PD05, which is not (18 R532). -/
def unitDomain (u : Nat) : Option Nat :=
  if u < 2 then some 6
  else if u < 4 then some 7
  else if u < 20 then some 8
  else if u < 84 then some (9 + (u - 20) / 16)
  else if u < 100 then some 13
  else if u < 108 then none
  else some 14

/-- The units of a domain. -/
def domainUnits (d : Nat) : List Nat :=
  match d with
  | 6 => [0, 1]
  | 7 => [2, 3]
  | 8 => List.range' 4 16
  | 9 => List.range' 20 16
  | 10 => List.range' 36 16
  | 11 => List.range' 52 16
  | 12 => List.range' 68 16
  | 13 => List.range' 84 16
  | 14 => List.range' 108 4
  | _ => []

/-- The record of a power domain. -/
def domRec (s : State) (d : Nat) : Dom := tgetD s.clk.doms d {}

/-- The domain is on. -/
def domOn (s : State) (d : Nat) : Bool := (domRec s d).st == 1

/-- The unit's domain is on. -/
def unitDomOn (s : State) (u : Nat) : Bool :=
  match unitDomain u with
  | some d => domOn s d
  | none => true

/-- The unit is in service: its state says so and its domain is on (18 R537). -/
def inService (s : State) (u : Nat) : Bool := (unitRec s u).st == .inService && unitDomOn s u

/-- Some unit of the class is in service; classes without units are always served (05 R157). -/
def classUp (s : State) (c : UCls) : Bool := !c.needsUnit || c.units.any (inService s)

/-- Stores a unit's record. -/
def setUnit (u : Nat) (r : UnitRec) (s : State) : State := { s with units := tput s.units u r }

/-- Every unit that a job is bound to is bound to none. -/
def freeUnits (ctx : Nat) (s : State) : State :=
  { s with units := tmap s.units fun _ r => if r.job = some ctx then { r with job := none, seg := false, overrun := false } else r }

/-- No segment was assigned to the unit at boundary `b`, and no key load or background segment occupies it (02 R60).
The core of a held RSA key generation is idle. -/
def unitIdle (s : State) (b u : Nat) : Bool := !(unitRec s u).seg && (unitRec s u).busyAt != some b

/-- A job bound to the unit has not been released (02 R61, 06 R202, 08 R248). -/
def unitHeld (s : State) (u : Nat) : Bool :=
  (unitRec s u).job.isSome || s.sched.jobs.any fun p => p.2.unit == some u

/-- Stores a domain's record. -/
def setDom (d : Nat) (r : Dom) (s : State) : State :=
  { s with clk := { s.clk with doms := tput s.clk.doms d r } }

/-- Cycles through the codes of the STATE fields (06 R205). -/
def UState.code : UState → Nat
  | .off => 0 | .inService => 1 | .draining => 2 | .scrubbing => 3 | .fenced => 4 | .inKat => 5

/-! ### Jobs -/

def getJob (s : State) (ctx : Nat) : Option Job := tget s.sched.jobs ctx

def setJob (ctx : Nat) (j : Job) (s : State) : State :=
  { s with sched := { s.sched with jobs := tput s.sched.jobs ctx j } }

/-- The job completes with a status; it is released at the first boundary from `due` on. -/
def endJob (ctx : Nat) (j : Job) (r : Res) (due : Nat) (s : State) : State :=
  setJob ctx { j with phase := .completed, result := some r, workDone := true, unit := none,
                      due := due, entNeed := 0, saltNeed := 0, saltHeld := 0, drawWait := false } s

/-- The first pitch boundary to come (02 R585). -/
def nextBoundary (s : State) : Nat := s.sched.pitch + 1

/-- Status codes of 05 R170. -/
def stOk : Nat := 0
def stBadLength : Nat := 0x101
def stBadOpcode : Nat := 0x102
def stBadHandle : Nat := 0x103
def stOutTooSmall : Nat := 0x104
def stBadQueue : Nat := 0x105
def stBadStream : Nat := 0x106
def stBadParam : Nat := 0x107
def stUsageDenied : Nat := 0x201
def stPartitionDenied : Nat := 0x202
def stKeyExhausted : Nat := 0x203
def stQuorumRequired : Nat := 0x204
def stAuthFail : Nat := 0x301
def stVerifyFail : Nat := 0x302
def stDecapReject : Nat := 0x303
def stQueueBusy : Nat := 0x401
def stNoContext : Nat := 0x402
def stUnitUnavailable : Nat := 0x403
def stAborted : Nat := 0x501
def stFailoverResubmit : Nat := 0x502
def stEntropyFail : Nat := 0x601
def stLockdown : Nat := 0x602

/-! ### Streams (05 R159-R162) -/

/-- The stream that a job belongs to. -/
def jobStream (s : State) (j : Job) : Option Stream :=
  j.strm.bind fun id => s.strm.tab.find? fun t => t.slot == j.slot && t.id == id

/-- The context of a stream is freed, and the partner's blocks of it are given back (05 R162, 06 R197). -/
def dropStream (slot id : Nat) (s : State) : State :=
  let q := tgetD s.qm.queues slot {}
  let s1 := { s with strm := { s.strm with tab := s.strm.tab.filter fun t => !(t.slot == slot && t.id == id) } }
  match s.strm.tab.find? fun t => t.slot == slot && t.id == id && decide (0 < t.blocks) && !t.stateClass with
  | some t => mirror (.staging q.session q.qnum t.sid 0) s1
  | none => s1

/-- A committed entry of the stream, other than the one of grant order `o`, has not been released. -/
def streamBusy (s : State) (slot id o : Nat) : Bool :=
  s.sched.jobs.any fun p => p.2.slot == slot && p.2.strm == some id && p.2.committed && p.2.order != o

/-- A stream ends on behalf of the entry of grant order `o`: its context and held plaintext are discarded, its staging
blocks are returned, and entries of it that wait unstarted complete with BAD_STREAM at the next boundary (05 R162). A
committed entry of it finishes first (04 R142). -/
def endStreamId (slot id o : Nat) (s : State) : State :=
  let strand : Job → Job := fun j =>
    if j.slot = slot ∧ j.strm = some id ∧ 2 ≤ j.hdr.chain ∧ j.phase = .ready ∧ j.committed = false then
      { j with phase := .completed, result := some { status := stBadStream }, workDone := true,
               due := s.sched.pitch + 1, entNeed := 0, saltNeed := 0, saltHeld := 0 }
    else j
  let s1 := { s with sched := { s.sched with jobs := tmap s.sched.jobs fun _ j => strand j } }
  if streamBusy s slot id o then
    { s1 with strm := { s1.strm with tab := s1.strm.tab.map fun t => if t.slot == slot && t.id == id then { t with ended := true } else t } }
  else dropStream slot id s1

/-- The entry's stream ends because the entry completes with a status other than OK (05 R162); an entry that belongs to
none ends the open stream that it names. -/
def endStreamOf (j : Job) (s : State) : State :=
  match j.strm with
  | some id => endStreamId j.slot id j.order s
  | none =>
    match if j.hdr.streamId = 0 then none else findStream s j.slot j.hdr.streamId with
    | some t => endStreamId j.slot t.id j.order s
    | none => s

/-- A leaf assigned to the job is given out and not used for a released signature (09 R272, R281). -/
def burnLeaf (j : Job) (s : State) : State := evcAdd 0x2C (b2n j.leaf.isSome) (bump 13 22 (b2n j.leaf.isSome) s)

/-- The entry completes with a status, and with it its stream when the status is not OK. -/
def refuseJob (ctx : Nat) (j : Job) (st due : Nat) (s : State) : State :=
  endJob ctx { j with leaf := none } { status := st } due (endStreamOf j (burnLeaf j s))

/-! ### Forwarding and restarts (05 R173, 14 R429) -/

/-- Sends a job to the partner: header, input and bound values in one FORWARD frame. -/
def forwardJob (ctx : Nat) (j : Job) (s : State) : State :=
  let id := s.sched.nextFwd
  let st := jobStream s j
  let q := tgetD s.qm.queues j.slot {}
  let kept := if changesState j.hdr && j.nonce.isNone && !isLeafOp j.hdr.opcode then j.result else none
  let f : Forwarded := {
    id, session := q.session, qnum := q.qnum, entry := j.entry, hdr := j.hdr, input := j.input, nonce := j.nonce
    leaf := j.leaf, stream := st, made := kept, committed := j.committed }
  let s1 := setJob ctx { j with phase := .forwarded, unit := none, fwdId := id, result := none, entNeed := 0,
                                saltNeed := 0, saltHeld := 0, rnd := [], drawWait := false, keyLoaded := false } s
  evcAdd 0x5D 1 (bump 31 2 1 (ropeSend 1 (.forward f)
    { s1 with sched := { s1.sched with nextFwd := id + 1 } }))

/-- A job with no unit left is forwarded, or completes with UNIT_UNAVAILABLE at boundary `due`. -/
def leaveAt (due ctx : Nat) (j : Job) (s : State) : State :=
  if paired s && j.forPartner.isNone then forwardJob ctx j s
  else refuseJob ctx j stUnitUnavailable due s

/-- The same at the next boundary. -/
def forwardOrRefuse (ctx : Nat) (j : Job) (s : State) : State := leaveAt (nextBoundary s) ctx j s

/-- Peer units of the class of a job that are in service, other than the failed one. -/
def hasPeer (s : State) (h : Header) (bad : Nat) : Bool :=
  (unitClass h).units.any fun u => u != bad && inService s u

/-- Session, queue number and index of a job's entry, in the words of the device that sent it. -/
def entryName (s : State) (j : Job) : Nat × Nat × W32 :=
  j.fwdFrom.getD (let q := tgetD s.qm.queues j.slot {}; (q.session, q.qnum, j.entry))

/-- A slot without a hot copy and without a cold record. -/
def freedSlot (slot : Nat) (v : Vault) : Vault :=
  { v with
    hot := v.hot.filter (· != slot), recs := tdel v.recs slot, place := tdel v.place slot, due := v.due.filter (· != slot)
    awaited := v.awaited.filter (· != slot) }

/-- An object that an abandoned run created is gone again, with the next generation. -/
def unmakeSlot (s : State) (slot : Nat) : State :=
  match tget s.vault.objs slot with
  | none => s
  | some o =>
    let g := min 0xFFFFFF (o.gen + 1)
    mirror (.keyDel slot g) { s with vault := { freedSlot slot s.vault with
      objs := tdel s.vault.objs slot, gens := tput s.vault.gens slot g } }

/-- Nothing of an abandoned run is released (02 R54, 08 R243, 09 R268): the keys that it created are gone here and on
the partner. -/
def unmake (j : Job) (s : State) : State :=
  let n := entryName s j
  if j.made = [] then s else mirror (.unmade n.1 n.2.1 n.2.2) (j.made.foldl unmakeSlot s)

/-- The job without what its abandoned run created; the slots and the store space are reserved again. -/
def unmadeJob (j : Job) : Job :=
  let plan := createPlan j.hdr j.input
  if j.made = [] then j
  else { j with made := [], result := none, resSlots := j.made, saltNeed := plan.length
                resGran := (plan.map fun p => granules p.1 p.2).foldl (· + ·) 0 }

/-- A job runs again from its start after a unit fault (02 R54): partial output is discarded, a bound
nonce stays bound (06 R190), a fresh draw is reserved for what drew randomness (08 R243, 09 R268) and
an assigned leaf is burnt (09 R272). A state change of the key-management class that is already made is kept, since a
state change is made at most once (05 R167). -/
def restartedJob (s : State) (j : Job) (bad notBefore : Nat) : Job :=
  let keep := changesState j.hdr && j.nonce.isNone && !isLeafOp j.hdr.opcode
  { j with
    phase := .ready, unit := none, badUnit := some bad, notBefore := notBefore, retries := j.retries + 1
    keyLoaded := false, workDone := false, partialOut := [], rnd := [], leaf := none
    result := if keep then j.result else none
    draw := if j.nonce.isSome || (keep && j.result.isSome) then 0 else drawBytes s j.hdr j.input
    entNeed := if j.nonce.isSome || (keep && j.result.isSome) then 0 else drawBytes s j.hdr j.input
    entSince := s.sched.pitch }

/-- The randomness that an entry draws when it runs: what 02 R53 reserves. -/
def reserveDraw (ctx : Nat) (n : Nat) (s : State) : State :=
  if n = 0 then s else { s with ent := { s.ent with jobQ := s.ent.jobQ ++ [(.job ctx, n)] } }

/-- The job starts over (02 R54). -/
def startOver (ctx bad notBefore : Nat) (j : Job) (s : State) : State :=
  let j1 := restartedJob s j bad notBefore
  reserveDraw ctx j1.entNeed (evcAdd 0x0E 1 (setJob ctx j1 s))

/-- The unit that ran a job has failed: the job restarts on a peer once, else 05 R173 applies. -/
def restartJob (ctx bad notBefore : Nat) (s : State) : State :=
  match getJob s ctx with
  | none => s
  | some j0 =>
    let j := unmadeJob j0
    let s1 := burnLeaf j (unmake j0 s)
    if j.retries = 0 ∧ hasPeer s1 j.hdr bad = true then
      startOver ctx bad notBefore j s1
    else forwardOrRefuse ctx { j with leaf := none } s1

/-! ### The fault collector (16 R477-R485) -/

/-- The class counters (16 R484). -/
def countFault (f : FaultReg) (cls : Nat) : FaultReg :=
  match cls with
  | 0 => { f with f0 := satAdd 32 f.f0 1 }
  | 1 => { f with f1 := satAdd 32 f.f1 1 }
  | 2 => { f with f2 := satAdd 32 f.f2 1 }
  | _ => { f with f3 := satAdd 32 f.f3 1 }

/-- Whether a fault is captured in FLT_FIRST (16 R482). -/
def faultCaptured (f : FaultReg) (cls : Nat) : Bool := !f.valid || (cls == 3 && decide (f.cls < 3))

/-- The collector's registers after a fault. -/
def latchFault (f : FaultReg) (pitch src cls unit : Nat) : FaultReg :=
  let g := countFault f cls
  let h := if f.valid then { g with ovfSet := true, ovfCount := satAdd 32 g.ovfCount 1 } else g
  if faultCaptured f cls then { h with src := src, cls := cls, unit := unit, valid := true, pitch := pitch }
  else h

/-- A fault reaches the collector: latched or counted, and source 0 raised for a capture or an
enabled class (16 R482-R485). -/
def collect (src cls unit : Nat) (s : State) : State :=
  let irq := faultCaptured s.flt cls || bitAt (rw s 0x150028) cls
  let s1 := { s with flt := latchFault s.flt s.sched.pitch src cls unit }
  let s2 := if irq then raise 0 s1 else s1
  if cls ≤ 2 then evcAdd (0x0B + cls) 1 s2 else s2

/-! ### The avalanche (11 R335, 15 R458, R459) -/

/-- The vault without any object, hot or cold. -/
def emptyStore (v : Vault) : Vault :=
  { v with objs := [], hot := [], recs := [], place := [], due := [], orphans := [], patched := [], awaited := [] }

/-- What the avalanche leaves of the vault. -/
def clearedVault (v : Vault) : Vault :=
  { emptyStore v with gens := [], salts := [], roots := [], binds := [], seeds := [], derived := false }

/-- What the avalanche leaves of the entropy subsystem. -/
def clearedEnt (e : Ent) : Ent :=
  { e with pool := [], fifo := [], internalQ := [], jobQ := [], share := 0, katIn := [], katTest := [], katOut := []
           katStart := false, katBusy := false
           banks := tmap e.banks fun _ b => { b with pendingBlocks := [] } }

/-- What the avalanche leaves of the quorum engine (12 R368): route-card credentials stay listed. -/
def clearedQuorum (q : Quorum) : Quorum :=
  { q with props := [], journal := [], journalSeq := 0, tok0 := 0, tok1 := 0,
           voidTokens := [], closedIds := [], commits := [], parts := [0], creds := q.creds.filter fun c => c.card }

/-- Cached lines of a range are gone, as the memory behind them is. -/
def dropLines (lo hi : Nat) (w : World) : World :=
  { w with lines := w.lines.filter fun x => decide (x.addr < lo) || decide (hi ≤ x.addr) }

/-- The avalanche line is asserted; what it leads to is kept by the precedence of 01 R36. Every job in
flight ends without a result (05 R172), sessions and queues with them. -/
def avalanche (after : After) (s : State) : State :=
  let again := s.tam.line && !s.tam.released
  let lock := after == .lockdown || s.sys.mode == .lockdown || (s.tam.line && s.tam.after == .lockdown)
  { s with
    sys := { s.sys with unkeyed := true }
    tam := { s.tam with line := true, confirmed := again && s.tam.confirmed, released := false,
                        after := if lock then .lockdown else .systemReset }
    vault := clearedVault s.vault
    ent := clearedEnt s.ent
    quorum := clearedQuorum s.quorum
    sched := { s.sched with jobs := [], fwdIn := [] }
    units := tmap s.units fun _ r => { r with job := none, seg := false, mem := {} }
    strm := {}
    qm := { s.qm with queues := [] }
    tol := { s.tol with sess := [] }
    acu := { s.acu with commit := none }
    mem := clearRange (clearRange s.mem 0x10000000000 0x10400000000) 0x100000 0x500000
    world := dropLines 0x10000000000 0x10400000000 (dropLines 0x100000 0x500000 s.world)
    hbm := { s.hbm with ready := false }
    board := { s.board with liveOut := false }
    cnt := if again then s.cnt else tput s.cnt (19 * 64 + 33) (satAdd 48 (tgetD s.cnt (19 * 64 + 33) 0) 1) }

/-- The mode becomes LOCKDOWN; nothing but the loss of main power ends it (16 R479), and without main power the
mode stays VAULT (01 R35, R36). The partner takes the addresses of a paired device over, so that it holds them no
more (14 R425, R428). -/
def lockdownMode (s : State) : State :=
  if s.sys.mode = .vault then s else
  { s with
    sys := { s.sys with mode := .lockdown, paired := false }
    eth := if s.sys.paired then tmap s.eth fun _ e => { e with taken := false } else s.eth
    pair := { s.pair with
      addrHeld := s.pair.addrHeld && !s.sys.paired, addrTaken := s.pair.addrTaken && !s.sys.paired } }

/-- An F3 fault: its cairn record, one FENCE with reason 0, the avalanche and LOCKDOWN (16 R477,
R479). In LOCKDOWN a further F3 fault is only counted. -/
def f3Fault (src unit : Nat) (s : State) : State :=
  let s1 := collect src 3 unit s
  if s.sys.mode = .lockdown then s1
  else lockdownMode (avalanche .lockdown (sendFence 0 (cairnPlace 0x20 (BitVec.ofNat 32 s1.flt.src) s1)))

/-! ### Fencing (16 R478) -/

/-- FENCED counts one more fence; SERVICE becomes DEGRADED (01 R35, R42). -/
def degrade (s : State) : State :=
  { s with sys := { s.sys with fenced := min 255 (s.sys.fenced + 1)
                               mode := if s.sys.mode = .service then .degraded else s.sys.mode } }

/-- Every unit of the domain is fenced. -/
def allFenced (s : State) (d : Nat) : Bool :=
  !(domainUnits d).isEmpty && (domainUnits d).all fun u => (unitRec s u).st == .fenced

/-- A domain whose last unit is fenced is scrubbed and switched off by itself (18 R539, R547). -/
def autoOff (u : Nat) (s : State) : State :=
  match unitDomain u with
  | none => s
  | some d =>
    if allFenced s d then
      let r := domRec s d
      if r.autoOff then s
      else setDom d { r with autoOff := true, pend := false
                             st := if r.st = 0 ∨ r.st = 4 then 0 else 3 } s
    else s

/-- The unit leaves service for good: its job restarts elsewhere, a pending enable is dropped, and keys, buffers and
local memory are scrubbed (06 R179, 08 R243, 09 R268). -/
def fenceUnit (u notBefore : Nat) (s : State) : State :=
  let r := unitRec s u
  if r.st = .fenced then s
  else
    let s1 := degrade (setUnit u { r with st := .fenced, pendingEn := false, enableAt := false,
                                          job := none, seg := false, reserved := false, mem := {} } s)
    let s2 := match r.job with
      | some ctx => restartJob ctx u notBefore s1
      | none => s1
    autoOff u s2

/-- An F2 fault of unit `u` with local source index `loc` (16 R480). -/
def unitFault (u loc notBefore : Nat) (s : State) : State :=
  let b := unitBlock u
  fenceUnit u notBefore (collect (b.1 * 32 + loc) 2 b.2 s)

/-- An event of the past second. -/
def recent (s : State) (p : Nat) : Bool := decide (s.sched.pitch ≤ p + second)

/-- Adds an event to a list of (pitch, unit), forgetting those of more than one second ago. -/
def addRecent (s : State) (u : Nat) (l : List (Nat × Nat)) : List (Nat × Nat) :=
  (l.filter fun e => recent s e.1) ++ [(s.sched.pitch, u)]

/-- A mismatch of a lane or of a key engine slot (06 R179, R180, 11 R310), with local source index `loc`: 3, or 2
where the idle sweep finds it (16 R480, R490). F2, or F3 when it is the
second on different units within 500,000 pitches. -/
def mismatchFault (u loc notBefore : Nat) (s : State) : State :=
  let b := unitBlock u
  let attack := s.flt.mismatches.any fun e => recent s e.1 && e.2 != u
  let r := s.flt.symRec
  let flt1 := { s.flt with
    mismatches := addRecent s u s.flt.mismatches
    symRec := if u < 4 then (u, true, min 255 (r.2.2.1 + 1), s.sched.pitch) else r }
  let s1 := bump 10 5 (b2n (decide (u < 4))) { s with flt := flt1 }
  if attack then f3Fault (b.1 * 32 + 4) b.2 s1 else unitFault u loc notBefore s1

/-- Units with a self-check failure in the past second, this one included. -/
def distinctUnits (l : List (Nat × Nat)) : Nat := (l.map fun e => e.2).eraseDups.length

/-- A self-check failure of a PKE core or lattice slice (08 R243, 09 R268): the fourth unit within
500,000 pitches is an F3 fault. -/
def selfCheckFault (u notBefore : Nat) (s : State) : State :=
  let b := unitBlock u
  let p := s.sched.pitch
  if b.1 = 12 then
    let l := addRecent s u s.flt.pkeFails
    let r := s.flt.pkeRec
    let s1 := bump 12 7 1 { s with flt := { s.flt with pkeFails := l, pkeRec := (b.2, true, min 255 (r.2.2.1 + 1), p) } }
    if 4 ≤ distinctUnits l then f3Fault 388 b.2 s1 else unitFault u 3 notBefore s1
  else
    let l := addRecent s u s.flt.latFails
    let r := s.flt.latRec
    let s1 := bump 13 20 1 { s with
      flt := { s.flt with latFails := l, latRec := (b.2, true, min 255 (r.2.2.1 + 1), p), latKind := false } }
    if 4 ≤ distinctUnits l then f3Fault 420 b.2 s1 else unitFault u 3 notBefore s1

/-- Every unit of 02 R46 is fenced by a tamper response of level FENCE or higher (15 R455). -/
def fenceAll (s : State) : State :=
  (List.range 108).foldl (fun t u => fenceUnit u (t.sched.pitch + 2) t) s

/-! ### Stopped entropy output (10 R296) -/

/-- Banks counted as healthy: healthy or recalibrating (10 R283). -/
def healthyBanks (s : State) : Nat := (s.ent.banks.filter fun p => p.2.st == 1 || p.2.st == 2).length

/-- Conditioners in service. -/
def condsUp (s : State) : Nat := ((List.range' 108 4).filter (inService s)).length

/-- Fewer than 4 healthy banks or no conditioner stop the output: pool, pending stage and FIFO are
cleared, and ENT counts as fenced until the next STARTUP (10 R296). The blocks count as discarded (R308), and the
state change raises source 6 (13 R381). -/
def entStop (s : State) : State :=
  if s.ent.stopped || (decide (4 ≤ healthyBanks s) && decide (1 ≤ condsUp s)) then s
  else
    let dropped := (s.ent.banks.map fun p => p.2.pendingBlocks.length).foldl (· + ·) 0
    raise 6 (degrade (collect 450 2 0 (bump 14 1 dropped { s with
      ent := { s.ent with
        pool := [], fifo := [], share := 0, banks := tmap s.ent.banks fun _ b => { b with pendingBlocks := [] }
        stopped := true, isOpen := false, starting := false, opening := false } })))

end Sys2Proof.Machine
end

