-- ==== Sys2Proof/Machine/Checks.lean ====
section
/-! DEFINITION. The checks of an entry at fetch, in the order of 05 R157, and the tokens they look
up (12 R356, R359). -/

namespace Sys2Proof.Machine

/-! ### Queues, sessions and partitions -/

def getQueue (s : State) (slot : Nat) : Option Queue := tget s.qm.queues slot

def setQueue (slot : Nat) (q : Queue) (s : State) : State :=
  { s with qm := { s.qm with queues := tput s.qm.queues slot q } }

def getSess (s : State) (i : Nat) : Option Sess := tget s.tol.sess i

def setSess (i : Nat) (x : Sess) (s : State) : State :=
  { s with tol := { s.tol with sess := tput s.tol.sess i x } }

/-- The partition exists (12 R348). -/
def partExists (s : State) (p : Nat) : Bool := p == 0 || s.quorum.parts.contains p

/-- Who submits to a queue: its partition, and for a host queue its session. -/
structure Sender where
  part : Nat := 0
  deviceLevel : Bool := false
  role : Nat := 4
  deriving DecidableEq, Repr

/-- The sender of a queue's entries. -/
def senderOf (s : State) (q : Queue) : Sender :=
  if q.isInternal then { part := q.part }
  else match getSess s q.session with
    | some x => { part := x.part, deviceLevel := x.deviceLevel, role := x.role }
    | none => { part := q.part }

/-- Session roles that an opcode admits; `none` where any is admitted (12 R366, 17 R501, R519). -/
def rolesOf (op : Nat) : Option (List Nat) :=
  match op with
  | 0x700 => some [0, 2]
  | 0x701 => some [0, 2, 3]
  | 0x705 => some [0, 1, 2, 3]
  | 0x706 => some [0, 1]
  | 0x708 | 0x709 | 0x70C | 0x710 | 0x711 | 0x720 | 0x721 => some [0]
  | 0x714 | 0x715 | 0x718 | 0x719 => some [0, 3]
  | 0x020 | 0x021 | 0x022 | 0x030 | 0x031 => some [0]
  | _ => none

/-- Opcodes served only on a device-level session that names partition 0 (11 R337, 15 R471, 17 R501). -/
def deviceOnly (op : Nat) : Bool :=
  [0x010, 0x020, 0x021, 0x022, 0x030, 0x031, 0x5F0, 0x5F1, 0x5F2, 0x5F3].contains op

/-- Opcodes in which a device-level session may name any partition (11 R337, 12 R354). -/
def anyPartition (op : Nat) : Bool :=
  [0x504, 0x508, 0x701, 0x702, 0x703, 0x705, 0x714, 0x715, 0x718, 0x719].contains op

/-- Order 4 of 05 R157. -/
def partitionOk (s : State) (q : Queue) (h : Header) : Bool :=
  let x := senderOf s q
  (if deviceOnly h.opcode then x.deviceLevel && h.part == 0
   else h.part == x.part || (x.deviceLevel && anyPartition h.opcode))
    && (match rolesOf h.opcode with | some l => l.contains x.role | none => true)
    && partExists s h.part

/-! ### Keys: orders 8 to 11 -/

/-- Families that KEY_A may have; `none` where the entry takes no KEY_A, `some []` for any. -/
def famsA (h : Header) : Option (List Nat) :=
  let op := h.opcode
  let keyed (f : Nat) : Option (List Nat) := if isInline h then none else some [f]
  if symOps.contains op then
    some [if op == 0x118 || op == 0x119 then 2 else if op == 0x140 || op == 0x141 then 3
          else if 0x150 ≤ op then 4 else 1]
  else match op with
    | 0x210 | 0x211 => some [5]
    | 0x214 | 0x215 => some [6]
    | 0x218 | 0x219 => some [1]
    | 0x220 | 0x221 | 0x222 | 0x224 | 0x226 | 0x440 => some [0]
    | 0x300 | 0x302 | 0x305 => some [7]
    | 0x301 | 0x303 | 0x304 => keyed 7
    | 0x310 | 0x318 => some [8]
    | 0x311 => keyed 8
    | 0x314 => some [10]
    | 0x315 => keyed 10
    | 0x319 => some [9]
    | 0x401 => keyed 11
    | 0x402 => if h.p0 11 1 = 1 then none else some [11]
    | 0x411 => some [12]
    | 0x412 => keyed 12
    | 0x421 => some [13]
    | 0x422 => keyed 13
    | 0x431 => some [14]
    | 0x432 => keyed 14
    | 0x435 => some [15]
    | 0x436 => keyed 15
    | 0x504 | 0x505 | 0x508 | 0x509 | 0x510 | 0x520 => some []
    | 0x521 => some [1]
    | _ => none

/-- Families that KEY_B may have. -/
def famsB (h : Header) : Option (List Nat) :=
  match h.opcode with
  | 0x440 => some [0]
  | 0x520 => some [1]
  | _ => none

/-- The length and the parameter set of the key fit the opcode (06 R183, 07 R212, 08 R234, 09 R260). -/
def keyFits (h : Header) (o : KeyObj) : Bool :=
  let op := h.opcode
  let n := o.mat.length
  if symOps.contains op then
    (match o.fam with
     | 1 => n == 16 || n == 24 || n == 32
     | 2 => n == 32 || n == 64
     | 3 => n == 32
     | _ => n == 24 || (n == 16 && op % 2 == 1))
  else if hashOps.contains op then
    (match o.fam with
     | 1 => n == 16 || n == 24 || n == 32
     | 0 => decide (16 ≤ n ∧ n ≤ 512)
     | _ => decide (16 ≤ n ∧ n ≤ 128))
  else if op == 0x440 then true
  else if pkeOps.contains op then (if o.fam = 7 then rsaClass o.param == h.p0 0 8 else o.param == h.p0 0 8)
  else if latOps.contains op then o.param == h.p0 0 8
  else if op == 0x521 then n == 16 || n == 24 || n == 32
  else true

/-- A committed KEY_DESTROY of the same handle whose row has yet to run: the destruction took effect at its commit
point (11 R334). -/
def condemned (s : State) (hd : Word) : Bool :=
  s.sched.jobs.any fun p => p.2.phase == .running && p.2.hdr.opcode == 0x504 && p.2.hdr.keyA == hd && p.2.result.isNone

/-- One handle at order 8: none where none is taken, else a live object of a fitting family. -/
def handleOk (s : State) (h : Header) (fams : Option (List Nat)) (hd : Word) (fit : Header → KeyObj → Bool) : Bool :=
  match fams with
  | none => hd == 0
  | some l =>
    match (keyAt s hd).filter fun _ => !condemned s hd with
    | some o => (l.isEmpty || l.contains o.fam) && fit h o
    | none => false

/-- Entries that an unkeyed device refuses (11 R336). -/
def unkeyedDenies (h : Header) : Bool :=
  let op := h.opcode
  h.keyA != 0 || h.keyB != 0 || op == 0x500 || op == 0x511 || op == 0x521 || op == 0x530 || op == 0x5F1
    || op == 0x5F2 || (keygenFam h).isSome || (destOf h != 0 && hasTemplate h)
    || (op == 0x402 && h.p0 11 1 == 1)
    || [0x710, 0x711, 0x714, 0x715, 0x718, 0x719, 0x720, 0x721].contains op

/-- Order 8. -/
def handlesOk (s : State) (h : Header) : Bool :=
  !(s.sys.unkeyed && unkeyedDenies h)
    && handleOk s h (famsA h) h.keyA keyFits
    && handleOk s h (famsB h) h.keyB (fun g o =>
         g.opcode != 0x520 || o.mat.length == 16 || o.mat.length == 24 || o.mat.length == 32)

/-- Order 9: the partition field of each handle, which is that of the object (11 R315), equals PARTITION. -/
def handlePartsOk (s : State) (h : Header) : Bool :=
  let one (hd : Word) : Bool := hd == 0 || (handlePart hd == h.part && (keyAt s hd).all fun o => o.part == h.part)
  one h.keyA && one h.keyB

/-- The usage class that an opcode needs of KEY_A (11 R318); `none` for the key-management opcodes
that act on the key itself. -/
def classFor (op : Nat) : Option Nat :=
  if op == 0x124 || op == 0x210 || op == 0x214 || op == 0x218 then some 9
  else if op == 0x125 || op == 0x211 || op == 0x215 || op == 0x219 then some 10
  else if op == 0x130 || op == 0x132 then some 3
  else if op == 0x131 || op == 0x133 || op == 0x521 then some 4
  else if symOps.contains op then some (if op % 2 = 0 then 1 else 2)
  else match op with
    | 0x220 | 0x221 | 0x222 | 0x224 | 0x226 | 0x440 => some 5
    | 0x300 | 0x302 | 0x310 | 0x314 | 0x411 | 0x421 | 0x431 | 0x435 => some 6
    | 0x301 | 0x303 | 0x311 | 0x315 | 0x412 | 0x422 | 0x432 | 0x436 => some 7
    | 0x304 => some 1
    | 0x305 => some 2
    | 0x318 | 0x319 => some 8
    | 0x401 => some 11
    | 0x402 => some 12
    | _ => none

/-- The entry returns bytes derived from vault keys (07 R220, 08 R239, 09 R263). -/
def outputsKeyData (h : Header) : Bool :=
  (isKdf h.opcode || [0x318, 0x319, 0x401, 0x402, 0x440].contains h.opcode) && destOf h == 0

/-- KEY_EXPORT_PACK and KEY_WRAP_EXPORT (11 R320). -/
def isExport (op : Nat) : Bool := op == 0x510 || op == 0x520

/-- Policy bits as 11 R320 numbers them. -/
def polBit (o : KeyObj) (n : Nat) : Bool := bitAt o.policy n

/-- Output and export policies of the keys named (11 R320, R321, R342), also checked at the commit point. -/
def policyOk (s : State) (h : Header) : Bool :=
  (!outputsKeyData h || (namedKeys s h).all fun o => polBit o 1)
    && (!isExport h.opcode || (keyAt s h.keyA).all fun o => polBit o 0 && !polBit o 10)

/-- PAIR_FAB in force: fabric membership and member ID (14 R447). -/
def memberId (s : State) : Nat := fld (inForce s 0x1F0018) 16 9

/-- In fabric mode a slot belongs to the member whose ID its low bits name (14 R442, R443). -/
def ownSlot (s : State) (slot : Nat) : Bool := !fabOn s || slot % 512 == memberId s

/-- PAIR_CFG.ROLE in force: this device is the second of its pair (14 R417). -/
def isSecond (s : State) : Bool := bitAt (inForce s 0x1F0000) 0

/-- Order 10. -/
def usageOk (s : State) (h : Header) : Bool :=
  (match classFor h.opcode, keyAt s h.keyA with
   | some c, some o => o.cls == c
   | _, _ => true)
    && (h.opcode != 0x509 || (keyAt s h.keyA).all fun o => decide (7 ≤ o.fam))
    && (h.opcode != 0x440 || (keyAt s h.keyB).all fun o => o.cls == 5)
    && (h.opcode != 0x520 || (keyAt s h.keyB).all fun o => o.cls == 3)
    && policyOk s h
    && ((h.opcode != 0x5F0 && h.opcode != 0x5F3) || s.sys.unkeyed)
    && ((h.opcode != 0x504 && h.opcode != 0x505) || ownSlot s (handleSlot h.keyA))

/-- Jobs fetched and not yet past their commit point. -/
def uncommitted (j : Job) : Bool := j.phase == .ready && !j.committed

/-- Fetched by this device and not known to have passed its commit point, here or on the partner. -/
def reserving (j : Job) : Bool := (uncommitted j || j.phase == .forwarded) && j.forPartner.isNone

/-- Invocations of a key counted and reserved (06 R193). -/
def invocationSum (s : State) (slot : Nat) (o : KeyObj) : Nat :=
  o.invLead + (o.invSecond - 2 ^ 63)
    + (s.sched.jobs.map fun p =>
        if reserving p.2 && p.2.nonce.isNone && handleSlot p.2.hdr.keyA == slot then invocations p.2.hdr
        else 0).foldl (· + ·) 0

/-- The effective cap of a key (06 R193, R194, 11 R319). -/
def effCap (o : KeyObj) : Nat :=
  let top := if o.fam = 4 then 2 ^ 20 else 2 ^ 48
  if o.cap = 0 ∨ top < o.cap then top else o.cap

/-- Leaves of a stateful key. -/
def leafCount (o : KeyObj) : Nat :=
  ((if o.fam = 14 then lmsSet o.param else xmssSet o.param).map fun t => t.leaves).getD 0

/-- Leaves taken and reserved: by entries fetched here or waiting here for the partner, which have no leaf yet (09
R273). -/
def leafSum (s : State) (slot : Nat) (o : KeyObj) : Nat :=
  let waits (h : Header) (leaf : Option Nat) : Bool := isLeafOp h.opcode && leaf.isNone && handleSlot h.keyA == slot
  o.next
    + (s.sched.jobs.filter fun p => (p.2.phase == .ready || p.2.phase == .forwarded) && waits p.2.hdr p.2.leaf).length
    + (s.sched.fwdIn.filter fun f => waits f.hdr f.leaf).length

/-- Granules of the cold store in use: by objects, and by records that compaction has still to free (11 R309, R350). -/
def granulesHeld (v : Vault) : Nat :=
  (v.objs.map fun p => granules p.2.mat.length (objExt p.2)).foldl (· + ·) 0 + (v.orphans.map fun r => r.2).foldl (· + ·) 0

/-- Granules in use, and those reserved by jobs (11 R309, R314). -/
def granulesUsed (s : State) : Nat :=
  granulesHeld s.vault
    + (s.sched.jobs.map fun p => p.2.resGran).foldl (· + ·) 0

/-- Slots that jobs have reserved. -/
def reservedSlots (s : State) : List Nat := (s.sched.jobs.map fun p => p.2.resSlots).flatten

/-- A slot that cannot be given out: in use, reserved or retired (11 R314). -/
def slotTaken (s : State) (n : Nat) : Bool :=
  (tget s.vault.objs n).isSome || (reservedSlots s).contains n || tgetD s.vault.gens n 1 == 0xFFFFFF

/-- The lowest `k` free slots from `n` on in steps, examining at most `fuel`. -/
def freeSlots (s : State) (step : Nat) : Nat → Nat → Nat → List Nat
  | 0, _, _ => []
  | fuel + 1, n, k =>
    if k = 0 ∨ 16777216 ≤ n then []
    else if slotTaken s n then freeSlots s step fuel (n + step) k
    else n :: freeSlots s step fuel (n + step) (k - 1)

/-- First slot and stride of the allocation: by member ID in a fabric, by role in a pair (11 R314, 14 R442). -/
def slotStart (s : State) : Nat × Nat :=
  if fabOn s then (memberId s, 512) else if paired s then (b2n (isSecond s), 2) else (0, 1)

/-- Slots that a creation of `k` objects would take; shorter than `k` when the store is full. -/
def pickSlots (s : State) (k : Nat) : List Nat :=
  let st := slotStart s
  freeSlots s st.2 (s.vault.objs.length + s.vault.gens.length + (reservedSlots s).length + k) st.1 k

/-- Granules that the entry's creations need. -/
def planGranules (plan : List (Nat × Nat)) : Nat :=
  (plan.map fun p => granules p.1 p.2).foldl (· + ·) 0

/-- Store space at order 11 (11 R314). -/
def storeOk (s : State) (h : Header) (input : List Byte) : Bool :=
  let plan := createPlan h input
  plan.isEmpty || ((pickSlots s plan.length).length == plan.length
    && decide (granulesUsed s + planGranules plan ≤ 67108864))

/-- The record of a key can still be written, so that its counters can advance (21 R582). -/
def wcountOk (o : KeyObj) : Bool := decide (o.wcount < 2 ^ 48 - 1)

/-- Invocations at order 11. -/
def invOk (s : State) (h : Header) : Bool :=
  match invocations h, keyAt s h.keyA with
  | 0, _ => true
  | n, some o => wcountOk o && decide (invocationSum s (handleSlot h.keyA) o + n ≤ effCap o)
  | _, none => true

/-- Leaves at order 11. -/
def leafOk (s : State) (h : Header) : Bool :=
  match isLeafOp h.opcode, keyAt s h.keyA with
  | true, some o => wcountOk o && decide (leafSum s (handleSlot h.keyA) o < leafCount o)
  | _, _ => true

/-! ### Tokens: order 12 -/

/-- DIGEST of a KIND 1 proposal over an entry whose input after the token is given (12 R356). -/
def opDigest (h : Header) (rest : List Byte) : List Byte :=
  crypto .hash [algSha3x256] [ascii "Yalzia op 1" ++ headerBytes0 h ++ rest] 32

/-- The proposal whose valid token this is (12 R359). -/
def tokenProp (s : State) (tok : List Byte) : Option (Nat × Proposal) :=
  s.quorum.props.find? fun p =>
    p.2.state == 2 && p.2.token == tok && tok.length == 16 && decide (s.sched.pitch < p.2.tokenEnd)

/-- A KIND 1 token authorises this entry. -/
def tokenFits (s : State) (h : Header) (tok rest : List Byte) : Bool :=
  match tokenProp s tok with
  | some (_, p) => p.kind == 1 && p.opcode == h.opcode && p.opPart == h.part && p.digest == opDigest h rest
  | none => false

/-- A key-management entry that needs a token (11 R337, R339). -/
def needsToken (s : State) (h : Header) : Bool :=
  let op := h.opcode
  let pol (n : Nat) : Bool := (keyAt s h.keyA).any fun o => polBit o n
  op == 0x5F0 || op == 0x5F1 || op == 0x5F2 || op == 0x5F3 || (op == 0x504 && pol 2) || (isExport op && pol 3)

/-- Order 12; admin and quorum entries present their token at execution (12 R586). -/
def tokenOk (s : State) (h : Header) (input : List Byte) : Bool :=
  !needsToken s h || (tokLen h == 16 && tokenFits s h (input.take 16) (input.drop 16))

/-! ### Orders 13 to 15 -/

/-- Staging blocks that a first entry reserves (06 R197). -/
def heldBlocks (h : Header) : Nat :=
  if holds h.opcode && h.chain == 1 then ceilDiv (streamBytes h) 65536 else 0

/-- Staging blocks of frames that the host has not acknowledged: output, and held plaintext. -/
def framesStage (x : Sess) : Nat × Nat :=
  ((x.unacked.map fun f => f.stage).foldl (· + ·) 0 + (x.blocked.map fun b => b.2.1).foldl (· + ·) 0,
   (x.unacked.map fun f => f.held).foldl (· + ·) 0 + (x.blocked.map fun b => b.2.2).foldl (· + ·) 0)

/-- Held-plaintext staging blocks in use, those of the partner's streams among them (06 R197, R198). -/
def blocksUsed (s : State) : Nat :=
  (s.strm.tab.map fun t => t.blocks).foldl (· + ·) 0
    + (s.pair.peerStaging.map fun e => e.2.2.2).foldl (· + ·) 0
    + (s.tol.sess.map fun p => (framesStage p.2).2).foldl (· + ·) 0

/-- Output staging blocks in use (19 R558). -/
def stageUsed (s : State) : Nat :=
  (s.sched.jobs.map fun p => p.2.stage).foldl (· + ·) 0
    + (s.tol.sess.map fun p => (framesStage p.2).1).foldl (· + ·) 0

/-- Order 14 (05 R159). -/
def streamRoom (s : State) (h : Header) : Bool :=
  h.chain != 1 || (decide (s.strm.tab.length < 8192) && decide (blocksUsed s + heldBlocks h ≤ 65536))

/-- The entry needs a key engine slot besides its unit: it names a key, opens a pack or creates a key
(16 R478). -/
def needsKe (h : Header) : Bool :=
  h.keyA != 0 || h.keyB != 0 || (h.opcode == 0x402 && h.p0 11 1 == 1)

/-- Order 15 (05 R157, 16 R478). -/
def unitsOk (s : State) (h : Header) : Bool :=
  paired s || (classUp s (unitClass h) && (!needsKe h || classUp s .ke))

/-! ### Chain rules: order 7 (05 R160, 06 R187, 07 R215, 09 R275) -/

/-- The fields that every entry of a stream repeats; MIRROR_CLASS is ignored on an internal queue (13 R394). -/
def sameStream (q : Queue) (t : Stream) (h : Header) : Bool :=
  t.opcode == h.opcode && t.part == h.part && (q.isInternal || t.mirror == h.mirror) && t.keyA == h.keyA && t.keyB == h.keyB
    && (!symOps.contains h.opcode || t.param1 == h.param1)
    && (!hashOps.contains h.opcode || (t.param0 == h.param0 && t.param1 == h.param1))

/-- Entries of a build stream: ceil(T / 256) (09 R275). -/
def buildEntries (h : Header) : Nat :=
  ((stSet h.opcode (h.p0 0 8)).map fun t => ceilDiv t.build 256).getD 0

/-- The position of a build entry in its stream. A single entry for a set that needs a stream breaks the rule too
(DESIGN CHOICE, log 122). -/
def buildOk (t : Option Stream) (h : Header) : Bool :=
  if h.opcode == 0x430 || h.opcode == 0x434 then
    match h.chain, t with
    | 0, _ => buildEntries h == 1
    | 2, some x => decide (x.entries + 1 < buildEntries h)
    | 3, some x => x.entries + 1 == buildEntries h
    | _, _ => true
  else true

/-- Order 7. -/
def chainOk (s : State) (slot : Nat) (h : Header) : Bool :=
  let t := findStream s slot h.streamId
  match h.chain with
  | 0 => h.streamId == 0 && buildOk none h
  | 1 => h.streamId != 0 && t.isNone
  | _ => match t with
    | some x => h.streamId != 0 && sameStream (tgetD s.qm.queues slot {}) x h && buildOk (some x) h
    | none => false

/-- The PARAM words, and the template where there is one (11 R322). -/
def paramsOk (s : State) (h : Header) (input : List Byte) : Bool :=
  paramOk h && (!hasTemplate h || templateOk s h input)

/-- Output room of an internal queue, whose results overwrite the entry (13 R392). -/
def outRoomOk (s : State) (q : Queue) (h : Header) : Bool :=
  decide (maxOut s h ≤ h.outMax) && (!q.isInternal || decide (16 + h.outMax ≤ h.lenUnits * 64))

/-- MIRROR_CLASS is a valid code; queue commands and internal queues ignore it (04 R137, 13 R394). -/
def mirrorOk (q : Queue) (h : Header) : Bool :=
  decide (h.mirror ≤ 1) || q.isInternal || decide (1 ≤ h.opcode ∧ h.opcode ≤ 5)

/-- Orders 2 to 15 of 05 R157: the status of the first check that fails, or OK. -/
def fetchStatus (s : State) (slot : Nat) (q : Queue) (h : Header) (input : List Byte) : Nat :=
  if !(h.rsvOk && decide (h.chain ≤ 3) && mirrorOk q h) then stBadParam
  else if !(implemented h.opcode && (!adminOnly h.opcode || q.admin)
      && (h.opcode < 0x800 || (calledFn s h).isSome)) then stBadOpcode
  else if !partitionOk s q h then stPartitionDenied
  else if !lenOk s slot h then stBadLength
  else if !paramsOk s h input then stBadParam
  else if !chainOk s slot h then stBadStream
  else if !handlesOk s h then stBadHandle
  else if !handlePartsOk s h then stPartitionDenied
  else if !usageOk s h then stUsageDenied
  else if !(storeOk s h input && invOk s h && leafOk s h) then stKeyExhausted
  else if !tokenOk s h input then stQuorumRequired
  else if !outRoomOk s q h then stOutTooSmall
  else if !streamRoom s h then stNoContext
  else if !unitsOk s h then stUnitUnavailable
  else stOk

end Sys2Proof.Machine
end

