-- ==== Sys2Proof/Machine/AcuCheck.lean ====
section
/-! DEFINITION. The check of an access control unit: ports, regions and the attributes that an
admitted access receives (13 R397-R402). -/

namespace Sys2Proof.Machine

/-- The vault port lies in the key engine's private space; the model places that space at 2^52, beside
the fabric's addresses (log 14). -/
def vaultSpace : Nat := 2 ^ 52

/-- First address and length of the port of ACU `n` (13 R397). -/
def acuPort (n : Nat) : Nat × Nat :=
  match n with
  | 0 => (0, 0x80000)
  | 1 => (0x100000, 0x400000)
  | 2 => (0x500000, 0x400000)
  | 3 => (vaultSpace, 0x800000)
  | 4 => (0x1000000, 0x80000)
  | 5 => (0x1080000, 0x80000)
  | 6 => (0x1100000, 0x30000)
  | 7 => (0x1130000, 0x60000)
  | 8 => (0x1190000, 0x70000)
  | 13 => (0x10000000, 0x10000000)
  | _ => (0x10000000000 + (n - 9) * 0x100000000, 0x100000000)

/-- The ACU whose port holds an address. -/
def portOf (a : Nat) : Option Nat :=
  (List.range 14).find? fun n => decide ((acuPort n).1 ≤ a ∧ a < (acuPort n).1 + (acuPort n).2)

/-- Ports whose writes are posted, and those that admit instruction fetches (13 R397, R400). -/
def posted (n : Nat) : Bool := decide (n ≤ 3) || decide (9 ≤ n ∧ n ≤ 12)
def fetchable (n : Nat) : Bool := decide (n ≤ 2) || decide (9 ≤ n ∧ n ≤ 12)

/-- One region as in force: RBASE, RMASK, RPERM. -/
structure Region where
  rbase : Nat
  mask : Nat
  perm : Nat
  deriving DecidableEq, Repr

/-- CSR offset of region `r` of ACU `n`. -/
def regionOff (n r : Nat) : Nat := 0x110000 + 0x400 * n + 0x20 * r

/-- Region `r` of ACU `n` in force. -/
def region (s : State) (n r : Nat) : Region :=
  { rbase := inForce s (regionOff n r), mask := inForce s (regionOff n r + 8),
    perm := inForce s (regionOff n r + 16) }

def Region.en (g : Region) : Bool := bitAt g.rbase 0
def Region.lg (g : Region) : Nat := fld g.rbase 2 6
def Region.base (g : Region) : Nat := fld g.rbase 12 36 * 4096
def Region.world (g : Region) : Nat := fld g.perm 0 2
def Region.gateway (g : Region) : Bool := bitAt g.perm 5

/-- An enabled region that acts as disabled and sets CFG_ERR (13 R399). -/
def Region.bad (n : Nat) (g : Region) : Bool :=
  g.en && (decide (g.lg < (if 9 ≤ n ∧ n ≤ 12 then 16 else 12)) || g.base % 2 ^ g.lg != 0
    || (g.world == 0 && g.gateway && !bitAt g.perm 4))

/-- An enabled region contains an address of its port's space (13 R399). -/
def Region.holds (n : Nat) (g : Region) (a : Nat) : Bool :=
  g.en && !g.bad n && decide (g.base ≤ a ∧ a < g.base + 2 ^ g.lg)
    && !bitAt g.perm (16 + (a - g.base) / 2 ^ (g.lg - 3))

/-- The address as the regions of ACU `n` see it. -/
def localAddr (n a : Nat) : Nat := if n = 3 then a - vaultSpace else a

/-- The lowest-numbered enabled region that contains a byte. -/
def deciding (s : State) (n a : Nat) : Option (Nat × Region) :=
  ((List.range 32).find? fun r => (region s n r).holds n (localAddr n a)).map fun r => (r, region s n r)

/-- WORLD admits the master's world: 0 summit, 1 base, 3 none (13 R400). -/
def worldAdmits (w world : Nat) : Bool := w == 2 || w == world

/-- The permission that an access needs. -/
def permitted (g : Region) : AccKind → Bool
  | .read => bitAt g.perm 2
  | .write => bitAt g.perm 3
  | .fetch => bitAt g.perm 4

/-- The region admits a byte of the access. -/
def Region.admits (g : Region) (n master world : Nat) (k : AccKind) : Bool :=
  bitAt g.mask master && worldAdmits g.world world && permitted g k && (k != .fetch || fetchable n)

/-- The verdict of a check: the deciding region of the first denied byte (32 none, 33 port crossing), or
the attributes MTYPE and ORDER. -/
inductive Verdict where
  | denied (region : Nat)
  | admitted (mtype order : Nat)
  deriving DecidableEq, Repr

/-- Bytes of the access in order; MTYPE is the strictest of the deciding regions and ORDER that of the
first byte (13 R400-R402). -/
def checkBytes (s : State) (n master world : Nat) (k : AccKind) : Nat → Nat → Nat → Option Nat → Verdict
  | 0, _, mt, ord => .admitted mt (ord.getD 0)
  | len + 1, a, mt, ord =>
    match deciding s n a with
    | none => .denied 32
    | some (r, g) =>
      if g.admits n master world k then
        checkBytes s n master world k len (a + 1) (max mt (fld g.perm 6 2)) (some (ord.getD (fld g.perm 8 2)))
      else .denied r

/-- The check of one access by ACU `n`, the port of its first byte. -/
def acuCheck (s : State) (n master world : Nat) (k : AccKind) (a len : Nat) : Verdict :=
  if (acuPort n).1 + (acuPort n).2 < a + len then .denied 33
  else checkBytes s n master world k len a 0 none

/-- An access is admitted where some port holds it. -/
def admitted (s : State) (master world : Nat) (k : AccKind) (a len : Nat) : Bool :=
  match portOf a with
  | some n => match acuCheck s n master world k a len with
    | .admitted _ _ => true
    | .denied _ => false
  | none => false

/-- World that a fixed master carries (13 R398): the NVM loader the summit world, engines none. -/
def masterWorld (m : Nat) : Nat := if m = 0x1E then 0 else 3

/-- The ACU's record. -/
def acuRec (s : State) (n : Nat) : AcuRec := tgetD s.acu.recs n {}

def setAcuRec (n : Nat) (r : AcuRec) (s : State) : State :=
  { s with acu := { s.acu with recs := tput s.acu.recs n r } }

/-- A precise denial: captured while VALID is 0, else counted with OVF (13 R403). -/
def preciseDenial (n master world reg kind a : Nat) (s : State) : State :=
  let r := acuRec s n
  let c := { r with synCount := satAdd 32 r.synCount 1 }
  evcAdd 0x82 1 (
    if r.synValid then setAcuRec n { c with synOvf := true } s
    else raise 2 (setAcuRec n { c with
      synAddr := a, synValid := true, synMaster := master, synWorld := world, synRegion := reg, synKind := kind } s))

/-- A posted-write denial: only a notice (13 R403). -/
def postedDenial (n master reg : Nat) (s : State) : State :=
  let r := acuRec s n
  let c := { r with noteCount := satAdd 32 r.noteCount 1 }
  evcAdd 0x83 1 (
    if r.noteValid then setAcuRec n { c with noteOvf := true } s
    else raise 2 (setAcuRec n { c with noteValid := true, noteMaster := master, noteRegion := reg } s))

/-- The record of a denial by its kind. -/
def recordDenial (n master world reg : Nat) (k : AccKind) (a : Nat) (s : State) : State :=
  match k with
  | .read => preciseDenial n master world reg 0 a s
  | .fetch => preciseDenial n master world reg 2 a s
  | .write => if posted n then postedDenial n master reg s else preciseDenial n master world reg 1 a s

/-- A job whose access was denied completes with UNIT_UNAVAILABLE at the next boundary (13 R403). -/
def denyJob (ctx : Nat) (s : State) : State :=
  match getJob s ctx with
  | none => s
  | some j =>
    if j.phase = .completed ∧ j.result.isSome ∧ j.unit.isNone then s
    else
      let s1 := match j.unit with
        | some u => setUnit u { unitRec s u with job := none, seg := false } s
        | none => s
      refuseJob ctx { j with unit := none } stUnitUnavailable (s.sched.pitch + 1) s1

/-- The access control of the address's port changes its rules, and a new request waits unchecked (13 R405). -/
def portWaits (s : State) (a : Nat) : Bool := (portOf a).any fun n => (acuRec s n).wait

/-- The address lies in the stack behind the inline encryption while the controller has no keys (01 R23): nothing is
transferred. -/
def hbmDown (s : State) (a : Nat) : Bool := !s.hbm.ready && decide (0x10000000000 ≤ a ∧ a < 0x10400000000)

/-- What a transfer of `n` bytes from an address returns; without the keys of the inline encryption, free values (log
80). -/
def readMem (s : State) (a n : Nat) : List Byte := if hbmDown s a then freeBytes s n else readBytes s.mem a n

/-- The 64-byte line that a core caches. -/
def lineOf (s : State) (c a : Nat) : Option CacheLine := s.world.lines.find? fun x => x.core == c && x.addr == a / 64 * 64

/-- What a core reads within a line: its cached copy, where it has one. -/
def coreView (s : State) (c a n : Nat) : List Byte :=
  match lineOf s c a with
  | some x => sliceB x.bytes (a % 64) n
  | none => readMem s a n

/-- Bytes stored by a transfer; without the keys none reaches the stack. -/
def storeMem (a : Nat) (data : List Byte) (s : State) : State :=
  if hbmDown s a then s else { s with mem := writeBytes s.mem a data }

/-- An access of a master other than a core; a denial is recorded, noted as F0 source 544, and ends the job that
it served. Answers whether it was admitted: while the ACU changes its rules it is not, and nothing happens. -/
def engineAccess (master : Nat) (k : AccKind) (a len : Nat) (ctx : Option Nat) (s : State) : Bool × State :=
  match portOf a with
  | none => (false, s)
  | some n =>
    if (acuRec s n).wait then (false, s)
    else match acuCheck s n master (masterWorld master) k a len with
    | .admitted _ _ => (true, s)
    | .denied reg =>
      let s1 := collect 544 0 master (recordDenial n master (masterWorld master) reg k a s)
      (false, match ctx with | some c => denyJob c s1 | none => s1)

/-- Bursts of 64 bytes at the addresses of a list, one after another, up to the first that is denied. -/
def engineBursts (master : Nat) (k : AccKind) (l : List Nat) (ctx : Option Nat) (s : State) : Bool × State :=
  l.foldl (fun r a => if r.1 then engineAccess master k a 64 ctx r.2 else r) (true, s)

/-- A write of a master other than a core that serves no job: it waits at an ACU that changes its rules, and a
denied one is dropped (13 R403, R405). -/
def engineWrite (master a : Nat) (data : List Byte) (s : State) : State :=
  if portWaits s a then
    { s with acu := { s.acu with waiting := s.acu.waiting ++ [{ master, addr := a, len := data.length, kind := .write, data }] } }
  else
    let io := engineAccess master .write a data.length none s
    if io.1 then storeMem a data io.2 else io.2

end Sys2Proof.Machine
end

