-- ==== Sys2Proof/Machine/Port.lean ====
section
/-! DEFINITION. A host port: its addresses, the neighbour cache, pauses, and how a frame leaves it (03
R73-R81, R118-R120). -/

namespace Sys2Proof.Machine

/-- Kinds of `OutEv.eth`. -/
def ethLldp : Nat := 0
def ethArpReply : Nat := 1
def ethArpGratuitous : Nat := 2
def ethNaReply : Nat := 3
def ethNaUnsolicited : Nat := 4
def ethArpRequest : Nat := 5
def ethNeighbourSolicit : Nat := 6
def ethEchoReply : Nat := 7
def ethPause : Nat := 8
def ethPauseEnd : Nat := 9
def ethDadProbe : Nat := 10
/-- A datagram of a relayed session (14 R431). -/
def ethRelayed : Nat := 11

def getEth (s : State) (p : Nat) : Eth := tgetD s.eth p {}

def setEth (p : Nat) (e : Eth) (s : State) : State := { s with eth := tput s.eth p e }

/-! ### Options and addresses in use -/

/-- A field of ETH_CFG as latched (03 R118). -/
def Eth.opt (e : Eth) (lo w : Nat) : Nat := fld e.cfg.toNat lo w
def Eth.macsec (e : Eth) : Bool := bitAt e.cfg.toNat 11
def Eth.lldp (e : Eth) : Bool := bitAt e.cfg.toNat 12
def Eth.vlan (e : Eth) : Bool := bitAt e.cfg.toNat 13
def Eth.pfcEn (e : Eth) : Nat := e.opt 16 8
def Eth.pcp (e : Eth) : Nat := e.opt 24 3
def Eth.vid (e : Eth) : Nat := e.opt 28 12
def Eth.udpPort (e : Eth) : Nat := e.opt 40 16

/-- Words of the address table in use (03 R120). -/
def Eth.addrLo (e : Eth) (i : Nat) : Nat := (tgetD e.addr (2 * i) 0).toNat
def Eth.addrHi (e : Eth) (i : Nat) : Nat := (tgetD e.addr (2 * i + 1) 0).toNat
def Eth.mac (e : Eth) : Nat := e.addrLo 0 % 2 ^ 48

/-- IP MTU, held inside its limits (03 R81, R120). -/
def Eth.mtu (e : Eth) : Nat := clampN 1500 9216 (fld (tgetD e.addr 12 1500).toNat 0 14)

/-- The link-local address by modified EUI-64 (03 R77). -/
def Eth.linkLocal (e : Eth) : Nat :=
  0xFE80 * 2 ^ 112 + ((e.mac >>> 24) ^^^ 0x020000) * 2 ^ 40 + 0xFFFE * 2 ^ 24 + e.mac % 2 ^ 24

/-- The IPv4 address, when valid. -/
def Eth.v4 (e : Eth) : List Nat := if bitAt (e.addrLo 1) 63 then [fld (e.addrLo 1) 0 32] else []

/-- The IPv6 addresses: link-local, and global when valid. -/
def Eth.v6 (e : Eth) : List Nat :=
  e.linkLocal :: (if bitAt (e.addrLo 5) 8 then [e.addrHi 3 * 2 ^ 64 + e.addrLo 3] else [])

/-- The addresses in use; a tentative or duplicate IPv6 address is not (03 R78). -/
def Eth.own (e : Eth) : List Nat := e.v4 ++ (if e.dad then [] else e.v6.filter fun a => !e.dupes.contains a)

/-- The partner's addresses on a port: its MAC first. Those that a HANDOVER has listed, else free values (14 R413,
R425; log 21). -/
def peerAddrs (s : State) (p : Nat) : List Nat :=
  tgetD s.pair.peerAddrs p ((List.range 4).map fun i => Config.peerAddr p i)

/-- The addresses that a port holds of its own, its MAC first. -/
def ownAddrs (s : State) (p : Nat) : List Nat := (getEth s p).mac :: (getEth s p).own

/-- The port answers for the address: its own while it holds them, and those it has taken over (03 R79, 14
R425, R428). -/
def answersFor (s : State) (p ip : Nat) : Bool :=
  (s.pair.addrHeld && (getEth s p).own.contains ip) || ((getEth s p).taken && (peerAddrs s p).tail.contains ip)

/-- An IPv6 address; IPv4 addresses are below 2^32. -/
def isV6 (ip : Nat) : Bool := decide (2 ^ 32 ≤ ip)

/-- Two addresses of `w` bits agree in the first `n`. -/
def samePrefix (w n a b : Nat) : Bool := a >>> (w - n) == b >>> (w - n)

/-- The neighbour that a destination is reached through: itself inside the prefix, else the gateway (03
R79). -/
def Eth.nextHop (e : Eth) (ip : Nat) : Option Nat :=
  if isV6 ip then
    if samePrefix 128 10 ip (0xFE80 * 2 ^ 112) then some ip
    else if bitAt (e.addrLo 5) 8 && samePrefix 128 (fld (e.addrLo 5) 0 7) ip (e.addrHi 3 * 2 ^ 64 + e.addrLo 3) then some ip
    else if bitAt (e.addrLo 5) 9 then some (e.addrHi 4 * 2 ^ 64 + e.addrLo 4) else none
  else if bitAt (e.addrLo 1) 63 && samePrefix 32 (fld (e.addrLo 1) 32 6) ip (fld (e.addrLo 1) 0 32) then some ip
  else if bitAt (e.addrLo 2) 63 then some (fld (e.addrLo 2) 0 32) else none

/-- The largest Tolyr frame of a port towards an address (03 R81). -/
def Eth.maxFrame (e : Eth) (ip : Nat) : Nat := min 9000 (e.mtu - (if isV6 ip then 48 else 28))

/-! ### Tolyr frames as bytes (03 R86, R89, R110) -/

/-- TYPE of a frame that the device sends. -/
def tolType : TolBody → Nat
  | .result _ _ _ _ _ => 0x11
  | .head _ _ _ => 0x12
  | .ack _ _ _ _ => 0x20
  | .keyUpdate _ _ => 0x03
  | .ping _ _ => 0x21
  | .close _ _ => 0x22
  | .pairMove _ _ _ _ _ _ => 0x30

/-- The body of a frame; a reliable one begins with its DSEQ. -/
def tolBody (dseq : W32) : TolBody → List Byte
  | .result q e off total f =>
    leBytes 4 dseq.toNat ++ leBytes 2 q ++ [0, 0] ++ leBytes 4 e.toNat ++ leBytes 4 off ++ leBytes 4 total ++ f
  | .head q h p => leBytes 4 dseq.toNat ++ leBytes 2 q ++ [0, 0] ++ leBytes 4 h.toNat ++ leBytes 4 p.toNat
  | .ack c w d r =>
    leBytes 4 c.toNat ++ leBytes 2 w ++ leBytes 1 r.length ++ [0] ++ leBytes 2 d ++ [0, 0]
      ++ (r.map fun x => leBytes 4 x.1.toNat ++ leBytes 4 x.2.toNat).flatten
  | .keyUpdate e resp => leBytes 4 dseq.toNat ++ leBytes 4 e.toNat ++ leBytes 1 (b2n resp) ++ List.replicate 7 0
  | .ping reply id => leBytes 8 id.toNat ++ leBytes 1 (b2n reply) ++ List.replicate 7 0
  | .close r st => leBytes 1 r ++ [0] ++ leBytes 2 st ++ List.replicate 4 0
  | .pairMove m k a b tx rx =>
    leBytes 4 m.toNat ++ leBytes 1 k ++ [0, 0, 0] ++ leBytes 8 a.toNat ++ leBytes 8 b.toNat ++ leBytes 4 tx.toNat
      ++ leBytes 4 rx.toNat

/-- The 16-byte header of a frame. -/
def tolHeader (type epoch sid seq bodyLen : Nat) : List Byte :=
  leBytes 1 1 ++ leBytes 1 type ++ leBytes 1 epoch ++ [0] ++ leBytes 4 sid ++ leBytes 4 seq ++ leBytes 2 bodyLen ++ [0, 0]

/-- A cleartext frame: SEQ and EPOCH are 0. -/
def clearFrame (type sid : Nat) (body : List Byte) : List Byte := tolHeader type 0 sid 0 body.length ++ body

/-- A fragment of a handshake message: FRAG_OFFSET, MSG_LEN, bytes. -/
def fragBody (off total : Nat) (b : List Byte) : List Byte := leBytes 4 off ++ leBytes 4 total ++ b

/-- Bytes of a record: header, body and tag. -/
def tolLen (b : TolBody) : Nat := 32 + (tolBody 0 b).length

/-! ### MACsec (03 R75, R76) -/

/-- The additional data of a secured frame (IEEE 802.1AE): destination and source address, then the SecTAG: its
EtherType, the TCI with SC, E and C set and the association number, the short length, the lower half of the packet
number, and the SCI. -/
def secAad (macs : Nat × Nat) (an pn sci len : Nat) : List Byte :=
  beBytes 6 macs.1 ++ beBytes 6 macs.2 ++ [0x88, 0xE5] ++ leBytes 1 (0x2C + an % 4)
    ++ leBytes 1 (if len < 48 then len else 0) ++ beBytes 4 pn ++ beBytes 8 sci

/-- The IV of GCM-AES-XPN-256: the salt XORed with SSCI and packet number. -/
def Sa.iv (a : Sa) (pn : Nat) : List Byte := xorBytes a.salt (beBytes 4 a.ssci ++ beBytes 8 pn)

/-- The ICV that an SA gives to the bytes behind the SecTAG. -/
def Sa.icv (a : Sa) (macs : Nat × Nat) (an pn sci : Nat) (b : List Byte) : List Byte :=
  gcmTag a.sak (a.iv pn) (secAad macs an pn sci b.length) (gcmCrypt a.sak (a.iv pn) b)

/-- The SCI of the port's transmit channel: its MAC address and port identifier 1. -/
def Eth.sci (e : Eth) : Nat := e.mac * 65536 + 1

/-- With MACSEC_EN every frame is secured, so a port without its transmit SA sends none (03 R75, R76). -/
def Eth.canSecure (e : Eth) : Bool := !e.macsec || (tget e.sas e.txAn).isSome

/-- LLDP and PFC frames are not secured. -/
def isPlain : OutEv → Bool
  | .eth _ k _ _ => [ethLldp, ethPause, ethPauseEnd].contains k
  | _ => false

/-! ### Frames that leave -/

/-- What a frame says of its way. -/
def netOf : OutEv → Net
  | .tolyr _ _ _ _ _ n | .accept _ _ _ _ _ n | .clearClose _ _ _ _ n | .eth _ _ _ n => n
  | _ => {}

def withNet (n : Net) : OutEv → OutEv
  | .tolyr i e q d b _ => .tolyr i e q d b n
  | .accept p sid off total f _ => .accept p sid off total f n
  | .clearClose p t r st _ => .clearClose p t r st n
  | .eth p k a _ => .eth p k a n
  | f => f

/-- The priority that a frame travels on: TOLYR_PCP for Tolyr, 0 for the others (03 R73). -/
def framePrio (e : Eth) : OutEv → Nat
  | .eth _ k _ _ => if k = ethRelayed then e.pcp else 0
  | _ => e.pcp

/-- Tolyr bytes of what leaves. -/
def frameLen : OutEv → Nat
  | .tolyr _ _ _ _ b _ => tolLen b
  | .accept _ _ _ _ f _ => 24 + f.length
  | .clearClose _ _ _ _ _ => 24
  | .eth _ k a _ => if k = ethRelayed then a.length else 0
  | _ => 0

/-- Destination and source MAC addresses of a frame: the neighbour's where it is resolved, else broadcast; the
partner's MAC for an address taken over (14 R425), and for an announcement the MAC that it names (log 85). -/
def frameMacs (s : State) (p : Nat) (f : OutEv) : Nat × Nat :=
  let e := getEth s p
  let n := netOf f
  let dst := ((e.nextHop (n.dest / 65536)).bind fun h => (tget e.neigh h).filter (·.resolved)).map (·.mac)
  let src := if e.taken && (peerAddrs s p).tail.contains n.src then (peerAddrs s p).headD 0 else e.mac
  match f with
  | .eth _ k a _ => (dst.getD 0xFFFFFFFFFFFF, if k = ethArpGratuitous ∨ k = ethNaUnsolicited then leAt (a.take 6).reverse 0 6 else src)
  | _ => (dst.getD 0xFFFFFFFFFFFF, src)

/-- The bytes of a frame before its payload: VLAN tag, EtherType and headers. -/
def frameHead (e : Eth) (f : OutEv) : List Byte :=
  let n := netOf f
  let kind := match f with
    | .eth _ k _ _ => if k = ethRelayed then 0 else if k = ethEchoReply then 1 else 2 + k
    | _ => 0
  (if e.vlan then [0x81, 0] ++ beBytes 2 (framePrio e f * 8192 + e.vid) else [])
    ++ Config.packetHead kind n.src n.dest e.udpPort n.bytes.length

/-- A frame with its addresses, the VLAN tag of the port, and secured under the transmit SA with the next packet
number. -/
def dressed (p : Nat) (f : OutEv) (s : State) : OutEv × State :=
  let e := getEth s p
  let m := frameMacs s p f
  let n := { netOf f with macs := m, tag := if e.vlan then some (e.vid, framePrio e f) else none }
  match if e.macsec && !isPlain f then tget e.sas e.txAn else none with
  | some a =>
    let b := frameHead e f ++ n.bytes
    let t : SecTag := { an := e.txAn, pn := a.pn, sci := e.sci, icv := a.icv m e.txAn a.pn e.sci b }
    (withNet { n with sec := some t, bytes := gcmCrypt a.sak (a.iv a.pn) b } f,
     setEth p { e with sas := tput e.sas e.txAn { a with pn := a.pn + 1 } } s)
  | none => (withNet n f, s)

/-- First address of the frame buffers of a host or rope port: 64 MiB each (19 R556; DESIGN CHOICE, log 118). -/
def frameBuffer (p : Nat) : Nat := 0x100A0000000 + p * 0x4000000

/-- The access of port `p` to its frame buffers for a frame of `len` bytes, in bursts of 64 bytes (13 R404). While the
port's ACU changes its rules the frame stays in the port's own FIFO and is let through; of a frame longer than 16,384
bytes, which no MTU admits, the first 16,384 are stored (DESIGN CHOICE, log 118). -/
def bufferAccess (p len : Nat) (k : AccKind) (s : State) : Bool × State :=
  if portWaits s (frameBuffer p) then (true, s)
  else engineBursts (0x18 + p) k ((List.range (ceilDiv (min len 16384) 64)).map fun i => frameBuffer p + 64 * i) none s

/-- One frame leaves a port from its buffers and is counted (03 R122, 13 R404, 16 R488). -/
def leave (p : Nat) (f : OutEv) (s : State) : State :=
  let io := bufferAccess p (frameLen f) .read s
  if !io.1 then io.2 else
  let r := dressed p f s
  evcAdd (0x4C + p) (frameLen f) (evcAdd (0x44 + p) 1 (bump (4 + p) 1 1 (emit r.1 r.2)))

/-- A priority is paused by the peer (03 R74). -/
def Eth.isPaused (e : Eth) (prio : Nat) : Bool := e.vlan && bitAt e.pfcEn prio && e.paused.getLsbD prio

/-- A frame leaves, or waits for the end of a pause of its priority. -/
def pastPause (p : Nat) (f : OutEv) (s : State) : State :=
  let e := getEth s p
  if !(e.canSecure || isPlain f) then s
  else if e.isPaused (framePrio e f) then setEth p { e with held := e.held ++ [f] } s else leave p f s

/-- A frame of an address or control protocol, on a port that is up. A pause frame is never held. -/
def ethFrame (p kind : Nat) (arg : List Byte) (s : State) : State :=
  let src := if kind = ethArpReply ∨ kind = ethNaReply then leNat arg.reverse else 0
  let f : OutEv := .eth p kind arg { src, bytes := arg }
  if !(getEth s p).up then s
  else if kind = ethPause ∨ kind = ethPauseEnd then leave p f s else pastPause p f s

/-- The solicitation of a neighbour. -/
def solicit (p hop : Nat) (s : State) : State :=
  ethFrame p (if isV6 hop then ethNeighbourSolicit else ethArpRequest) (leBytes 16 hop) s

/-- A Tolyr frame towards its destination, from an address that the port answers for: it waits for the resolution
of its neighbour, 64 frames at most (03 R78, R79). Nothing leaves a port whose link is down (03 R117). A full
neighbour cache acts as an unresolved neighbour with no room (DESIGN CHOICE, log 22). -/
def sendFrame (p : Nat) (loc : Option Nat) (f0 : OutEv) (s : State) : State :=
  let e := getEth s p
  let f := withNet { netOf f0 with src := loc.getD (netOf f0).src } f0
  match if e.up && loc.all (answersFor s p) then e.nextHop ((netOf f).dest / 65536) else none with
  | none => s
  | some hop =>
    match tget e.neigh hop with
    | some n =>
      if n.resolved then pastPause p f s
      else if n.waiting.length < 64 then setEth p { e with neigh := tput e.neigh hop { n with waiting := n.waiting ++ [f] } } s
      else bump (4 + p) 10 1 s
    | none =>
      if e.neigh.length < 1024 then
        let n : Neigh := { tries := 1, stamp := s.sched.pitch, waiting := [f] }
        solicit p hop (setEth p { e with neigh := tput e.neigh hop n } s)
      else bump (4 + p) 10 1 s

/-- A neighbour is resolved or confirmed: the frames that waited for it leave. -/
def resolved (p hop mac : Nat) (s : State) : State :=
  let e := getEth s p
  match tget e.neigh hop with
  | none => s
  | some n =>
    let n1 : Neigh := { mac, resolved := true, stamp := s.sched.pitch }
    n.waiting.foldl (fun t f => pastPause p f t) (setEth p { e with neigh := tput e.neigh hop n1 } s)

/-- A frame to a host: out of the port, or over the rope link where the device's addresses are moved (14 R431). -/
def toHost (p loc : Nat) (f : OutEv) (s : State) : State :=
  if s.sys.handedOver then ropeSend 2 (.relay p (netOf f).dest (netOf f).bytes) s else sendFrame p (some loc) f s

/-! ### Frames that arrive (03 R73, R75, R121, R122) -/

/-- A received frame is counted (03 R122, 16 R488). -/
def countRx (p len : Nat) (s : State) : State :=
  evcAdd (0x48 + p) len (evcAdd (0x40 + p) 1 (bump (4 + p) 0 1 s))

/-- The link's own counters: FEC codewords, and a frame with a bad FCS, which goes no further and counts as no
received frame (DESIGN CHOICE, log 82). -/
def linkCounts (p : Nat) (h : LinkHdr) (s : State) : State :=
  bump (4 + p) 2 (b2n (!h.fcsOk)) (bump (4 + p) 4 h.fecLost (bump (4 + p) 3 h.fecFixed s))

/-- A packet number at or above the lowest acceptable one; without REPLAY every number is (03 R121). -/
def replayOk (s : State) (p : Nat) (a : Sa) (pn : Nat) : Bool :=
  let ctl := rw s (0x40028 + p * 0x10000)
  !bitAt ctl 2 || decide (a.pn ≤ pn + fld ctl 16 32)

/-- The frame's tag: VID of the port or 0 with VLAN_EN, none without (03 R73). -/
def vlanOk (e : Eth) (h : LinkHdr) : Bool :=
  if e.vlan then h.vid == some e.vid || h.vid == some 0 else h.vid == none

/-- The VLAN check of a frame that MACsec has let through. -/
def pastVlan (p : Nat) (h : LinkHdr) (s : State) : Bool × State :=
  if vlanOk (getEth s p) h then (true, s) else (false, bump (4 + p) 5 1 s)

/-- A received frame at the MACsec processor: without MACsec only unprotected ones pass, with it only those of a known
SA, in their window, whose ICV verifies (03 R75, R76). -/
def securedIn (p : Nat) (h : LinkHdr) (payload : List Byte) (s1 : State) : Bool × State :=
  let e := getEth s1 p
  match h.sec with
  | none => if e.macsec then (false, s1) else pastVlan p h s1
  | some t =>
    match if e.macsec then tget e.sas (4 + t.an % 4) else none with
    | none => (false, s1)
    | some a =>
      if !replayOk s1 p a t.pn then (false, s1)
      else if a.icv h.macs t.an t.pn t.sci (h.head ++ payload) ≠ t.icv then (false, bump (4 + p) 6 1 s1)
      else
        pastVlan p h (setEth p { getEth s1 p with sas := tput e.sas (4 + t.an % 4) { a with pn := max a.pn (t.pn + 1) } } s1)

/-- A frame has reached a port: it is counted, stored in the port's buffers, opened under the receive SA of its association number, and passes
the VLAN check. Answers whether it goes on. -/
def receive (p len : Nat) (h : LinkHdr) (payload : List Byte) (s : State) : Bool × State :=
  let e := getEth s p
  let s0 := linkCounts p h s
  if !e.up then (false, s)
  else if !h.fcsOk then (false, s0)
  else
    let s1 := countRx p len s0
    let io := bufferAccess p len .write s1
    if !io.1 then (false, io.2) else
    securedIn p h payload s1

end Sys2Proof.Machine
end

