-- ==== Sys2Proof/Machine/Link.lean ====
section
/-! DEFINITION. The Tolyr transport as every family uses it: records, reliable frames under the
host's window, RESULT payloads, acknowledgements and the end of a session (03 R99-R117). -/

namespace Sys2Proof.Machine

/-! ### Epochs (03 R98-R104) -/

/-- The secret of the epoch after one. -/
def nextPrk (prk : List Byte) : List Byte := hkdf384Expand prk (ascii "Tolyr-1 next") 48

/-- The keys of an epoch: k_h2d, iv_h2d, k_d2h and iv_d2h, one after the other. -/
def epochKeys (prk : List Byte) : List Byte :=
  hkdf384Expand prk (ascii "Tolyr-1 h2d key") 32 ++ hkdf384Expand prk (ascii "Tolyr-1 h2d iv") 12
    ++ hkdf384Expand prk (ascii "Tolyr-1 d2h key") 32 ++ hkdf384Expand prk (ascii "Tolyr-1 d2h iv") 12

/-- Keys of an epoch that is held or comes next. -/
def keysOf (x : Sess) (e : W32) : List Byte :=
  ((x.keys.find? fun k => k.1 == e).map fun k => k.2).getD (epochKeys (nextPrk x.prk))

/-- The GCM IV of a frame: bytes 0-3 of the direction IV are XORed with SEQ (03 R101). -/
def recordIv (iv : List Byte) (seq : Nat) : List Byte := xorBytes (iv.take 4) (leBytes 4 seq) ++ iv.drop 4

/-- The newest epoch whose secret is held: the sending or the receiving one. -/
def Sess.top (x : Sess) : W32 := if x.rxEpoch = x.txEpoch + 1 then x.rxEpoch else x.txEpoch

/-- The secret of epoch top + 1 replaces that of the newest epoch. -/
def Sess.raise (x : Sess) : Sess :=
  let p := nextPrk x.prk
  { x with prk := p, keys := x.keys ++ [(x.top + 1, epochKeys p)] }

/-- TOL_CFG; a timer keeps the value that it starts with (03 R123). -/
def tolCfg (s : State) : Nat := rw s 0x30000

/-- The keys of an epoch are still needed: it sends, receives or is the newest, or its 1 s after a switch runs. -/
def Sess.needs (x : Sess) (e : W32) : Bool :=
  e == x.rxEpoch || e == x.txEpoch || e == x.top || (x.graceFrom.isSome && e == x.rxEpoch - 1) || x.older.any fun g => g.1 == e

/-- The keys of every other epoch are erased (03 R104). -/
def Sess.tidy (x : Sess) : Sess := { x with keys := x.keys.filter fun k => x.needs k.1 }

/-- Sending moves to the next epoch, at SEQ 0. -/
def Sess.switchTx (x : Sess) (pitch cfg : Nat) : Sess :=
  let y := if x.txEpoch = x.top then x.raise else x
  Sess.tidy { y with txEpoch := x.txEpoch + 1, txSeq := 0, epochFrom := pitch, updCfg := cfg }

/-- Receiving moves to the next epoch; the epoch before is accepted for 1 s more, and one before that for the rest of
its own. -/
def Sess.switchRx (x : Sess) (pitch : Nat) : Sess :=
  let y := if x.rxEpoch = x.top then x.raise else x
  let kept := match x.graceFrom with
    | some p => x.older ++ [(x.rxEpoch - 1, p, x.seenPrev)]
    | none => x.older
  { y with rxEpoch := x.rxEpoch + 1, rxSeq := 0, seenPrev := x.seen, seen := [], graceFrom := some pitch, older := kept }

/-! ### Records and reliable frames -/

/-- The next record of a session as bytes: header, ciphertext and tag under the device's direction key, the
header being the additional data (03 R86, R88). -/
def recordBytes (x : Sess) (dseq : W32) (b : TolBody) : List Byte :=
  let body := tolBody dseq b
  let h := tolHeader (tolType b) x.txEpoch.toNat x.sid x.txSeq body.length
  let k := keysOf x x.txEpoch
  h ++ gcmSeal (sliceB k 44 32) (recordIv (sliceB k 76 12) x.txSeq) h body

/-- SEQ values up to 0xFFFF_FFFE may be used, and 0xFFFF_FFFF by CLOSE alone (03 R105). -/
def seqFits (x : Sess) (b : TolBody) : Bool :=
  decide (x.txSeq ≤ 0xFFFFFFFE) || (tolType b == 0x22 && decide (x.txSeq = 0xFFFFFFFF))

/-- One protected record leaves on a session, to where the host was heard last: its SEQ rises (03 R85, R99). -/
def sendRecord (i : Nat) (dseq : Option W32) (b : TolBody) (s : State) : State :=
  match (getSess s i).filter fun x => seqFits x b with
  | none => s
  | some x =>
    let net : Net := { dest := x.dest, bytes := recordBytes x (dseq.getD 0) b }
    toHost x.port x.loc (.tolyr i x.txEpoch x.txSeq dseq b net)
      (evcAdd 0x51 1 (setSess i { x with txSeq := x.txSeq + 1 } s))

/-- The next reliable frame fits the host's window (03 R107). -/
def windowOpen (x : Sess) : Bool := decide (dist x.txDseq x.cum < x.window)

/-- Sends a reliable frame now. A KEY_UPDATE is the last frame of its epoch, a response the first of the new
one (03 R103). -/
def sendNow (i : Nat) (x : Sess) (b : TolBody) (stage held : Nat) (s : State) : State :=
  let f : TxFrame := { dseq := x.txDseq, body := b, sentAt := s.sched.pitch, cfg := tolCfg s, stage, held }
  let y := { x with txDseq := x.txDseq + 1, unacked := x.unacked ++ [f] }
  match b with
  | .keyUpdate _ false =>
    let s1 := sendRecord i (some x.txDseq) b (setSess i y s)
    match getSess s1 i with
    | some z => setSess i (z.switchTx s.sched.pitch (tolCfg s)) s1
    | none => s1
  | .keyUpdate _ true => sendRecord i (some x.txDseq) b (setSess i (y.switchTx s.sched.pitch (tolCfg s)) s)
  | _ => sendRecord i (some x.txDseq) b (setSess i y s)

/-- Sends a reliable frame in DSEQ order, or keeps it until the window opens. -/
def tolSend (i : Nat) (b : TolBody) (stage held : Nat) (s : State) : State :=
  match getSess s i with
  | none => s
  | some x =>
    if x.st ≠ 2 then s
    else if x.blocked.isEmpty && windowOpen x then sendNow i x b stage held s
    else setSess i { x with blocked := x.blocked ++ [(b, stage, held)] } s

/-- Sends the frames that waited for the window, in order, while it is open. -/
def drainBlocked (i : Nat) : Nat → State → State
  | 0, s => s
  | fuel + 1, s =>
    match getSess s i with
    | none => s
    | some x =>
      match x.blocked with
      | [] => s
      | (b, st, he) :: rest =>
        if windowOpen x then drainBlocked i fuel (sendNow i { x with blocked := rest } b st he s) else s

/-- The result payload of 05 R168. -/
def payload (tag : Word) (r : Res) : List Byte :=
  leBytes 8 tag.toNat ++ leBytes 2 r.status ++ [0, 0] ++ leBytes 4 r.out.length ++ r.out

/-- The fragments of a payload: offset and bytes, each at most `n` bytes (03 R110, R111). -/
def fragments (n : Nat) : Nat → Nat → List Byte → List (Nat × List Byte)
  | 0, _, _ => []
  | fuel + 1, off, b =>
    if b.length ≤ n then [(off, b)] else (off, b.take n) :: fragments n fuel (off + n) (b.drop n)

/-- Sends one RESULT payload; its staging is freed with the acknowledgement of its last frame. -/
def sendResult (i qnum : Nat) (entry : W32) (b : List Byte) (stage held : Nat) (s : State) : State :=
  match getSess s i with
  | none => s
  | some x =>
    let n := min 8948 (x.maxFrame - 52)
    let fs := fragments n (b.length + 1) 0 b
    fs.foldl (fun t f =>
      let last := decide (f.1 + f.2.length = b.length)
      tolSend i (.result qnum entry f.1 b.length f.2) (if last then stage else 0) (if last then held else 0) t) s

/-- The runs of held frames above CUM, at most 32 (03 R108, R110). -/
def heldRanges (x : Sess) : List (W32 × W32) :=
  let l := (x.held.map fun f => f.dseq).mergeSort fun a b => decide (dist a x.rxDseq ≤ dist b x.rxDseq)
  let runs := l.foldl (fun (r : List (W32 × W32)) d =>
    match r with
    | (a, e) :: t => if d = e then (a, e + 1) :: t else (d, d + 1) :: (a, e) :: t
    | [] => [(d, d + 1)]) []
  runs.reverse.take 32

/-- Microseconds since the newest frame of the session was received (03 R110). -/
def ackDelay (s : State) (x : Sess) : Nat := min 65535 (2 * (s.sched.pitch - x.lastRx))

/-- An ACK of the host's frames up to what is acknowledgeable, with the device's window of 512 (03 R107,
R108). -/
def sendAck (i : Nat) (s : State) : State :=
  match getSess s i with
  | none => s
  | some x => sendRecord i none (.ack x.ackCum 512 (ackDelay s x) (heldRanges x)) s

/-- PAIR_MOVE of a session that this device has taken (03 R110, R113). -/
def sendPairMove (i kind : Nat) (s : State) : State :=
  match getSess s i with
  | none => s
  | some x =>
    sendRecord i none (.pairMove x.moveId kind (BitVec.ofNat 64 (inForce s 0x1F0008)) s.life.devId x.cum x.rxDseq) s

/-- What the partner learns of a session (14 R418). -/
def sessPos (i ev : Nat) (x : Sess) : SessPos :=
  { slot := i, event := ev, sid := x.sid, port := x.port, part := x.part, role := x.role
    deviceLevel := x.deviceLevel, epoch := x.top, txNext := x.cum, rxNext := x.rxDseq, maxFrame := x.maxFrame
    dest := x.dest, loc := x.loc, window := x.window, prk := x.prk }

/-- RHEAD of the queues of a session (14 R419). -/
def rheadsOf (s : State) (i : Nat) : List (Nat × W32) :=
  (s.qm.queues.filter fun p => !p.2.isInternal && p.2.session == i).map fun p => (p.2.qnum, p.2.rhead)

/-- Applied PIDX of the queues of a session. -/
def pidxsOf (s : State) (i : Nat) : List (Nat × W32) :=
  (s.qm.queues.filter fun p => !p.2.isInternal && p.2.session == i).map fun p => (p.2.qnum, p.2.applied)

/-- Mirrors a session event. -/
def mirrorSession (i ev : Nat) (s : State) : State :=
  match getSess s i with
  | none => s
  | some x => if mirroring s then ropeSend 1 (.sessionPos { sessPos i ev x with rheads := rheadsOf s i, pidxs := pidxsOf s i }) s else s

/-- What an update of the route card loses when its session ends (17 R520). -/
def abandonUpdate (i : Nat) (s : State) : State :=
  if (s.nvm.updSt = 1 ∨ s.nvm.updSt = 2) ∧ s.nvm.updSession = i then
    { s with nvm := { s.nvm with updSt := 4, updData := [] } }
  else s

/-- Counters of a session's end by reason (03 R125, 04 R152). -/
def countEnd (reason : Nat) (s : State) : State :=
  let s1 := evcAdd 0x56 1 s
  if reason = 5 ∨ reason = 6 then bump 3 7 1 s1
  else if reason = 4 then bump 2 3 1 s1
  else s1

/-- The session stops: frames it holds are dropped, its queues are to be destroyed at the next
boundary and their results discarded (03 R116, 04 R145). -/
def stopSession (i : Nat) (x : Sess) (s : State) : State :=
  let y := { x with
    st := 3, unacked := [], blocked := [], held := [], ackGate := [], update := none
    updateGate := none, pairMove := none
    prk := if x.closeGate.isSome then x.prk else []
    keys := if x.closeGate.isSome then x.keys else [] }
  let tear : Queue → Queue := fun q =>
    if q.session = i ∧ q.isInternal = false then
      { q with
        tearAsk := if q.st = .tearing then 0 else 2, discard := true, pidxGate := []
        st := if q.st = .resetting then .tearing else q.st }
    else q
  let drop : Job → Job := fun j =>
    match getQueue s j.slot with
    | some q => if q.session = i ∧ q.isInternal = false then { j with discard := true } else j
    | none => j
  { s with
    tol := { s.tol with sess := tput s.tol.sess i y }
    qm := { s.qm with queues := tmap s.qm.queues fun _ q => tear q }
    sched := { s.sched with jobs := tmap s.sched.jobs fun _ j => drop j } }

/-- Sends CLOSE once: at once, or on a paired device after the partner has the mirror of the end. -/
def sendClose (i reason status : Nat) (s : State) : State :=
  if paired s then
    match getSess s i with
    | some x => setSess i { x with closeGate := some (gate1 s, reason, status) } s
    | none => s
  else sendRecord i none (.close reason status) s

/-- The device ends a session with a reason while it keeps running (03 R116). -/
def endSession (i reason status : Nat) (s : State) : State :=
  match getSess s i with
  | none => s
  | some x =>
    if x.st = 3 then s
    else
      let s1 := sendClose i reason status (mirrorSession i 1 s)
      match getSess s1 i with
      | some y => countEnd reason (abandonUpdate i (stopSession i y s1))
      | none => s1

/-- Ends every session for which `p` holds. -/
def endSessions (p : Sess → Bool) (reason status : Nat) (s : State) : State :=
  s.tol.sess.foldl (fun t e => if p e.2 then endSession e.1 reason status t else t) s

/-! ### What waited for the partner (01 R30, 03 R103, R108, R116, 14 R418) -/

/-- A CLOSE, a KEY_UPDATE and an ACK of one session whose mirrors are acknowledged. -/
def settleClose (i : Nat) (x : Sess) (s : State) : State :=
  match x.closeGate with
  | some (n, reason, st) =>
    if acked s 1 n then
      let s1 := sendRecord i none (.close reason st) s
      match getSess s1 i with
      | some y => setSess i { y with closeGate := none, prk := [], keys := [] } s1
      | none => s1
    else s
  | none => s

/-- A key update is complete (03 R103, R125). -/
def countUpdate (s : State) : State := evcAdd 0x54 1 (bump 3 5 1 s)

def settleUpdate (i : Nat) (x : Sess) (s : State) : State :=
  match x.updateGate with
  | some (n, response) =>
    if acked s 1 n then
      let s1 := tolSend i (.keyUpdate (x.txEpoch + 1) response) 0 0 (setSess i { x with updateGate := none } s)
      if response then countUpdate s1 else s1
    else s
  | none => s

def settleAck (i : Nat) (x : Sess) (s : State) : State :=
  match (x.ackGate.filter fun g => acked s 2 g.1).getLast? with
  | some g => sendAck i (setSess i { x with ackCum := g.2, ackGate := x.ackGate.filter fun g => !acked s 2 g.1 } s)
  | none => s

/-- Applies `f` to a session that is there. -/
def onSess (i : Nat) (f : Nat → Sess → State → State) (s : State) : State :=
  match getSess s i with
  | some x => f i x s
  | none => s

def settleSess (i : Nat) (s : State) : State :=
  onSess i settleAck (onSess i settleUpdate (onSess i settleClose s))

/-- A PIDX whose units are mirrored becomes visible. -/
def settlePidx (slot : Nat) (s : State) : State :=
  match getQueue s slot with
  | none => s
  | some q =>
    match (q.pidxGate.filter fun g => acked s 2 g.1).getLast? with
    | some g => setQueue slot { q with visible := g.2, pidxGate := q.pidxGate.filter fun g => !acked s 2 g.1 } s
    | none => s

/-- The frames of an ACCEPT, each with one fragment and the HANDSHAKE_TAG as SESSION_ID (03 R86, R89). -/
def acceptFrames (p sid tag dest maxFrame : Nat) (m : List Byte) : List OutEv :=
  (fragments (maxFrame - 24) (m.length + 1) 0 m).map fun f =>
    .accept p sid f.1 m.length f.2 { dest, bytes := clearFrame 0x02 tag (fragBody f.1 m.length f.2) }

/-- An ACCEPT leaves. -/
def sendAccept (p : Nat) (h : Handshake) (s : State) : State :=
  (acceptFrames p h.sid h.tag h.src h.maxFrame h.accept).foldl (fun t f => toHost p h.loc f t) s

/-- ACCEPTs whose session mirror is acknowledged. -/
def settleAccepts (p : Nat) (s : State) : State :=
  let e := getEth s p
  let due (h : Handshake) : Bool := !h.waiting && (h.gate.any fun n => acked s 1 n)
  let s1 := setEth p { e with hs := e.hs.map fun h => if due h then { h with gate := none } else h } s
  (e.hs.filter due).foldl (fun t h => sendAccept p h t) s1

/-- Everything that waited for the partner's acknowledgement and has it. -/
def settleAll (s : State) : State :=
  let s1 := s.tol.sess.foldl (fun t p => settleSess p.1 t) s
  let s2 := s1.qm.queues.foldl (fun t p => settlePidx p.1 t) s1
  s2.eth.foldl (fun t p => settleAccepts p.1 t) s2

end Sys2Proof.Machine
end

