-- ==== Sys2Proof/Machine/VaultOps.lean ====
section
/-! DEFINITION. The vault's shared operations: the key hierarchy, hot copies, creation and destruction
of objects, key packs and the root store (11 R309-R336). -/

namespace Sys2Proof.Machine

/-! ### The key hierarchy (11 R327) -/

/-- KMAC256 with `n` output bytes (SP 800-185). -/
def kmac256 (key x : List Byte) (n : Nat) (custom : String) : List Byte :=
  crypto .kmac [algKmac256, n] [key, x, ascii custom] n

/-- The published Test Root Key. -/
def trkValue : List Byte := crypto .hash [algSha3x256] [ascii "Yalzia TRK YLZ-96 family"] 32

/-- The device root for a life-cycle code and a debug byte. -/
def drkFor (s : State) (lcs dbg : Nat) : List Byte :=
  kmac256 (Config.puf ++ padTo 32 s.life.otpSeed) [BitVec.ofNat 8 lcs, BitVec.ofNat 8 dbg] 32 "Yalzia DRK"

/-- The root in force. -/
def rif (s : State) : List Byte := if s.vault.trk then trkValue else drkFor s s.vault.lcs s.vault.dbg

/-- root_n: the store's value, or trk while it is in force; an absent root is zeros. -/
def rootVal (s : State) (n : Nat) : List Byte :=
  if s.vault.trk then trkValue else padTo 32 (tgetD s.vault.roots n [])

/-- seed_p. -/
def seedVal (s : State) (p : Nat) : List Byte :=
  if s.vault.trk then trkValue else padTo 16 (tgetD s.vault.seeds p [])

/-- pk_p, the pack key of a partition. -/
def packKey (s : State) (p : Nat) : List Byte :=
  kmac256 (rootVal s 0 ++ seedVal s p) [BitVec.ofNat 8 p] 32 "Yalzia pack"

/-- bk, which seals root packs. -/
def backupKey (s : State) : List Byte := kmac256 (rif s) [] 32 "Yalzia backup"

/-- store_kek. -/
def storeKek (s : State) : List Byte := kmac256 (rif s) (rootVal s 0) 32 "Yalzia store"

/-- tr_p, the tenant root of a partition. -/
def tenantRoot (s : State) (p : Nat) : List Byte :=
  kmac256 (rif s) (BitVec.ofNat 8 p :: seedVal s p) 32 "Yalzia tenant"

/-- ck_p, the object key of a partition. -/
def objectKey (s : State) (p : Nat) : List Byte := kmac256 (storeKek s) (tenantRoot s p) 32 "Yalzia object"

/-- domain_id. -/
def domainId (s : State) : List Byte := (kmac256 (rootVal s 0) [] 32 "Yalzia domain").take 8

/-- The seed of the ML-DSA-65 identity key and the source of the ECDSA P-384 identity scalar, under a
root. -/
def idMldsa (root : List Byte) : List Byte := kmac256 root (ascii "ML-DSA-65") 32 "Yalzia identity"
def idEcdsa (root : List Byte) : List Byte := kmac256 root (ascii "P-384") 56 "Yalzia identity"

/-- The order n of the base point of P-384 (FIPS 186-5 by SP 800-186). -/
def p384Order : Nat := 0xFFFFFFFFFFFFFFFFFFFFFFFFFFFFFFFFFFFFFFFFFFFFFFFFC7634D81F4372DDF581A0DB248B0A77AECEC196ACCC52973

/-- The ECDSA P-384 identity scalar, (id_ecdsa mod (n − 1)) + 1; the derived bytes are read big-endian (DEDUCED, log 125). -/
def idScalar (root : List Byte) : List Byte := beBytes 48 (beNat (idEcdsa root) % (p384Order - 1) + 1)

/-- The identity public keys under a root: ML-DSA-65 (1,952 bytes), then the P-384 point (97 bytes). -/
def identityKeys (root : List Byte) : List Byte :=
  crypto .publicKey [12, 2] [idMldsa root] 1952 ++ crypto .publicKey [8, 2] [idScalar root] 97

/-! ### What a cold record holds (11 R309, R588) -/

/-- The extension of a stateful private object: NEXT, a reserved word and the traversal state. -/
def objExtension (o : KeyObj) : List Byte :=
  if objExt o = 0 then [] else leBytes 8 o.next ++ leBytes 8 0 ++ padTo (objExt o - 16) o.trav

/-- What a cold record seals. -/
def recordContent (slot : Nat) (o : KeyObj) : List Byte := objHeader slot o ++ o.mat ++ objExtension o

/-! ### Hot copies (11 R311) -/

/-- Hot vault granules of one object. -/
def hotGranules (o : KeyObj) : Nat := 1 + ceilDiv o.mat.length 64

/-- Hot granules of a list of slots. -/
def hotUsed (v : Vault) (l : List Nat) : Nat :=
  (l.map fun n => ((tget v.objs n).map hotGranules).getD 0).foldl (· + ·) 0

/-- Evicts the least recently used copies that are not pinned until the rest fits: the slots left and those that went. -/
def evict (v : Vault) (pins : List Nat) : Nat → List Nat → List Nat → List Nat × List Nat
  | 0, l, k => (l, k)
  | fuel + 1, l, k =>
    if hotUsed v l ≤ 131072 then (l, k)
    else match l.find? fun n => !pins.contains n with
      | some n => evict v pins fuel (l.filter (· != n)) (k ++ [n])
      | none => (l, k)

/-- The copies evicted whose counters have changed since their records were written. -/
def changed (v : Vault) (l : List Nat) : List Nat :=
  l.filter fun n => (tget v.objs n).isSome && !v.due.contains n && (tget v.recs n) != (tget v.objs n)

/-- A slot's copy becomes the most recently used one; copies that give way to it are written back where their counters
have changed. The slots `pins` are being loaded into a unit. -/
def touchHot (pins : List Nat) (slot : Nat) (s : State) : State :=
  let l := s.vault.hot.filter (· != slot) ++ [slot]
  let r := evict s.vault (slot :: pins) l.length l []
  let n := r.2.length
  evcAdd 0x33 n (bump 15 3 n { s with vault := { s.vault with hot := r.1, due := s.vault.due ++ changed s.vault r.2 } })

/-- A copy that is needed is in the hot vault, or a cold miss opens it there (11 R311, R312). -/
def isHot (s : State) (slot : Nat) : Bool := s.vault.hot.contains slot

/-- Opens a cold record into the hot vault. -/
def coldMiss (pins : List Nat) (slot : Nat) (s : State) : State := touchHot pins slot (evcAdd 0x32 1 (bump 15 2 1 s))

/-! ### Salts (11 R324) -/

/-- The salt reserve asks for `k` salts of 4 bytes (10 R298). -/
def refillSalts (k : Nat) (s : State) : State :=
  if k = 0 then s
  else { s with ent := { s.ent with internalQ := s.ent.internalQ ++ List.replicate k (.salts, 4) } }

/-! ### Objects (11 R317-R325) -/

/-- Policy bits that the device sets (11 R320). -/
def polDerived : Nat := 0x100
def polPublic : Nat := 0x200
def polStateful : Nat := 0x400
def polImported : Nat := 0x800

/-- The object with the WCOUNT of the record that its slot has. -/
def keptCount (v : Vault) (slot : Nat) (o : KeyObj) : KeyObj :=
  { o with wcount := (((tget v.objs slot).filter fun q => q.gen == o.gen).map fun q => q.wcount).getD 0 }

/-- The object of a slot changes; its record follows at the next boundary, so that it is written at most once a pitch (21
R582, log 75). -/
def putObj (slot : Nat) (o : KeyObj) (s : State) : State :=
  { s with vault := { s.vault with
    objs := tput s.vault.objs slot (keptCount s.vault slot o), due := s.vault.due.filter (· != slot) ++ [slot] } }

/-- A counter of the key in a slot advances: in its hot copy, whose record is written when the copy is evicted, or where
there is none in the record (11 R311). -/
def countObj (slot : Nat) (o : KeyObj) (s : State) : State :=
  if s.vault.hot.contains slot then
    { s with vault := { s.vault with objs := tput s.vault.objs slot (keptCount s.vault slot o) } }
  else putObj slot o s

/-- Stores a new object in its slot, hot and cold (11 R311, R314). The partner learns of it in the frame that carries the
result of the entry that creates it (07 R223). -/
def storeObj (slot : Nat) (o : KeyObj) (s : State) : State :=
  touchHot [] slot (evcAdd 0x30 1 (bump 15 0 1 (putObj slot o s)))

/-- The key with the traversal state that stands before leaf `n`: the nodes and trees that the standards' traversal
has then (09 R270). -/
def traversed (o : KeyObj) (n : Nat) : KeyObj :=
  { o with travAt := n, trav := crypto .hashSig [0, o.fam, o.param, n] [o.mat] (extLen o.fam o.param - 16) }

/-- A new object with the slot's next generation and a salt of the reserve. -/
def newObj (s : State) (slot part : Nat) (fam cls param policy cap : Nat) (label : Word) (mat salt : List Byte)
    (link : Option Nat) : KeyObj :=
  let o : KeyObj := { gen := tgetD s.vault.gens slot 1, part, cls, fam, mat, param, policy, cap, salt, link, label }
  if 14 ≤ fam ∧ isPublicObj fam cls = false then traversed o 0 else o

/-- One object to create. -/
structure Plan where
  fam : Nat
  cls : Nat
  param : Nat := 0
  policy : Nat := 0
  cap : Nat := 0
  label : Word := 0
  mat : List Byte := []
  /-- Counters carried by a pack (11 R331). -/
  invLead : Nat := 0
  invSecond : Nat := 2 ^ 63
  deriving DecidableEq, Repr

/-- Creates one planned object in a slot. -/
def createIn (slot part : Nat) (p : Plan) (link : Option Nat) (s : State) : State :=
  let o := newObj s slot part p.fam p.cls p.param p.policy p.cap p.label p.mat (s.vault.salts.headD []) link
  let s1 := { s with vault := { s.vault with salts := s.vault.salts.tail } }
  refillSalts 1 (storeObj slot { o with invLead := p.invLead, invSecond := p.invSecond } s1)

/-- Creates the planned objects, one or a linked pair, in the slots reserved at fetch; answers their
handles in the plan's order (07 R219, 11 R325). -/
def createPlanned (slots : List Nat) (part : Nat) (plans : List Plan) (s : State) : State × List Byte :=
  let hs (t : State) (n : Nat) : List Byte :=
    leBytes 8 (((tget t.vault.objs n).map fun o => handleOf n o).getD 0)
  match plans, slots with
  | [a], x :: _ =>
    let s1 := createIn x part a none s
    (s1, hs s1 x)
  | [a, b], x :: y :: _ =>
    let s1 := createIn y part b (some x) (createIn x part a (some y) s)
    (s1, hs s1 x ++ hs s1 y)
  | _, _ => (s, [])

/-- A slot without its object: the GEN of the next one, nothing hot, and no LINK of the other part to it. -/
def emptySlot (slot g : Nat) (s : State) : State :=
  let unlink : KeyObj → KeyObj := fun p => if p.link = some slot then { p with link := none } else p
  let objs := match (tget s.vault.objs slot).bind fun o => o.link with
    | some n => tmod (tdel s.vault.objs slot) n unlink
    | none => tdel s.vault.objs slot
  { s with vault := { freedSlot slot s.vault with objs := objs, gens := tput s.vault.gens slot g } }

/-- Destroys the object in a slot: its copies are zeroed, the generation advances and the slot is
freed; the linked object's LINK clears (11 R325, R334). -/
def destroyObj (slot : Nat) (s : State) : State :=
  let g := min 0xFFFFFF (((tget s.vault.objs slot).map fun o => o.gen).getD 0 + 1)
  let s1 := emptySlot slot g s
  evcAdd 0x31 1 (bump 15 1 1 (mirror (.keyDel slot g) s1))

/-- Changes the object in a slot and mirrors it. -/
def updateObj (slot : Nat) (o : KeyObj) (s : State) : State :=
  mirror (.keyPut slot o) (putObj slot o s)

/-- Captures a lost or failed record in VAULT_LOST and counts it (11 R347). -/
def lostRecord (slot : Nat) (tag : Bool) (s : State) : State :=
  let v := s.vault
  bump 15 9 (b2n (!tag)) { s with vault :=
    if v.lostValid then { v with lostOvf := true }
    else { v with lostSlot := slot, lostValid := true, lostKind := tag } }

/-! ### Packs (11 R330-R333) -/

def packMagic : List Byte := [0x59, 0x4B, 0x50, 0x31]

/-- A sealed pack: 112 bytes of envelope, the ciphertext and the tag. -/
def sealPack (kind : Nat) (key origin salt header mat : List Byte) : List Byte :=
  let aad := packMagic ++ [BitVec.ofNat 8 kind, 0, 0, 0] ++ padTo 8 origin ++ padTo 32 salt ++ padTo 64 header
  let pek := kmac256 key (padTo 32 salt) 32 "Yalzia pack key"
  aad ++ gcmSeal pek (List.replicate 12 0) aad mat

/-- The material inside a sealed pack, when its tag verifies. -/
def openPack (key pack : List Byte) : Option (List Byte) :=
  let aad := pack.take 112
  let pek := kmac256 key (sliceB pack 16 32) 32 "Yalzia pack key"
  gcmOpen pek (List.replicate 12 0) aad (pack.drop 112)

/-- The key pack of an object (11 R330). -/
def keyPack (s : State) (slot : Nat) (o : KeyObj) (salt : List Byte) : List Byte :=
  sealPack 0 (packKey s o.part) (domainId s) salt
    (sliceB (objHeader slot { o with link := none }) 0 56 ++ leBytes 8 0) o.mat

/-- The object described by the header of a pack. -/
def packObj (pack : List Byte) : KeyObj :=
  let h := sliceB pack 48 64
  let hd := leAt h 0 8
  { gen := 1, part := fld hd 56 8, cls := fld hd 52 4, fam := fld hd 48 4, mat := [], param := leAt h 10 2,
    policy := leAt h 12 4, invLead := leAt h 16 8, invSecond := leAt h 24 8, cap := leAt h 32 8,
    label := BitVec.ofNat 64 (leAt h 48 8) }

/-- A pack header that is consistent with 11 R317: family, class and length fit each other. -/
def packHeaderOk (pack : List Byte) : Bool :=
  let o := packObj pack
  let n := leAt pack 56 2
  n + 128 == pack.length && leAt pack 92 4 == 0 && leAt pack 104 8 == 0 && (o.fam != 7 || rsaClass o.param != 0) &&
  (if o.fam < 7 then symMatOk o.fam o.cls n && o.param == 0
   else if isPublicObj o.fam o.cls then n == pubLen o.fam o.param && n != 0
   else (asymClasses o.fam o.cls).isSome && decide (o.fam < 14) && n == privLen o.fam o.param && n != 0)

/-- The checks of 11 R331 in their order, for a pack presented for partition `part` and a class test:
the status, and the material. -/
def openKeyPack (s : State) (part : Nat) (clsOk : KeyObj → Bool) (pack : List Byte) : Nat × List Byte :=
  let o := packObj pack
  if pack.take 4 != packMagic || leAt pack 4 4 != 0 || !packHeaderOk pack then (stBadHandle, [])
  else if sliceB pack 8 8 != domainId s then (stBadHandle, [])
  else if o.part != part then (stPartitionDenied, [])
  else if !clsOk o then (stUsageDenied, [])
  else match openPack (packKey s o.part) pack with
    | some m => (stOk, m)
    | none => (stBadHandle, [])

/-- The entry carries a key pack: KEY_RESTORE_PACK, and MLKEM_DECAPS with PACKED. -/
def carriesPack (h : Header) : Bool := h.opcode == 0x511 || (h.opcode == 0x402 && h.p0 11 1 == 1)

/-- The pack that it carries. -/
def packBytes (h : Header) (input : List Byte) : List Byte :=
  if h.opcode = 0x511 then input.drop (tokLen h)
  else sliceB input (64 * destOf h) (128 + ((mlkemSet (h.p0 0 8)).map fun t => t.2.1).getD 0)

/-- The opening of the pack that an entry carries (09 R264, 11 R331). The policy of a packed dk limits the
shared secret as that of a stored one does (DEDUCED, log 18). -/
def openEntryPack (s : State) (h : Header) (input : List Byte) : Nat × List Byte :=
  let p := packBytes h input
  let kem := h.opcode == 0x402
  let r := openKeyPack s h.part (fun o => !kem || (o.cls == 12 && o.fam == 11)) p
  if r.1 ≠ stOk ∨ kem = false then r
  else if destOf h = 0 ∧ polBit (packObj p) 1 = false then (stUsageDenied, [])
  else if destOf h = 1 ∧ inherits (entryTemplate h input).policy [packObj p] = false then (stBadParam, [])
  else r

/-- The material of a root pack: roots, bindings and seeds, absent values zero (11 R333). -/
def rootMaterial (v : Vault) : List Byte :=
  ((List.range 64).map fun n => padTo 32 (tgetD v.roots n [])).flatten
    ++ ((List.range 64).map fun n => BitVec.ofNat 8 (tgetD v.binds n 0))
    ++ ((List.range 256).map fun p => padTo 16 (tgetD v.seeds p [])).flatten

/-- ROOTMAP and SEEDMAP. -/
def rootHeader (v : Vault) : List Byte :=
  leBytes 8 ((v.roots.map fun p => 2 ^ p.1).foldl (· + ·) 0)
    ++ leBytes 32 ((v.seeds.map fun p => 2 ^ p.1).foldl (· + ·) 0) ++ leBytes 24 0

/-- This device's root pack (11 R333). -/
def rootPack (s : State) (salt : List Byte) : List Byte :=
  sealPack 1 (backupKey s) (leBytes 8 s.life.devId.toNat) salt (rootHeader s.vault) (rootMaterial s.vault)

/-- The root store that a root pack's header and material spell. -/
def rootsOf (pack mat : List Byte) : Tab (List Byte) × Tab Nat × Tab (List Byte) :=
  let rm := leAt pack 48 8
  let sm := leAt pack 56 32
  ((List.range 64).filterMap fun n => if bitAt rm n then some (n, sliceB mat (32 * n) 32) else none,
   (List.range 64).filterMap fun n => if bitAt rm n && n != 0 then some (n, leAt mat (2048 + n) 1) else none,
   (List.range 256).filterMap fun p => if bitAt sm p then some (p, sliceB mat (2112 + 16 * p) 16) else none)

/-- Stores a root store, which ends the unkeyed state (11 R336), and mirrors it. -/
def setRoots (r : Tab (List Byte)) (b : Tab Nat) (sd : Tab (List Byte)) (s : State) : State :=
  let s1 := { s with
    vault := { s.vault with roots := r, binds := b, seeds := sd }
    sys := { s.sys with unkeyed := (tget r 0).isNone } }
  mirror (.roots r b sd) s1

/-! ### The quorum mirror (12 R364) -/

/-- The quorum state that is mirrored: no credential of this device's route card. -/
def quorumView (s : State) : QuorumView :=
  { props := s.quorum.props.map fun p => p.2, parts := s.quorum.parts, creds := s.quorum.creds.filter fun c => !c.card }

/-- What has changed since a view of the quorum state, as the partner gets it: deadlines and token lives as the pitches
left. -/
def quorumChange (old : QuorumView) (s : State) : QuorumMirror :=
  let new := quorumView s
  let left (p : Proposal) : Proposal := { p with expires := p.expires - s.sched.pitch, tokenEnd := p.tokenEnd - s.sched.pitch }
  { props := (new.props.filter fun p => !old.props.contains p).map left
    gone := (old.props.filter fun p => !(new.props.any fun q => q.id == p.id)).map fun p => p.id
    partsOn := new.parts.filter fun p => !old.parts.contains p
    partsOff := old.parts.filter fun p => !new.parts.contains p
    credsOn := new.creds.filter fun c => !old.creds.contains c
    credsOff := old.creds.filter fun c => !new.creds.contains c
    serial := s.quorum.serial }

/-- The partner's view is the present one. -/
def toldQuorum (s : State) : State := { s with pair := { s.pair with told := quorumView s } }

/-- Mirrors what has changed of the quorum state, which raises source 4 (13 R381). -/
def mirrorQuorum (s : State) : State :=
  raise 4 (if quorumView s = s.pair.told then s else toldQuorum (mirror (.quorum (quorumChange s.pair.told s)) s))

/-- Approvals of an officer are struck from every OPEN proposal (12 R368). -/
def strike (who : Nat × Nat) (p : Proposal) : Proposal :=
  if p.state = 1 then { p with approvers := p.approvers.filter (· != who) } else p

/-- Another list of credentials; an officer who is no longer among them is struck from every OPEN proposal. -/
def setCreds (l : List Cred) (s : State) : State :=
  let off := (s.quorum.creds.filter fun c => decide (c.role < 4) && !l.contains c).map fun c => (c.part, c.index)
  { s with quorum := { s.quorum with
    creds := l, props := tmap s.quorum.props fun _ p => off.foldl (fun q w => strike w q) p } }

/-- The registry is lost with the cold store: the partitions and the run-time credentials (12 R352). -/
def lostRegistry (s : State) : State :=
  setCreds (s.quorum.creds.filter fun c => c.card) { s with quorum := { s.quorum with parts := [0] } }

/-- Places a record in this device's ring (12 R365). -/
def placeJournal (r : JRec) (s : State) : State :=
  let l := s.quorum.journal ++ [r]
  { s with quorum := { s.quorum with journal := l.drop (l.length - 1024), journalSeq := s.quorum.journalSeq + 1 } }

/-- Writes one journal record and mirrors it (12 R365). -/
def journal (id ev scope index cls status : Nat) (digest : List Byte) (s : State) : State :=
  let r : JRec := { pitch := s.sched.pitch, id, event := ev, scope, index, cls, status, digest8 := digest.take 8 }
  mirror (.journal r) (placeJournal r s)

/-- PROPOSAL_IDs join those that are final. -/
def closed (l ids : List Nat) : List Nat := (ids ++ l).take 1024

/-- Takes a proposal out of its slot with its final event: 4 consumed, 5 void, 6 expired, 7 withdrawn
(12 R360). -/
def closeProp (slot : Nat) (p : Proposal) (ev : Nat) (s : State) : State :=
  let voids := if ev = 5 ∧ p.token ≠ [] then s.quorum.voidTokens ++ [p.token] else s.quorum.voidTokens
  let s0 := { s with quorum := { s.quorum with
    props := tdel s.quorum.props slot, voidTokens := voids, closedIds := closed s.quorum.closedIds [p.id] } }
  let s1 := journal p.id ev 0 0 p.cls stOk p.digest s0
  let s2 := if ev = 4 then evcAdd 0x89 1 (bump 16 4 1 s1) else if ev = 5 then bump 16 5 1 s1
            else if ev = 6 then bump 16 6 1 s1 else s1
  mirrorQuorum s2

/-- Consumes the token that 16 bytes name (12 R339, R363). -/
def consumeToken (tok : List Byte) (s : State) : State :=
  match tokenProp s tok with
  | some (slot, p) => closeProp slot p 4 s
  | none => s

end Sys2Proof.Machine
end

