-- ==== Sys2Proof/Machine/Cold.lean ====
section
/-! DEFINITION. The cold store in the HBM: its slot table and records, how they are written, read, moved and checked
(11 R309-R314, 02 R59, 19 R556). -/

namespace Sys2Proof.Machine

/-! ### Places (11 R309, 19 R556) -/

/-- First addresses of the slot table and of the records. -/
def tableBase : Nat := 0x10088000000
def coldBase : Nat := 0x10100000000

/-- Granules of the record of an object. -/
def recordGranules (o : KeyObj) : Nat := granules o.mat.length (objExt o)

/-- The granules that records hold: first granule and number. -/
def heldRuns (v : Vault) : List (Nat × Nat) :=
  (v.place.map fun p => (p.2, ((tget v.recs p.1).map recordGranules).getD 0)) ++ v.orphans

/-- The lowest run of `n` granules that meets no other. -/
def gapFor (l : List (Nat × Nat)) (n : Nat) : Option Nat :=
  let free (g : Nat) : Bool := decide (g + n ≤ 67108864) && l.all fun r => decide (g + n ≤ r.1 ∨ r.1 + r.2 ≤ g)
  (((0 :: l.map fun r => r.1 + r.2).filter free).mergeSort (· ≤ ·)).head?

/-- Records by their place. -/
def byPlace (v : Vault) : List (Nat × Nat) := v.place.mergeSort fun a b => decide (a.2 ≤ b.2)

/-! ### Sealed records (11 R310) -/

/-- IV of a cold record: the slot, the generation and WCOUNT. -/
def coldIv (slot : Nat) (o : KeyObj) : List Byte := leBytes 3 slot ++ leBytes 3 o.gen ++ leBytes 6 o.wcount

/-- The cold record of an object, padded to whole granules. -/
def coldRecord (s : State) (slot : Nat) (o : KeyObj) : List Byte :=
  let r := gcmSeal (objectKey s o.part) (coldIv slot o) [] (recordContent slot o)
  padTo (64 * ceilDiv r.length 64) r

/-- The entry of a slot in the slot table: the first granule and, in bit 63, that there is a record (DESIGN CHOICE,
log 74). -/
def tableEntry (v : Vault) (slot : Nat) : List Byte :=
  leBytes 8 (match tget v.place slot with
    | some g => g + 2 ^ 63
    | none => 0)

/-- A byte of the slot table, and one of the records, before any master has written over it. -/
def tableByte (s : State) (i : Nat) : Byte := (tableEntry s.vault (i / 8)).getD (i % 8) 0
def recordByte (s : State) (i : Nat) : Byte :=
  let here (p : Nat × Nat) : Bool := (tget s.vault.recs p.1).any fun o => decide (p.2 ≤ i / 64 ∧ i / 64 < p.2 + recordGranules o)
  match s.vault.place.find? here with
  | some p => (((tget s.vault.recs p.1).map fun o => coldRecord s p.1 o).getD []).getD (i - 64 * p.2) 0
  | none => 0

/-- The address lies in the slot table or among the records. -/
def inColdStore (a : Nat) : Bool := decide (tableBase ≤ a ∧ a < tableBase + 0x8000000) || decide (coldBase ≤ a ∧ a < coldBase + 0x100000000)

/-- A byte of the cold store as the HBM holds it. -/
def coldByte (s : State) (a : Nat) : Byte :=
  (tget s.vault.patched a).getD (if a < coldBase then tableByte s (a - tableBase) else recordByte s (a - coldBase))

/-- Bytes from an address on, those of the cold store among them. -/
def readSpan (s : State) (a n : Nat) : List Byte :=
  if hbmDown s a then freeBytes s n
  else if (List.range n).any fun i => inColdStore (a + i) then
    (List.range n).map fun i => if inColdStore (a + i) then coldByte s (a + i) else readByte s.mem (a + i)
  else readBytes s.mem a n

/-- Bytes stored from an address on; those in the cold store write over its contents. -/
def storeSpan (a : Nat) (data : List Byte) (s : State) : State :=
  if hbmDown s a then s
  else if inColdStore a then
    { s with vault := { s.vault with patched := data.zipIdx.foldl (fun t b => tput t (a + b.2) b.1) s.vault.patched } }
  else storeMem a data s

/-- A cached line leaves its core: written back if dirty, and invalidated (13 R402, R405). -/
def evictLine (s : State) (x : CacheLine) : State :=
  let s1 := { s with world := { s.world with lines := s.world.lines.filter fun y => !(y.core == x.core && y.addr == x.addr) } }
  if x.dirty then storeSpan x.addr x.bytes s1 else s1

/-- The record of a slot opens: its entry in the slot table stands and its tag verifies, although `flips` disturb its
bytes (11 R313). -/
def recordOpens (s : State) (slot : Nat) (flips : List Byte) : Bool :=
  match tget s.vault.recs slot, tget s.vault.place slot with
  | some o, some g =>
    let n := 64 * recordGranules o
    let d := xorBytes (readSpan s (coldBase + 64 * g) n) (padTo n flips)
    readSpan s (tableBase + 8 * slot) 8 == tableEntry s.vault slot
      && (gcmOpen (objectKey s o.part) (coldIv slot o) [] (d.take ((recordContent slot o).length + 16))).isSome
  | _, _ => true

/-- Nothing has been written over the cold store, and nothing disturbs the record. -/
def undisturbed (s : State) (flips : List Byte) : Bool := s.vault.patched.isEmpty && flips.all (· == 0)

/-- The record that a cold miss reads is good. -/
def recordGood (s : State) (slot : Nat) (flips : List Byte) : Bool := undisturbed s flips || recordOpens s slot flips

/-! ### Writes (11 R310, R311, 21 R582, 13 R404) -/

/-- Nothing stands written over a range of addresses any more. -/
def unpatched (a n : Nat) (t : Tab Byte) : Tab Byte := t.filter fun p => decide (p.1 < a ∨ a + n ≤ p.1)

/-- The record of a slot is sealed and written in a run of granules, through the access control of its port; a denied
write leaves the record as it was (13 R403). -/
def writeAt (slot g : Nat) (o : KeyObj) (s : State) : State :=
  let n := recordGranules o
  let io := engineBursts 9 .write ((List.range n).map fun i => coldBase + 64 * (g + i)) none s
  if !io.1 then io.2
  else
    let v := io.2.vault
    let o1 := { o with wcount := o.wcount + 1 }
    { io.2 with vault := { v with
      objs := tput v.objs slot o1, recs := tput v.recs slot o1, place := tput v.place slot g
      patched := unpatched (coldBase + 64 * g) (64 * n) (unpatched (tableBase + 8 * slot) 8 v.patched) } }

/-- All records moved together, and the granules of deleted partitions freed. -/
def packed (v : Vault) : Vault :=
  let r := (byPlace v).foldl (fun (r : Nat × Tab Nat) p =>
    (r.1 + ((tget v.recs p.1).map recordGranules).getD 0, tput r.2 p.1 r.1)) (0, [])
  { v with place := r.2, orphans := [] }

/-- One record that is due: in its place, in the lowest gap that takes it, or after all records have been moved together.
A record at the last WCOUNT is not written again (21 R582). -/
def sealRecord (s : State) (slot : Nat) : State :=
  match (tget s.vault.objs slot).filter fun o => wcountOk o with
  | none => s
  | some o =>
    match (tget s.vault.place slot).or (gapFor (heldRuns s.vault) (recordGranules o)) with
    | some g => writeAt slot g o s
    | none =>
      let v := packed s.vault
      writeAt slot ((gapFor (heldRuns v) (recordGranules o)).getD 0) o { s with vault := v }

/-- The records due are written at a boundary; one behind an ACU that changes its rules waits (13 R405). -/
def flushRecords (s : State) : State :=
  if portWaits s coldBase || !s.hbm.ready then s
  else s.vault.due.foldl sealRecord { s with vault := { s.vault with due := [] } }

/-- The partner's copy of a lost record has arrived and is written again (11 R313). -/
def refetched (slot : Nat) (o : KeyObj) (s : State) : State :=
  let s1 := putObj slot { o with lost := false } s
  { s1 with vault := { s1.vault with awaited := s1.vault.awaited.filter (· != slot) } }

/-- The pair is over: records that were awaited from the partner are lost (11 R313). -/
def awaitedLost (s : State) : State :=
  let drop (o : KeyObj) : KeyObj := { o with lost := true }
  { s with vault := { s.vault with objs := s.vault.awaited.foldl (fun t n => tmod t n drop) s.vault.objs, awaited := [] } }

/-! ### Compaction (02 R59, 11 R314) -/

/-- The first record that does not follow the one before it: its slot, its place and where it moves. -/
def nextMove : List (Nat × Nat × Nat) → Nat → Option (Nat × Nat × Nat)
  | [], _ => none
  | (slot, g, n) :: t, at_ => if at_ < g then some (slot, g, at_) else nextMove t (g + n)

/-- One segment of compaction: it frees the granules of one record of a deleted partition, or closes the lowest gap by
moving a record, with whatever has been written over it. It changes no slot and no generation. -/
def compactOne (s : State) : State :=
  let v := s.vault
  match v.orphans with
  | _ :: rest => { s with vault := { v with orphans := rest } }
  | [] =>
    match nextMove ((byPlace v).map fun p => (p.1, p.2, ((tget v.recs p.1).map recordGranules).getD 0)) 0 with
    | none => s
    | some (slot, from_, to_) =>
      let n := ((tget v.recs slot).map recordGranules).getD 0
      let span (g : Nat) : List Nat := (List.range n).map fun i => coldBase + 64 * (g + i)
      let r := engineBursts 9 .read (span from_) none s
      let w := if r.1 then engineBursts 9 .write (span to_) none r.2 else r
      if !w.1 then w.2
      else
        let move (p : Nat × Byte) : Nat × Byte :=
          if coldBase + 64 * from_ ≤ p.1 ∧ p.1 < coldBase + 64 * (from_ + n) then (p.1 - 64 * (from_ - to_), p.2) else p
        { w.2 with vault := { w.2.vault with
          place := tput w.2.vault.place slot to_, patched := w.2.vault.patched.map move } }

end Sys2Proof.Machine
end

