-- ==== Sys2Proof/Machine/Replicate.lean ====
section
/-! DEFINITION. Replication of objects to the members of a fabric (14 R443). -/

namespace Sys2Proof.Machine

/-- PAIR_FAB_PMAP in force marks a partition; bit 0 is ignored. -/
def fabMarked (s : State) (part : Nat) : Bool :=
  part != 0 && bitAt (inForce s (0x1F0020 + 8 * (part / 64))) (part % 64)

/-- Objects that replication covers: of a marked partition, of a class that advances no invocation counter,
not STATEFUL. -/
def replicable (s : State) (o : KeyObj) : Bool :=
  fabMarked s o.part && !([1, 3, 9].contains o.cls) && !polBit o 10

/-- Members that this one can route to. -/
def routed (s : State) : List Nat := s.fab.routes.map fun p => p.1

/-- The sender key of a member for one of its runs (14 R440). -/
def fabricKey (s : State) (src boot : Nat) : List Byte :=
  kmac256 (kmac256 (rootVal s 0) [] 32 "Yalzia fabric") (leBytes 2 src ++ leBytes 6 boot) 32 "Yalzia fabric sender"

/-- The 24-byte header of a fabric frame. -/
def fabricHeader (hops src dst boot seq : Nat) (b : RopeBody) : List Byte :=
  [2] ++ leBytes 1 (ropeType b) ++ leBytes 1 hops ++ [0] ++ leBytes 2 src ++ leBytes 2 dst ++ leBytes 6 boot
    ++ leBytes 8 seq ++ leBytes 2 (ropeBytes b).length

/-- The IV of a fabric frame: four zero bytes and SEQ. -/
def fabricIv (seq : Nat) : List Byte := leBytes 4 0 ++ leBytes 8 seq

/-- The body of a fabric frame, sealed under its sender's key with the header as additional data. -/
def fabricSeal (s : State) (hops src dst boot seq : Nat) (b : RopeBody) : List Byte :=
  gcmSeal (fabricKey s src boot) (fabricIv seq) (fabricHeader hops src dst boot seq b) (ropeBytes b)

/-- PAIR_FAB.VID in force. -/
def fabricVid (s : State) : Nat := fld (inForce s 0x1F0018) 32 12

/-- Sends one fabric frame through a port (14 R439, R440). -/
def fabricSend (dst port : Nat) (b : RopeBody) (s : State) : State :=
  let bytes := fabricHeader 0 (memberId s) dst s.fab.boot s.fab.seq b
    ++ fabricSeal s 0 (memberId s) dst s.fab.boot s.fab.seq b
  evcAdd (0x58 + port) 1 (bump (8 + port) 0 1 (emit (.fabric dst 0 s.fab.seq b port (fabricVid s) bytes)
    { s with fab := { s.fab with seq := s.fab.seq + 1 } }))

/-- The port of the route to a member. -/
def routePort (s : State) (member : Nat) : Nat := ((tget s.fab.routes member).map fun r => r.port).getD 0

/-- Sends the REPLICATE of a record, which counts one more try. While another device announces this member's ID it is
suspended: the record waits for its retry (14 R441). -/
def replicateSend (r : Repl) (s : State) : State :=
  if s.pair.fabDup then s
  else
    let sent (x : Repl) : Repl := if x = r then { x with tries := x.tries + 1, pitch := s.sched.pitch } else x
    bump 31 7 (b2n (r.tries == 0)) (fabricSend r.member (routePort s r.member) (.replicate r.oper r.slot r.gen r.pack)
      { s with fab := { s.fab with repl := s.fab.repl.map sent } })

/-- One REPLICATE to one member; it is tried again until it is acknowledged. A destruction leaves at once; a key pack
waits for the 32 bytes of its salt (11 R330; DESIGN CHOICE, log 96). -/
def replicateTo (oper slot gen : Nat) (s : State) (member : Nat) : State :=
  let r : Repl := { member, slot, gen, oper, pitch := s.sched.pitch }
  let s1 := { s with fab := { s.fab with repl := s.fab.repl ++ [r] } }
  if oper = 2 then replicateSend r s1
  else { s1 with ent := { s1.ent with internalQ := s1.ent.internalQ ++ [(.replica member slot gen oper, 32)] } }

/-- The salt of a replicated pack is drawn: the object, if it still stands, is sealed and sent. -/
def replicaDrawn (member slot gen oper : Nat) (salt : List Byte) (s : State) : State :=
  let hit (x : Repl) : Bool := x.member == member && x.slot == slot && x.gen == gen && x.oper == oper && x.pack.isNone
  match s.fab.repl.find? hit, (tget s.vault.objs slot).filter fun o => o.gen == gen with
  | some r, some o =>
    let r1 := { r with pack := some (keyPack s slot o salt) }
    replicateSend r1 { s with fab := { s.fab with repl := s.fab.repl.map fun x => if x = r then r1 else x } }
  | _, _ => { s with fab := { s.fab with repl := s.fab.repl.filter fun x => !hit x } }

/-- REPLICATE to every member. -/
def replicateAll (oper slot gen : Nat) (s : State) : State :=
  if fabOn s then (routed s).foldl (replicateTo oper slot gen) s else s

/-- Replicates the object in a slot as it stands. -/
def replicateSlot (oper : Nat) (s : State) (slot : Nat) : State :=
  match tget s.vault.objs slot with
  | some o => if replicable s o then replicateAll oper slot o.gen s else s
  | none => s

/-- What the release of a job replicates: the objects created, the one destroyed or the one changed. A
destroyed object is known by its handle. -/
def replicateRelease (j : Job) (r : Res) (s : State) : State :=
  if r.status ≠ stOk then s
  else if j.hdr.opcode = 0x504 then
    let hd := j.hdr.keyA
    let cls := fld hd.toNat 52 4
    let fam := fld hd.toNat 48 4
    let dead : KeyObj := { part := handlePart hd, cls, fam, policy := if fam = 14 ∨ fam = 15 then 0x400 else 0 }
    if replicable s dead then replicateAll 2 (handleSlot hd) (fld hd.toNat 0 24) s else s
  else if j.hdr.opcode = 0x505 then replicateSlot 3 s (handleSlot j.hdr.keyA)
  else j.made.foldl (replicateSlot 1) s

end Sys2Proof.Machine
end

