-- ==== Sys2Proof/Machine/Tamper.lean ====
section
/-! DEFINITION. Tamper detection on the guard die: sensing, events and their responses, the avalanche
line, with the meanings of the tamper commands (15 R450-R464). -/

namespace Sys2Proof.Machine

/-! ### Sources and levels (15 R450, R455, R462) -/

/-- The protective floor applies: PROVISIONED or OWNED. -/
def floorOn (s : State) : Bool := s.life.code == 3 || s.life.code == 4

/-- Sources that the floor holds enabled, and those it holds armed. -/
def floorSrc (s : State) (n : Nat) : Bool := floorOn s && (n == 8 || n == 9 || n == 17)

/-- The source is enabled; sources 23-31 never fire. -/
def srcEnabled (s : State) (n : Nat) : Bool :=
  decide (n < 23) && (bitAt (inForce s 0x130000) n || floorSrc s n)

/-- The source is armed on battery; only 0-9, 21 and 22 can be. -/
def srcArmed (s : State) (n : Nat) : Bool :=
  srcEnabled s n && (decide (n < 10) || n == 21 || n == 22)
    && (bitAt (inForce s 0x130008) n || (floorOn s && (n == 8 || n == 9)))

/-- The level of a source: codes 5-7 act as 4, and the floor raises its sources to ZEROIZE. -/
def srcLevel (s : State) (n : Nat) : Nat :=
  let v := if n < 16 then fld (inForce s 0x130010) (4 * n) 3 else fld (inForce s 0x130018) (4 * (n - 16)) 3
  let l := min 4 v
  if floorSrc s n then max 3 l else l

/-- The source is sensed now: enabled with VDD_GUARD present, enabled and armed on battery. -/
def srcSensed (s : State) (n : Nat) : Bool := if s.board.vddGuard then srcEnabled s n else s.board.vbat && srcArmed s n

/-- A set of sources as a bitmap. -/
def bitmap (l : List Nat) : BitVec 32 := l.foldl (fun b n => b ||| (1#32 <<< n)) 0

/-- The source is in alarm. -/
def inAlarm (s : State) (n : Nat) : Bool := s.tam.active.getLsbD n

/-- Highest level among sources. -/
def topLevel (s : State) (l : List Nat) : Nat := (l.map (srcLevel s)).foldl max 0

/-- Lowest-numbered source of an event. -/
def lowest (l : List Nat) : Nat := l.foldl min 31

/-! ### Events (15 R455-R457) -/

/-- The status bits that an event sets: LEVEL_MAX and the first-source latch (15 R474). -/
def latchEvent (t : Tamper) (pitch level first : Nat) (m : BitVec 32) : Tamper :=
  let u := { t with levelMax := max t.levelMax level, evt := t.evt ||| m }
  if t.firstValid then u else { u with firstSrc := first, firstValid := true, firstPitch := pitch }

/-- The cairn record of an event: for every event from FENCE up, and for the first ALERT of a source. -/
def eventRecord (level : Nat) (m : BitVec 32) (s : State) : State :=
  let fresh := (m &&& ~~~s.tam.alerted) != 0
  let s1 := if 2 ≤ level ∨ (level = 1 ∧ fresh = true) then cairnPlace (0x10 + level) m s else s
  if 1 ≤ level then { s1 with tam := { s1.tam with alerted := s1.tam.alerted ||| m } } else s1

/-- The fault of an event at FENCE or higher: its lowest source is collected and every other sets
FLT_OVF (15 R456, 16 R483). -/
def eventFault (first others : Nat) (s : State) : State :=
  let s1 := collect (608 + first) 2 0 s
  if others = 0 then s1
  else { s1 with flt := { s1.flt with ovfSet := true, ovfCount := satAdd 32 s1.flt.ovfCount others } }

/-- The responses of one event with main power present, by level (15 R455). -/
def respond (level : Nat) (l : List Nat) (s : State) : State :=
  let m := bitmap l
  let s1 := { s with tam := latchEvent s.tam s.sched.pitch level (lowest l) m }
  let s2 := eventRecord level m (if 1 ≤ level then raise 3 s1 else s1)
  if level < 2 then s2
  else
    let s3 := fenceAll (eventFault (lowest l) (l.length - 1) s2)
    if level = 2 then s3
    else if level = 3 then avalanche .systemReset (sendFence (if s.sys.mode = .lockdown then 0 else 1) s3)
    else lockdownMode (avalanche .lockdown (sendFence 0 s3))

/-- An event of sources: it is counted (TAMPER counter 32, event 0x90) and answered at the highest
level among them. -/
def tamperEvent (l : List Nat) (s : State) : State :=
  if l.isEmpty then s else respond (topLevel s l) l (evcAdd 0x90 1 (bump 19 32 1 s))

/-- An alarm on battery: one record of type 0x18 and the avalanche, whatever the levels (15 R461). -/
def batteryEvent (l : List Nat) (s : State) : State :=
  if l.isEmpty then s
  else
    let s1 := { s with tam := latchEvent s.tam s.sched.pitch 0 (lowest l) (bitmap l) }
    cairnPlace 0x18 (bitmap l) (avalanche .systemReset (bump 19 32 1 s1))

/-- Detectors of a class of 15 R453 disagree: one is in alarm and the other is not. -/
def disagrees (s : State) (cls : Nat) : Bool := inAlarm s (10 + 2 * cls) != inAlarm s (11 + 2 * cls)

/-- The disagreement sources of classes that do not disagree any more leave alarm. -/
def endDisagreements (s : State) : State :=
  let ended := (List.range 3).filter fun c => !disagrees s c
  { s with tam := { s.tam with active := s.tam.active &&& ~~~(bitmap (ended.map (18 + ·))) } }

/-- The alarms of sources that were not in alarm and are sensed begin together. -/
def alarmOnset (srcs : List Nat) (s : State) : State :=
  let l := (srcs.filter fun n => srcSensed s n && !inAlarm s n).eraseDups
  let s1 := l.foldl (fun t n => bump 19 n 1 t) { s with tam := { s.tam with active := s.tam.active ||| bitmap l } }
  endDisagreements (if s.board.vddGuard then tamperEvent l s1 else batteryEvent l s1)

/-- Sources leave alarm; a disagreement that has ended leaves alarm with them. -/
def alarmClear (srcs : List Nat) (s : State) : State :=
  endDisagreements { s with tam := { s.tam with active := s.tam.active &&& ~~~(bitmap srcs) } }

/-- What a commit does to alarms in progress: a disabled source leaves alarm, and a raised level of a
source in alarm is a new event (15 R457). `s0` is the state before the commit. -/
def tamperCommitted (s0 s : State) : State :=
  let off := (List.range 23).filter fun n => inAlarm s n && !srcSensed s n
  let s1 := if off.isEmpty then s else alarmClear off s
  tamperEvent ((List.range 23).filter fun n => inAlarm s1 n && decide (srcLevel s0 n < srcLevel s1 n)) s1

/-! ### Checks of loops and mesh (15 R451, R452) -/

/-- Checks that must fail in a row: PIN_N or MESH_N; 0 acts as 1 and 5-7 as 4 (15 R473). -/
def filterN (s : State) (src : Nat) : Nat :=
  clampN 1 4 (fld (inForce s 0x130020) (if src < 8 then 0 else 4) 3)

/-- On battery a check falls on the next RTC count that is a multiple of `period`, or on this count
when it is one and no check of that kind (0 pins, 8 mesh) has fallen on it (DEDUCED, log 12). -/
def batteryTick (period kind : Nat) (t : Tamper) : Tamper :=
  let here := t.rtc % period == 0 && tget t.checked kind != some t.rtc
  let r := if here then t.rtc else (t.rtc / period + 1) * period
  { t with rtc := r, rtcFrac := 0, checked := tput t.checked kind r }

/-- The RTC after `n` millionths of a count: it runs while the crystal does. -/
def rtcRun (n : Nat) (s : State) : State :=
  let frac := if s.board.xtal then s.tam.rtcFrac + n else s.tam.rtcFrac
  { s with tam := { s.tam with rtc := (s.tam.rtc + frac / 1000000) % 2 ^ 48, rtcFrac := frac % 1000000 } }

/-- The time of a frame of 32 us on the guard die while no pitch passes: 16 pitches for the RTC and for the settling of
VDD_GUARD (15 R451, R454, R468; DEDUCED, log 12). -/
def frameTime (s : State) : State :=
  if dieOn s then s
  else rtcRun (16 * 65536) { s with life := { s.life with stable := s.life.stable + 16 } }

/-- A loop or mesh layer is checked: a failure is counted, up to 4 in a row. -/
def countCheck (s : State) (c : Nat × Bool) : State :=
  let f := if c.2 then tdel s.tam.fails c.1 else tput s.tam.fails c.1 (min 4 (tgetD s.tam.fails c.1 0 + 1))
  { s with tam := { s.tam with fails := f } }

/-- Those of the checks whose filter is full: they alarm. -/
def checksFailed (l : List (Nat × Bool)) (s : State) : List Nat :=
  (l.filter fun c => !c.2 && decide (filterN s c.1 ≤ tgetD s.tam.fails c.1 0)).map (·.1)

/-! ### Detector readings (15 R453, R464, 18 R544, R545) -/

/-- A factory register: two trim fields, the low half first (17 R503). -/
def calFac (s : State) (i : Nat) : Nat := (tgetD s.life.trims (2 * i) 0).toNat + (tgetD s.life.trims (2 * i + 1) 0).toNat * 2 ^ 32

/-- An effective field: factory and user value added, inside the window (18 R544). `sgn` says that the
factory value is signed. -/
def calField (fac usr lo w : Nat) (sgn : Bool) (wlo whi : Int) : Nat :=
  let f : Int := if sgn then signed (fld fac lo w) w else fld fac lo w
  putF (unsigned (clampI wlo whi (f + signed (fld usr lo w) w)) w) lo w

/-- CAL_EFF_TEMP and CAL_EFF_VOLT. -/
def calEffTemp (s : State) : Nat :=
  sumF ([0, 8].map fun lo => calField (calFac s 0) (inForce s 0x1A0000) lo 8 true (-128) 127)
def calEffVolt (s : State) : Nat :=
  let f := calFac s 1
  let u := inForce s 0x1A0008
  sumF (([0, 8, 16, 24].map fun lo => calField f u lo 8 true (-40) 40) ++ [calField f u 32 5 true (-16) 15])
/-- A detector's trim: a field of eight bits of CAL_EFF_TEMP or CAL_EFF_VOLT, signed (18 R544, R545). -/
def trimOf (eff n : Nat) : Int := signed (fld eff (8 * n) 8) 8

/-- A limit of TAMPER_THR_VDD, held inside 3-15 % (15 R464, R473). -/
def vddLimit (s : State) (above : Bool) : Nat := clampN 3 15 (fld (inForce s 0x130028) (if above then 8 else 0) 8)

/-- Nominal values in mV of the rails that design A watches (20 R566). -/
def railNominal : Nat → Int
  | 0 => 750
  | 1 => 850
  | 2 => 1100
  | _ => 1800

/-- The limits of TAMPER_THR_TEMP in units of 0.25 degree, inside their windows (15 R464, R473). -/
def tempHigh (s : State) : Int := 4 * clampN 90 125 (fld (inForce s 0x130040) 0 8)
def tempLow (s : State) : Int := 4 * clampI (-55) (-20) (signed (fld (inForce s 0x130040) 8 8) 8)

/-- TAMPER_THR_CLK.WIN_PPM, inside its window. -/
def clkWindow (s : State) : Nat := clampN 1000 50000 (fld (inForce s 0x130030) 0 16)

/-- TAMPER_THR_VDD.GLITCH_NS, inside its window. -/
def glitchNs (s : State) : Nat := clampN 1 20 (fld (inForce s 0x130028) 16 8)

/-- The limit of VBAT in mV: retention on battery, warning with VDD_GUARD present (20 R569). -/
def vbatLimit (s : State) : Nat := if s.board.vddGuard then 2600 else 2200

/-- The trimmed reading lies outside the window that TAMPER_THR sets; the canary arrays (source 17) have no
threshold; VBAT in mV (21) has its limit, and a crystal that stops (22) has none (15 R450, R453, R464). DESIGN CHOICE: a limit itself lies inside the window, but the photodiode code and
the shortest glitch alarm when reached (log 106). -/
def leavesWindow (s : State) (r : Reading) : Bool :=
  match r.src with
  | 10 =>
      let v := 100 * (r.value + trimOf (calEffVolt s) r.which)
      decide (v < railNominal r.which * (100 - vddLimit s false)) || decide (railNominal r.which * (100 + vddLimit s true) < v)
  | 11 => decide ((glitchNs s : Int) ≤ r.value)
  | 12 | 13 =>
      let v := r.value + trimOf (calEffTemp s) (r.src - 12)
      decide (v < tempLow s) || decide (tempHigh s < v)
  | 14 => decide (clkWindow s < r.value.natAbs)
  | 15 =>
      if r.which = 0 then decide ((clampN 1 4 (fld (inForce s 0x130030) 16 3) : Int) < r.value)
      else decide (clkWindow s < r.value.natAbs)
  | 16 => decide ((clampN 1 15 (fld (inForce s 0x130038) 0 4) : Int) ≤ r.value)
  | 17 | 22 => true
  | 21 => decide (r.value < vbatLimit s)
  | _ => false

/-! ### Meanings -/

/-- A loop passes a check when TAMP_IN equals TAMP_OUT in each of the eight slots: high in its own slot, low in
every other (15 R451). -/
def loopPasses (src : Nat) (tampIn : Byte) : Bool := tampIn == 1#8 <<< src

/-- Readings within 1 us of each other; the crystal stands still once it has stopped (18 R531). -/
def readingsTaken (reads : List Reading) (s : State) : State :=
  if reads.any fun r => r.src == 22 then { s with board := { s.board with xtal := false } } else s

/-- The sources that alarm by readings. -/
def readingsFailed (s : State) (reads : List Reading) : List Nat := (reads.filter (leavesWindow s)).map (·.src)

/-- Checks that end together, with readings within 1 us of them: those that pass leave alarm, and all that fail alarm as
one event (15 R451-R456, R461). -/
def judged (checks : List (Nat × Bool)) (reads : List Reading) (s : State) : State :=
  let s1 := alarmClear ((checks.filter (·.2)).map (·.1)) (checks.foldl countCheck (readingsTaken reads s))
  alarmOnset (checksFailed checks s1 ++ readingsFailed s reads) s1

/-- The checks of the pairs that are sensed, in one frame. -/
def pinChecks (s : State) (tampIn : List Byte) : List (Nat × Bool) :=
  ((List.range 8).filter (srcSensed s)).map fun n => (n, loopPasses n (nthD tampIn n 0))

/-- The checks of the mesh layers that are sensed. -/
def meshChecks (s : State) (outer inner : Bool) : List (Nat × Bool) :=
  ([(8, outer), (9, inner)] : List (Nat × Bool)).filter fun c => srcSensed s c.1

/-- On battery a check waits for its RTC count; without anything to check, or with the RTC standing still, none runs. -/
def checkRuns (s : State) (l : List (Nat × Bool)) : Bool := !l.isEmpty && (s.board.vddGuard || s.board.xtal)

/-- TAMP_OUT of a frame: each pair that is sensed is driven, high in its own slot alone. -/
def driveFrame (s : State) : State :=
  let m := BitVec.ofNat 8 ((((List.range 8).filter (srcSensed s)).map (2 ^ ·)).foldl (· + ·) 0)
  if m = 0 then s else emit (.tampOut m) s

/-- PIN_LOOP_CHECK: one frame, with TAMP_IN of each pin as read in the eight slots, the mesh check that ends with it,
where one does, and readings within 1 us of its end (15 R451, R452, R456, R461). -/
def execPinLoopCheck (tampIn : List Byte) (mesh : Option (Bool × Bool)) (reads : List Reading) (s : State) :
    Host.Outcome State Fault Refusal :=
  let m := mesh.elim [] fun x => meshChecks s x.1 x.2
  let l := pinChecks s tampIn ++ m
  let tickB (t : Tamper) : Tamper :=
    if m.isEmpty then batteryTick 32 0 t else { batteryTick 256 8 t with checked := tput (batteryTick 256 8 t).checked 0 (batteryTick 256 8 t).rtc }
  .next (
    if !checkRuns s l then judged [] reads (if s.board.vddGuard then frameTime s else s)
    else judged l reads (driveFrame (if s.board.vddGuard then frameTime s else { s with tam := tickB s.tam })))

/-- MESH_CHECK: a check of the layers, and readings within 1 us of its end (15 R452, R456, R461). -/
def execMeshCheck (outer inner : Bool) (reads : List Reading) (s : State) : Host.Outcome State Fault Refusal :=
  let l := meshChecks s outer inner
  .next (
    if !checkRuns s l then judged [] reads s
    else judged l reads (if s.board.vddGuard then s else { s with tam := batteryTick 256 8 s.tam }))

/-- DETECTOR_ALARM: readings within 1 us of each other; those outside their windows alarm together
(15 R453, R456, R464). -/
def execDetectorAlarm (reads : List Reading) (s : State) : Host.Outcome State Fault Refusal :=
  .next (judged [] reads s)

/-- DETECTOR_ALARM_CLEAR: a source leaves alarm (15 R457); the crystal of source 22 runs again. -/
def execDetectorAlarmClear (src : Nat) (s : State) : Host.Outcome State Fault Refusal :=
  .next (alarmClear [src] (if src = 22 then { s with board := { s.board with xtal := true } } else s))

/-- TAMPER_FILT.DWIN_US, inside its window. -/
def disWindow (s : State) : Nat := clampN 1 1000 (fld (inForce s 0x130020) 16 10)

/-- DISAGREEMENT_WINDOW_EXPIRY: a pair has disagreed for `us` microseconds, longer than DWIN_US (15 R453). -/
def execDisagreementWindowExpiry (cls us : Nat) (s : State) : Host.Outcome State Fault Refusal :=
  .next (if cls < 3 ∧ disagrees s cls = true ∧ disWindow s < us then alarmOnset [18 + cls] s else s)

/-- VBAT_LOW: source 21, on battery or as a warning (20 R569). -/
def execVbatLow (mv : Nat) (s : State) : Host.Outcome State Fault Refusal :=
  .next (judged [] [{ src := 21, value := mv }] s)

/-- XTAL_STOP: source 22; the RTC stands still while the crystal does (18 R531). -/
def execXtalStop (s : State) : Host.Outcome State Fault Refusal :=
  .next (judged [] [{ src := 22 }] s)

/-- RAIL_EXCURSION_SHORT: an excursion of a rail to `mv`, shorter than 5 us, judged by the comparator with its trim
(source 10) and from GLITCH_NS on by the delay-line canary (source 11); it is over when the command ends (15 R464,
20 R567). -/
def execRailExcursionShort (rail : Nat) (mv : Int) (ns : Nat) (s : State) : Host.Outcome State Fault Refusal :=
  let out := leavesWindow s { src := 10, which := rail, value := mv }
  let srcs := if out then (if glitchNs s ≤ ns then [10, 11] else [10]) else []
  .next (
    if s.board.vddGuard && decide (ns < 5000) then
      let s1 := alarmOnset srcs s
      let s2 := if out && disagrees s1 0 && decide (disWindow s * 1000 < ns) then alarmOnset [18] s1 else s1
      alarmClear (srcs.filter fun n => !inAlarm s n) s2
    else s)

/-- The line falls once its 25 us have passed and every target is confirmed clear; an avalanche that
leads to a system reset ends with that reset instead. Without main power nothing is left to confirm. -/
def settleLine (main : Bool) (t : Tamper) : Tamper :=
  if t.released && (t.confirmed || !main) && (t.after == .lockdown || !main) then { t with line := false } else t

/-- AVALANCHE_LINE_RELEASE: the 25 us of the assertion have passed (15 R458). -/
def execAvalancheLineRelease (s : State) : Host.Outcome State Fault Refusal :=
  .next (
    if s.tam.line && !s.tam.holdDie then
      { s with tam := settleLine s.board.mainPower { s.tam with released := true } }
    else s)

/-- CLEAR_CONFIRMATION: the compute die confirms that every target is cleared (15 R459). -/
def execClearConfirmation (s : State) : Host.Outcome State Fault Refusal :=
  .next (
    if s.tam.line && !s.tam.holdDie then
      { s with tam := settleLine s.board.mainPower { s.tam with confirmed := true } }
    else s)

/-- CLEAR_CONFIRMATION_TIMEOUT: without a confirmation the line stays asserted and the compute die is
held in reset until main power is lost (15 R459). -/
def execClearConfirmationTimeout (s : State) : Host.Outcome State Fault Refusal :=
  .next (if s.tam.line && !s.tam.confirmed then { s with tam := { s.tam with holdDie := true } } else s)

end Sys2Proof.Machine
end

