-- ==== Sys2Proof/Machine/World.lean ====
section
/-! DEFINITION. Cores, the two worlds, gateway instructions, world interrupts, watchdogs and the
restart of the summit world (13 R372-R388). -/

namespace Sys2Proof.Machine

/-! ### Cores -/

def getCore (s : State) (c : Nat) : Core := tgetD s.world.cores c {}

def setCore (c : Nat) (r : Core) (s : State) : State :=
  { s with world := { s.world with cores := tput s.world.cores c r } }

/-- The core executes instructions: the die runs and the core is neither parked, halted nor held until
the firmware is released (17 R516). -/
def coreRuns (s : State) (c : Nat) : Bool :=
  let r := getCore s c
  decide (c < 8) && dieOn s && !r.parked && !r.halted && !r.waits

/-- Trace and counters of a core run: under SUMMIT_NONINVASIVE in the summit world, under BASE_NONINVASIVE in the base
world. Without the first they stop at BELAY and at a summit preemption and resume at LOWER, where the world changes (13
R395, R396; log 126). -/
def coreTraced (s : State) (c : Nat) : Bool := s.dbg.enabled.getLsbD (if (getCore s c).base then 3 else 1)

/-- A general register; x0 reads 0. -/
def Core.reg (r : Core) (n : Nat) : Word := if n = 0 then 0 else nthD r.x (n - 1) 0

/-- Writes a general register; x0 keeps 0. -/
def Core.setReg (r : Core) (n : Nat) (v : Word) : Core := if n = 0 then r else { r with x := setNth r.x (n - 1) v }

/-- A CSR of the core's current bank, and its write (13 R374). -/
def Core.csr (r : Core) (n : Nat) : Nat := (tgetD (if r.base then r.csrB else r.csrS) n 0).toNat

def Core.setCsr (r : Core) (n v : Nat) : Core :=
  if r.base then { r with csrB := tput r.csrB n (BitVec.ofNat 64 v) }
  else { r with csrS := tput r.csrS n (BitVec.ofNat 64 v) }

/-- Replaces a field of a number. -/
def putField (v lo w x : Nat) : Nat := v - fld v lo w * 2 ^ lo + x % 2 ^ w * 2 ^ lo

/-- wbinfo fields (13 R378). -/
def Core.wPriv (r : Core) : Nat := fld r.wbinfo.toNat 0 2
def Core.wKind (r : Core) : Nat := fld r.wbinfo.toNat 2 1
def Core.wRd (r : Core) : Nat := fld r.wbinfo.toNat 3 5
def Core.wValid (r : Core) : Bool := bitAt r.wbinfo.toNat 8

/-! ### Traps (RISC-V privileged specification, 13 R372, R378) -/

/-- A trap of the current bank goes to supervisor level: taken below machine level and delegated. -/
def Core.delegated (r : Core) (intr : Bool) (cause : Nat) : Bool :=
  decide (r.priv < 3) && decide (cause < 64) && bitAt (r.csr (if intr then 0x303 else 0x302)) cause

/-- The target of a trap vector: vectored mode offsets interrupts by their cause. -/
def vecTarget (tvec : Nat) (intr : Bool) (cause : Nat) : Word :=
  BitVec.ofNat 64 (tvec / 4 * 4 + (if intr && tvec % 4 == 1 then 4 * cause else 0))

/-- mcause or scause. -/
def causeWord (intr : Bool) (cause : Nat) : Nat := cause + (if intr then 2 ^ 63 else 0)

/-- Entry into supervisor level of the current bank: sepc, scause, stval, SPIE, SIE, SPP. -/
def Core.enterS (r : Core) (intr : Bool) (cause : Nat) (tval : Word) : Core :=
  let st := r.csr 0x300
  let st1 := putField (putField (putField st 5 1 (fld st 1 1)) 1 1 0) 8 1 (b2n (r.priv == 1))
  let r1 := (((r.setCsr 0x141 r.pc.toNat).setCsr 0x142 (causeWord intr cause)).setCsr 0x143 tval.toNat).setCsr 0x300 st1
  { r1 with priv := 1, pc := vecTarget (r.csr 0x105) intr cause }

/-- Entry into machine level of the current bank: mepc, mcause, mtval, MPIE, MIE, MPP. -/
def Core.enterM (r : Core) (intr : Bool) (cause : Nat) (tval : Word) : Core :=
  let st := r.csr 0x300
  let st1 := putField (putField (putField st 7 1 (fld st 3 1)) 3 1 0) 11 2 r.priv
  let r1 := (((r.setCsr 0x341 r.pc.toNat).setCsr 0x342 (causeWord intr cause)).setCsr 0x343 tval.toNat).setCsr 0x300 st1
  { r1 with priv := 3, pc := vecTarget (r.csr 0x305) intr cause }

/-! ### The restart of the summit world (13 R385-R387) -/

/-- SUMMIT_RESTARTING, as BELAY returns it (13 R380). -/
def summitRestartingValue : Word := 0xFFFFFFFFFFFFFFFE

/-- A core in the summit world when a restart begins: it resumes its base context, or is parked. -/
def Core.stopSummit (r : Core) : Core :=
  if r.base then r
  else if r.wValid && r.wPriv != 2 then
    let r1 := { r with x := r.bank, base := true, priv := r.wPriv, pc := r.wbepc, halted := r.haltHeld }
    if r.wKind = 0 then r1.setReg r.wRd summitRestartingValue else r1
  else { r with parked := true, waits := false }

/-- The summit CSR bank is cleared, and the world CSRs but for those of a parked core's base context. -/
def Core.clearSummit (r : Core) : Core :=
  let r1 := { r with csrS := [], trapped := false, wsivec := 0 }
  if r1.parked then r1 else { r1 with wbepc := 0, wbinfo := 0, wten := 0 }

/-- A restart: trigger 1 watchdog, 2 double trap, 3 request. Summit SRAM and CSRs are cleared at once
(the spec allows 100 us; DEDUCED, log 13). -/
def beginRestart (trigger : Nat) (s : State) : State :=
  let w := dropLines 0x100000 0x500000 s.world
  let s1 := { s with
    sys := { s.sys with summitRestarting := true }
    world := { w with
      ready := false, trigger := trigger, restarts := satAdd 16 w.restarts 1, restartAt := s.sched.pitch
      swCount := 0
      cores := (List.range 8).foldl (fun t c => tput t c (((tgetD w.cores c {}).stopSummit).clearSummit)) w.cores }
    mem := clearRange s.mem 0x100000 0x500000 }
  evcAdd 0x86 1 (collect 578 1 trigger s1)

/-- A trigger of 13 R385 or the end of the 40 ms. One that meets a restart without READY is a failure of that
attempt: it starts again and FAILS counts it, and the third in a row is an F3 fault (13 R387, 01 R28; log 79). -/
def restartSummit (trigger : Nat) (s : State) : State :=
  if s.sys.summitRestarting then
    let s1 := { s with world := { s.world with fails := min 3 (s.world.fails + 1) } }
    if 3 ≤ s1.world.fails then f3Fault 577 0 s1 else beginRestart trigger s1
  else beginRestart trigger s

/-- A trap, synchronous or by interrupt, in the core's current world. An entry into summit machine level
sets TRAPPED; with TRAPPED set it is a double trap (13 R378, R385). -/
def trapTo (c : Nat) (intr : Bool) (cause : Nat) (tval : Word) (s : State) : State :=
  let r := getCore s c
  if r.delegated intr cause then setCore c (r.enterS intr cause tval) s
  else if r.base then setCore c (r.enterM intr cause tval) s
  else if r.trapped then restartSummit 2 s
  else setCore c { r.enterM intr cause tval with trapped := true } s

/-- A synchronous exception. -/
def excep (c cause : Nat) (tval : Word) (s : State) : State := trapTo c false cause tval s

/-- An illegal-instruction exception. The RISC-V specification lets mtval be the instruction or zero, and
the spec does not say which: a free value (log 2). -/
def illegal (c : Nat) (s : State) : State :=
  excep c 2 (BitVec.ofNat 64 (leNat (freeBytes s 8))) (useBytes 8 s)

/-! ### The gateway (13 R375-R380) -/

/-- The word is a well-formed ANCHOR (13 R375). -/
def isAnchor (w : Nat) : Bool :=
  fld w 0 7 == 0x0B && fld w 12 3 == 0 && fld w 7 3 == 0 && fld w 10 2 != 2 && fld w 15 1 == 0
    && decide (fld w 16 4 ≤ 8)

/-- A BELAY target is valid for a caller (13 R376). -/
def belayTarget (s : State) (c : Nat) (r : Core) (tag : Nat) (a : Nat) : Bool :=
  let word := leNat (coreView s c a 4)
  a % 4 == 0 && admitted s c 0 .fetch a 4
    && (match portOf a with
        | some n => match deciding s n a with
          | some (_, g) => g.gateway && decide (g.world = 0 ∨ g.world = 2)
          | none => false
        | none => false)
    && isAnchor word && fld word 20 12 == tag && decide (fld word 10 2 ≤ r.priv)

/-- The base context is saved and the summit world entered: KIND, RD, TAG and the register list kept. -/
def Core.enterSummit (r : Core) (resume : Word) (kind rd tag : Nat) (keep : Nat → Bool) (target : Word) : Core :=
  { r with
    bank := r.x, wbepc := resume
    wbinfo := wordOf [r.priv, kind * 4, rd * 8, 256, tag * 512]
    x := (List.range 31).map fun i => if keep (i + 1) then nthD r.x i 0 else 0
    base := false, priv := 3, pc := target }

/-- BELAY (13 R376, R377, R380). -/
def belay (c rd rs1 tag : Nat) (s : State) : State :=
  let r := getCore s c
  let a := r.reg rs1
  if !coreRuns s c then s
  else if !r.base then illegal c s
  else if s.sys.summitRestarting || !s.world.everReady then
    setCore c { r.setReg rd summitRestartingValue with pc := r.pc + 4 } s
  else if belayTarget s c r tag a.toNat then
    let word := leNat (coreView s c a.toNat 4)
    let keep (n : Nat) : Bool := decide (10 ≤ n ∧ n < 10 + fld word 16 4)
    evcAdd 0x80 1 (setCore c (r.enterSummit (r.pc + 4) 0 rd tag keep (a + 4)) s)
  else evcAdd 0x81 1 (excep c 24 a s)

/-- LOWER (13 R379); a halt held for the base world begins (13 R396). -/
def lower (c rs1 : Nat) (s : State) : State :=
  let r := getCore s c
  if !coreRuns s c then s
  else if r.base || r.priv != 3 || !r.wValid || r.wPriv == 2 then illegal c s
  else
    let v := r.reg rs1
    let r1 := { r with x := r.bank }
    let r2 := if r.wKind = 0 then r1.setReg r.wRd v else r1
    setCore c { r2 with wbinfo := BitVec.ofNat 64 (putField r.wbinfo.toNat 8 1 0), base := true
                        priv := r.wPriv, pc := r.wbepc, halted := r.haltHeld } s

/-- A world CSR as read (13 R378). -/
def Core.worldCsr (r : Core) (n : Nat) : Word :=
  match n with
  | 0xFC0 => if r.base then 1 else 0
  | 0x7C0 => if r.trapped then 1 else 0
  | 0x7C1 => r.wbepc
  | 0x7C2 => r.wbinfo
  | 0x7C3 => r.wten
  | _ => r.wsivec

/-- A world CSR as written. TRAPPED is cleared by 0 and not set by 1. -/
def Core.setWorldCsr (r : Core) (n : Nat) (v : Word) : Core :=
  match n with
  | 0x7C0 => { r with trapped := r.trapped && v.getLsbD 0 }
  | 0x7C1 => { r with wbepc := v }
  | 0x7C2 => { r with wbinfo := v &&& 0x1FFFFF }
  | 0x7C3 => { r with wten := v &&& 0x1FF }
  | 0x7C4 => { r with wsivec := v &&& ~~~3 }
  | _ => r

/-! #### The bank of the current world (13 R372, R374, RISC-V privileged specification; PRESUMED, log 127) -/

/-- Machine and supervisor CSRs of a bank, and the counters that lower levels read. There is no PMP and no hypervisor
extension. -/
def isBankCsr (n : Nat) : Bool :=
  [0x100, 0x104, 0x105, 0x106, 0x10A, 0x140, 0x141, 0x142, 0x143, 0x144, 0x180, 0x300, 0x301, 0x302, 0x303, 0x304, 0x305,
    0x306, 0x30A, 0x320, 0x340, 0x341, 0x342, 0x343, 0x344, 0xB00, 0xF11, 0xF12, 0xF13, 0xF14, 0xF15].contains n
  || decide (0x323 ≤ n ∧ n ≤ 0x33F) || decide (0xB02 ≤ n ∧ n ≤ 0xB1F) || decide (0xC00 ≤ n ∧ n ≤ 0xC1F)

/-- Replaces the bits of a number that a mask names. -/
def putMask (old mask v : Nat) : Nat := old - (old &&& mask) + (v &&& mask)

/-- The bits of mstatus that sstatus shows, those that software writes, and the widths that are fixed at 64 bits. -/
def sstatusBits : Nat := 0x80000003000DE762
def mstatusBits : Nat := 0x7E19AA
def fixedWidths : Nat := 0xA00000000

/-- A counter may be read at a level: the levels above have enabled it. -/
def Core.counterOk (r : Core) (n : Nat) : Bool :=
  (r.priv == 3 || bitAt (r.csr 0x306) (n % 32)) && (r.priv != 0 || bitAt (r.csr 0x106) (n % 32))

/-- The core may make the access: at the level that the CSR asks for, and no write of a read-only one. -/
def Core.csrOk (r : Core) (n : Nat) (wr : Bool) : Bool :=
  isBankCsr n && decide (n / 256 % 4 ≤ r.priv) && !(wr && n / 1024 == 3)
    && (n / 256 != 0xC || r.counterOk n) && !(n == 0x180 && r.priv == 1 && bitAt (r.csr 0x300) 20)

/-- A CSR of the current bank as read. misa names RV64IMAC with supervisor and user level; satp is Bare; identities and
the time are values that the spec does not give. -/
def Core.bankCsr (r : Core) (c n : Nat) (free : Word) : Word :=
  if n = 0xF11 ∨ n = 0xF12 ∨ n = 0xF13 ∨ n = 0xF15 then Config.idCsr n
  else if n = 0xC01 then free
  else BitVec.ofNat 64 (match n with
    | 0x100 => (r.csr 0x300 ||| fixedWidths) &&& sstatusBits
    | 0x300 => r.csr 0x300 ||| fixedWidths
    | 0x104 => r.csr 0x304 &&& r.csr 0x303
    | 0x144 => r.csr 0x344 &&& r.csr 0x303
    | 0x180 => 0
    | 0x301 => 0x8000000000141105
    | 0xF14 => c
    | _ => if n / 256 = 0xC then r.csr (0xB00 + n % 256) else r.csr n)

/-- mstatus as written: a reserved MPP keeps the old one. -/
def Core.setStatus (r : Core) (mask v : Nat) : Core :=
  let m := if fld v 11 2 = 2 then mask - (mask &&& 0x1800) else mask
  r.setCsr 0x300 (putMask (r.csr 0x300) m v)

/-- A CSR of the current bank as written. -/
def Core.setBankCsr (r : Core) (n v : Nat) : Core :=
  match n with
  | 0x300 => r.setStatus mstatusBits v
  | 0x100 => r.setStatus (mstatusBits &&& sstatusBits) v
  | 0x104 => r.setCsr 0x304 (putMask (r.csr 0x304) (r.csr 0x303) v)
  | 0x144 => r.setCsr 0x344 (putMask (r.csr 0x344) (r.csr 0x303 &&& 2) v)
  | 0x344 => r.setCsr 0x344 (putMask (r.csr 0x344) 0x222 v)
  | 0x141 | 0x341 => r.setCsr n (v - v % 2)
  | 0x105 | 0x305 => r.setCsr n (putMask v 2 0)
  | 0x180 | 0x301 => r
  | _ => r.setCsr n v

/-- The counters of a core's bank over a pitch: 3,000 cycles of CPU_CLK and the instructions retired, unless mcountinhibit
stops them; the world in which the core ends the pitch counts (DESIGN CHOICE, log 127). -/
def Core.counted (r : Core) (retired : Nat) : Core :=
  let step (r : Core) (bit n k : Nat) : Core := if bitAt (r.csr 0x320) bit then r else r.setCsr n ((r.csr n + k) % 2 ^ 64)
  step (step r 0 0xB00 3000) 2 0xB02 retired

/-- The cores that run count the pitch that ends. -/
def countCores (retired : List Nat) (s : State) : State :=
  (List.range 8).foldl (fun t c => if coreRuns s c then setCore c ((getCore t c).counted (nthD retired c 0)) t else t) s

/-- An access to a CSR: the world CSRs at summit machine level, wworld at machine level, and the bank of the core's world;
any other is an illegal instruction (13 R374, R378). -/
def worldCsrAccess (c csr : Nat) (wr : Option Word) (rd : Nat) (s : State) : State :=
  let r := getCore s c
  let ok := if csr = 0xFC0 then r.priv == 3 && wr.isNone else decide (0x7C0 ≤ csr ∧ csr ≤ 0x7C4) && !r.base && r.priv == 3
  if !coreRuns s c then s
  else if ok then
    let r1 := match wr with | some v => r.setWorldCsr csr v | none => r
    setCore c { r1.setReg rd (r.worldCsr csr) with pc := r.pc + 4 } s
  else if r.csrOk csr wr.isSome then
    let r1 := match wr with | some v => r.setBankCsr csr v.toNat | none => r
    let v := r.bankCsr c csr (BitVec.ofNat 64 (leNat (freeBytes s 8)))
    setCore c { r1.setReg rd v with pc := r.pc + 4 } (if csr = 0xC01 then useBytes 8 s else s)
  else illegal c s

/-- MRET of the current bank (13 R378); below machine level it is illegal. -/
def mret (c : Nat) (s : State) : State :=
  let r := getCore s c
  if !coreRuns s c then s
  else if r.priv ≠ 3 then illegal c s
  else
    let st := r.csr 0x300
    let mpp := fld st 11 2
    let st1 := putField (putField (putField st 3 1 (fld st 7 1)) 7 1 1) 11 2 0
    let st2 := if mpp = 3 then st1 else putField st1 17 1 0
    let r1 := r.setCsr 0x300 st2
    setCore c { r1 with priv := mpp, pc := BitVec.ofNat 64 (r.csr 0x341), trapped := r.trapped && r.base } s

/-! ### Interrupts by world (13 R381-R383, R408) -/

/-- WORLD_IRQ_CFG of a source. -/
def irqOf (s : State) (n : Nat) : Irq := tgetD s.world.irqs n { base := decide (32 ≤ n) }

/-- The source interrupts core `c` of a world. -/
def irqFor (s : State) (base : Bool) (c n : Nat) : Bool :=
  let i := irqOf s n
  i.pend && i.en && !i.claimed && i.base == base && i.cores.getLsbD c

/-- The highest-priority such source, the lowest-numbered of equal priority. -/
def topIrq (s : State) (base : Bool) (c : Nat) : Option Nat :=
  (s.world.irqs.map fun p => p.1).foldl (fun best n =>
    if irqFor s base c n then
      match best with
      | none => some n
      | some b => if (irqOf s b).prio < (irqOf s n).prio then some n else best
    else best) none

/-- Preemption of a core by the summit world: the base context is saved with KIND 1. -/
def preempt (r : Core) (target : Word) : Core :=
  let r1 := r.enterSummit r.pc 1 0 0 (fun _ => false) target
  { r1 with halted := false, haltHeld := r.halted || r.haltHeld }

/-- mcause, MPIE and MIE of a summit interrupt: code 24 (13 R382). -/
def Core.irqCsrs (r : Core) : Core :=
  let st := r.csr 0x300
  (r.setCsr 0x342 (causeWord true 24)).setCsr 0x300 (putField (putField st 7 1 (fld st 3 1)) 3 1 0)

/-- SUMMIT_INTERRUPT on a core (13 R382): taken at once from the base world, and under MIE in the summit
world. During a restart (13 R386) and on C4-C7 while PD04 is not on (18 R540) it stays pending. -/
def summitInterrupt (c : Nat) (s : State) : State :=
  let r := getCore s c
  if s.sys.summitRestarting || (topIrq s false c).isNone || r.parked || r.waits || !dieOn s || decide (8 ≤ c)
      || (decide (4 ≤ c) && !domOn s 4) then s
  else if r.base then
    if r.trapped then restartSummit 2 s
    else evcAdd 0x84 1 (setCore c { (preempt r r.wsivec).irqCsrs with trapped := true } s)
  else if bitAt (r.csr 0x300) 3 && !r.halted then
    if r.trapped then restartSummit 2 s
    else evcAdd 0x84 1 (setCore c { r.enterM true 24 0 with pc := r.wsivec, trapped := true } s)
  else s

/-- The machine external interrupt of the base bank can be taken now: enabled and not masked at its
level, delegated or not. -/
def baseTakes (r : Core) : Bool :=
  let st := r.csr 0x300
  bitAt (r.csr 0x304) 11 &&
    (if r.delegated true 11 || (bitAt (r.csr 0x303) 11 && r.priv == 3) then
       decide (r.priv = 0) || (r.priv == 1 && bitAt st 1)
     else decide (r.priv < 3) || bitAt st 3)

/-- mip.MEIP of the base bank. -/
def Core.setMeip (r : Core) (v : Nat) : Core :=
  { r with csrB := tput r.csrB 0x344 (BitVec.ofNat 64 (putField (tgetD r.csrB 0x344 0).toNat 11 1 v)) }

/-- BASE_INTERRUPT on a core (13 R382). -/
def baseInterrupt (c : Nat) (s : State) : State :=
  let r := getCore s c
  if (topIrq s true c).isNone ∨ 8 ≤ c ∨ dieOn s = false then s
  else
    let r1 := r.setMeip 1
    let s1 := setCore c r1 s
    if r1.base && coreRuns s c && baseTakes r1 then evcAdd 0x85 1 (trapTo c true 11 0 s1) else s1

/-- The read of a claim register: SRC and VALID; the source becomes claimed (13 R383). -/
def claim (base : Bool) (c : Nat) (s : State) : Nat × State :=
  match topIrq s base c with
  | none => (0, s)
  | some n =>
    let i := irqOf s n
    let s1 := { s with world := { s.world with irqs := tput s.world.irqs n { i with pend := false, claimed := true } } }
    (n + 128, if base && (topIrq s1 true c).isNone then setCore c ((getCore s1 c).setMeip 0) s1 else s1)

/-- Completion of a claimed source of a world (13 R383). -/
def irqDone (base : Bool) (n : Nat) (s : State) : State :=
  let i := irqOf s n
  if n < 128 ∧ i.claimed = true ∧ i.base = base then
    { s with world := { s.world with irqs := tput s.world.irqs n { i with claimed := false } } }
  else s

/-! ### Watchdogs, READY and measurements (13 R384, R386-R388) -/

/-- LIMIT of a watchdog in pitches; 0 acts as 1. -/
def wdLimit (s : State) (off : Nat) : Nat := max 1 (fld (rw s off) 0 32)

/-- M = SHA3-384(M || d) for measurement register `n`. -/
def extendMeas (n : Nat) (d : List Byte) (s : State) : State :=
  let m := nthD s.world.meas n []
  { s with world := { s.world with meas := setNth s.world.meas n (crypto .hash [algSha3x384] [m ++ d] 48) } }

/-- The lowest-numbered parked core. -/
def firstParked (s : State) : Option Nat := (List.range 8).find? fun c => (getCore s c).parked

/-- A core starts the firmware at its entry point; without a parked core C0 is preempted (13 R386). -/
def startFirmware (s : State) : State :=
  let entry := BitVec.ofNat 64 s.world.fwEntry
  match firstParked s with
  | some c =>
    let r := getCore s c
    setCore c { r with parked := false, base := false, priv := 3, pc := entry, trapped := false } s
  | none =>
    let r := getCore s 0
    setCore 0 (if r.base then { (preempt r entry).irqCsrs with trapped := true } else { r with pc := entry, priv := 3 }) s

/-! ### Meanings -/

/-- BELAY (13 R376). -/
def execBelay (core rd rs1 tag : Nat) (s : State) : Host.Outcome State Fault Refusal := .next (belay core rd rs1 tag s)

/-- LOWER (13 R379). -/
def execLower (core rs1 : Nat) (s : State) : Host.Outcome State Fault Refusal := .next (lower core rs1 s)

/-- ANCHOR reached by execution: an illegal-instruction exception (13 R375). -/
def execAnchor (core : Nat) (s : State) : Host.Outcome State Fault Refusal :=
  .next (if coreRuns s core then illegal core s else s)

/-- A custom-0 word that the table of 13 R375 does not give. -/
def customIllegal (w : Nat) : Bool :=
  fld w 0 7 == 0x0B &&
    (decide (3 ≤ fld w 12 3) || (fld w 12 3 == 0 && !isAnchor w)
      || (fld w 12 3 == 2 && (fld w 7 5 != 0 || fld w 20 12 != 0)))

/-- A malformed custom-0 word (13 R375). -/
def execGatewayInstructionIllegal (core : Nat) (word : W32) (s : State) : Host.Outcome State Fault Refusal :=
  .next (if coreRuns s core && customIllegal word.toNat then illegal core s else s)

/-- An access to a world CSR (13 R374). -/
def execWorldCsrAccess (core csr : Nat) (wr : Option Word) (rd : Nat) (s : State) :
    Host.Outcome State Fault Refusal := .next (worldCsrAccess core csr wr rd s)

/-- MRET (13 R378). -/
def execMret (core : Nat) (s : State) : Host.Outcome State Fault Refusal := .next (mret core s)

/-- TRAP_ENTRY: a synchronous exception of a core (13 R378). -/
def execTrapEntry (core cause : Nat) (tval : Word) (s : State) : Host.Outcome State Fault Refusal :=
  .next (if coreRuns s core then excep core cause tval s else s)

/-- DOUBLE_TRAP: a trap into summit machine level while TRAPPED is set (13 R385). -/
def execDoubleTrap (core cause : Nat) (_tval : Word) (s : State) : Host.Outcome State Fault Refusal :=
  let r := getCore s core
  .next (if coreRuns s core && !r.base && r.trapped && !r.delegated false cause then restartSummit 2 s else s)

/-- SUMMIT_INTERRUPT (13 R382). -/
def execSummitInterrupt (core : Nat) (s : State) : Host.Outcome State Fault Refusal := .next (summitInterrupt core s)

/-- BASE_INTERRUPT (13 R382). -/
def execBaseInterrupt (core : Nat) (s : State) : Host.Outcome State Fault Refusal := .next (baseInterrupt core s)

/-- A read of WORLD_SCLAIM by a core (13 R383). -/
def execWorldSclaim (core : Nat) (s : State) : Host.Outcome State Fault Refusal :=
  let r := claim false core s
  .next (emit (.read (BitVec.ofNat 64 r.1)) r.2)

/-- A read of WORLD_BCLAIM by a core (13 R383). -/
def execWorldBclaim (core : Nat) (s : State) : Host.Outcome State Fault Refusal :=
  let r := claim true core s
  .next (emit (.read (BitVec.ofNat 64 r.1)) r.2)

/-- A write of WORLD_SDONE (13 R383). -/
def execWorldSdone (src : Nat) (s : State) : Host.Outcome State Fault Refusal := .next (irqDone false src s)

/-- A write of WORLD_BDONE (13 R383). -/
def execWorldBdone (src : Nat) (s : State) : Host.Outcome State Fault Refusal := .next (irqDone true src s)

/-- The summit watchdog's count restarts (13 R384). -/
def swdogKick (s : State) : State := { s with world := { s.world with swCount := 0 } }

/-- The base watchdog's count restarts (13 R384). -/
def bwdogKick (s : State) : State := { s with world := { s.world with bwCount := 0 } }

/-- A write of WORLD_SWDOG_KICK. -/
def execWorldSwdogKick (s : State) : Host.Outcome State Fault Refusal := .next (swdogKick s)

/-- A write of WORLD_BWDOG_KICK. -/
def execWorldBwdogKick (s : State) : Host.Outcome State Fault Refusal := .next (bwdogKick s)

/-- SUMMIT_WATCHDOG_EXPIRY: the count has reached LIMIT (13 R384, R385). -/
def execSummitWatchdogExpiry (s : State) : Host.Outcome State Fault Refusal :=
  .next (
    if s.world.ready && bitAt (rw s 0x120010) 32 && decide (wdLimit s 0x120010 ≤ s.world.swCount) then restartSummit 1 s
    else s)

/-- BASE_WATCHDOG_EXPIRY: EXPIRED, source 1 and F0 source 579 (13 R384). -/
def execBaseWatchdogExpiry (s : State) : Host.Outcome State Fault Refusal :=
  .next (
    if bitAt (rw s 0x120020) 32 && decide (wdLimit s 0x120020 ≤ s.world.bwCount) then
      collect 579 0 0 (raise 1 { s with world := { s.world with bwExpired := true, bwCount := 0 } })
    else s)

/-- WORLD_CTL.RESTART is written (13 R385). -/
def worldRestartWrite (s : State) : State := if dieOn s then restartSummit 3 s else s

/-- WORLD_CTL_RESTART. -/
def execWorldCtlRestart (s : State) : Host.Outcome State Fault Refusal := .next (worldRestartWrite s)

/-- The digest of a summit firmware image, as it is extended into WORLD_MEAS1 (13 R386, R388). -/
def imageDigest (img : List Byte) : List Byte := crypto .hash [algSha3x384] [img] 48

/-- The protected copy of the summit firmware as the loader reads it from HBM (13 R386, 19 R556). -/
def protectedCopy (s : State) : List Byte := readMem s 0x10080000000 s.world.fwLen

/-- SUMMIT_FIRMWARE_COPY_DONE: the measurements are extended with the digest of the bytes copied, which is judged, and
a core starts the firmware (13 R386, R387). A copy that the regions of the NVM loader deny (13 R404) starts nothing, and no
copy ends while its accesses wait (13 R405). -/
def execSummitFirmwareCopyDone (integrityOk : Bool) (s : State) : Host.Outcome State Fault Refusal :=
  .next (
    if portWaits s 0x10080000000 || portWaits s 0x100000 then s
    else if s.sys.summitRestarting then
      let img := protectedCopy s
      let digest := imageDigest img
      let s1 := extendMeas 1 digest { s with world := { s.world with meas := setNth s.world.meas 1 (List.replicate 48 0) } }
      let s2 := extendMeas 3 (ascii "Yalzia restart" ++ leBytes 2 s.world.restarts) s1
      let src := engineAccess 0x1E .read 0x10080000000 s2.world.fwLen none s2
      let dst := engineAccess 0x1E .write 0x100000 s2.world.fwLen none s2
      if integrityOk && digest == s.world.fwDigest then
        if !src.1 then src.2
        else if !dst.1 then dst.2
        else startFirmware { s2 with mem := writeBytes s2.mem 0x100000 img }
      else f3Fault 576 0 s2
    else s)

/-- RESTART_TIMEOUT: 40 ms have passed without READY (13 R387). -/
def execRestartTimeout (s : State) : Host.Outcome State Fault Refusal :=
  .next (
    if s.sys.summitRestarting && decide (s.world.restartAt + 20000 ≤ s.sched.pitch) then
      restartSummit s.world.trigger s
    else s)

end Sys2Proof.Machine
end

