-- ==== Sys2Proof/Machine/Jobs.lean ====
section
/-! DEFINITION. The life of a job: fetch, waits, commit point, execution, release, head advance and
teardown (02 R46-R58, 04 R132-R146, 05 R157-R173). The boundary itself is in Pitch. -/

namespace Sys2Proof.Machine

/-! ### Rings (04 R126) -/

/-- S, the units of a ring. -/
def Queue.units (q : Queue) : Nat := 2 ^ (q.sizeLog2 - 6)

/-- Address of the unit with an index. -/
def unitAddr (q : Queue) (i : Nat) : Nat := q.base + i % q.units * 64

/-- Bytes of `n` units from index `i` on, across the end of the ring. -/
def ringRead (s : State) (q : Queue) : Nat → Nat → List Byte
  | _, 0 => []
  | i, n + 1 => readMem s (unitAddr q i) 64 ++ ringRead s q (i + 1) n

/-- Admin queue slot of a session slot (04 R149). -/
def adminSlot (sess : Nat) : Nat := 1024 + sess

/-- Queue slot of a session's queue number. -/
def queueOf (s : State) (sess qnum : Nat) : Option (Nat × Queue) :=
  s.qm.queues.find? fun p => !p.2.isInternal && p.2.session == sess && p.2.qnum == qnum

/-- Jobs of a queue slot, with their contexts. -/
def jobsOf (s : State) (slot : Nat) : Tab Job := s.sched.jobs.filter fun p => p.2.slot == slot

/-- Table keys of jobs that hold a context; keys from 4,096 on are entries refused without one (02 R58). -/
def ctxLimit : Nat := 4096

/-- Slots from here on are those of jobs run for the partner, one for each; no queue has one (14 R429). -/
def partnerSlot : Nat := 2048

/-! ### The end of an entry at fetch (02 R52) -/

/-- Statistics of a refusal at fetch (06 R206, 07 R227, 09 R280, 11 R347, 04 R152). -/
def countRefusal (h : Header) (st : Nat) (s : State) : State :=
  if st = stKeyExhausted then
    if isLeafOp h.opcode then bump 13 24 1 s
    else if symOps.contains h.opcode then bump 10 6 1 s
    else bump 15 7 1 s
  else if st = stNoContext then bump 10 7 (b2n (holds h.opcode && decide (s.strm.tab.length < 8192))) s
  else if st = stBadLength then s
  else s

/-- The entry names an open stream, which ends with it; a single entry does so when it breaks R160 (05 R162). A
first entry that fails before order 7 ends the open stream that it names too (DESIGN CHOICE, log 77). -/
def endsNamed (h : Header) (st : Nat) : Bool :=
  h.streamId != 0 && (if h.chain = 0 then st == stBadStream else decide (h.chain ≤ 3) && chainable h.opcode)

/-- The open stream that the entry names ends. -/
def endNamed (j : Job) (st : Nat) (s : State) : State := if endsNamed j.hdr st then endStreamOf j s else s

/-- The entry completes at fetch; it is released at the first boundary after the refusal. -/
def refuseAtFetch (ctx : Nat) (j : Job) (st : Nat) (s : State) : State :=
  endJob ctx { j with endsSid := endsNamed j.hdr st } { status := st } (nextBoundary s)
    (endNamed j st (countRefusal j.hdr st s))

/-! ### Fetch (04 R132, 05 R157) -/

/-- The leaves that a build entry computes: 256, or the remainder in the last one (09 R275). -/
def leafHashes (h : Header) (k : Nat) (seed : List Byte) : List Byte :=
  match stSet h.opcode (h.p0 0 8) with
  | some t => crypto .hashSig [1, h.opcode, h.p0 0 8, k] [seed] (t.n * min 256 (t.build - 256 * k))
  | none => []

/-- Changes the context of the stream that a job belongs to. -/
def modStream (j : Job) (f : Stream → Stream) (s : State) : State :=
  { s with strm := { s.strm with tab := s.strm.tab.map fun t => if t.slot == j.slot && j.strm == some t.id then f t else t } }

/-- A FULL-class held stream of a host queue reserves its staging on the partner too (06 R197). -/
def asksStaging (s : State) (j : Job) : Bool :=
  mirroring s && decide (0 < heldBlocks j.hdr) && !(j.hdr.mirror == 1 && honoursState j.hdr)
    && !((getQueue s j.slot).any fun q => q.isInternal)

/-- The first entry of a stream claims its identifier and its staging; later entries count their data
(05 R160, 06 R189, R197). -/
def claimStream (j : Job) (s : State) : State :=
  let h := j.hdr
  if h.chain = 0 then s
  else if h.chain = 1 then
    let t : Stream := {
      slot := j.slot, id := j.order, sid := h.streamId, opcode := h.opcode, part := h.part, mirror := h.mirror
      stateClass := h.mirror == 1 && honoursState h, keyA := h.keyA, keyB := h.keyB, param0 := h.param0, param1 := h.param1
      fetched := dataBytes h, entries := 1, blocks := heldBlocks h, inFlight := 1, lastRelease := s.sched.pitch }
    let q := tgetD s.qm.queues j.slot {}
    let s1 := { s with strm := { s.strm with tab := s.strm.tab ++ [t] } }
    if asksStaging s j then mirror (.staging q.session q.qnum h.streamId (heldBlocks h)) s1 else s1
  else
    let more (t : Stream) : Stream := {
      t with fetched := t.fetched + dataBytes h, entries := t.entries + 1, inFlight := t.inFlight + 1 }
    modStream j more s

/-- The stream that an accepted entry belongs to: its own for a first entry, else the open one that it names. -/
def ownStream (s : State) (j : Job) : Option Nat :=
  if j.hdr.chain = 0 then none
  else if j.hdr.chain = 1 then some j.order
  else (findStream s j.slot j.hdr.streamId).map fun t => t.id

/-- This device signs with stateful keys: the lead, or the second while it holds them (09 R269). -/
def leafHolder (s : State) : Bool := !paired s || isSecond s == s.pair.leafAway

/-- The entropy output that a job still waits for has stopped, so that the job goes to the partner: pool bytes, or
salts of the reserve (10 R296, 11 R324). A stateful signature stays with the holder of its key (09 R269), and LC_CHALLENGE is
an internal draw. -/
def stoppedShort (s : State) (j : Job) : Bool :=
  s.ent.stopped && (decide (0 < j.entNeed) || decide (0 < j.saltNeed)) && j.hdr.opcode != 0x030 && !isLeafOp j.hdr.opcode

/-- The class has no unit in service, or the entropy output that the entry needs has stopped, so the
entry is forwarded; a stateful signature goes to the holder of the key (05 R157 order 15, 09
R269, 10 R296). -/
def mustForward (s : State) (j : Job) : Bool :=
  paired s && j.forPartner.isNone
    && (!classUp s (unitClass j.hdr) || (needsKe j.hdr && !classUp s .ke)
      || (isLeafOp j.hdr.opcode && !leafHolder s && j.leaf.isNone) || stoppedShort s j)

/-- Jobs of the same stream that precede this one have all been released, at an earlier boundary (05
R161). -/
def streamTurn (s : State) (b : Nat) (j : Job) : Bool :=
  j.hdr.chain < 2 || j.forPartner.isSome ||
    (j.strm.all fun id =>
      !(s.sched.jobs.any fun p => p.2.slot == j.slot && p.2.strm == some id && decide (p.2.order < j.order))
        && s.strm.tab.any fun t => t.slot == j.slot && t.id == id && decide (t.lastRelease < b))

/-- Entries of an admin queue run one at a time and in index order, whatever their opcodes (04 R136). -/
def slotTurn (s : State) (j : Job) : Bool :=
  !((getQueue s j.slot).any fun q => q.admin)
    || !(s.sched.jobs.any fun p => p.2.slot == j.slot && decide (p.2.order < j.order))

/-- A job may run from boundary `b` on, here or on the partner, as far as the entries before it go and the partner's
staging (04 R136, 05 R161, 06 R197). -/
def jobTurn (s : State) (b : Nat) (j : Job) : Bool := slotTurn s j && streamTurn s b j && !j.stageWait

/-- A nonce or a creation of this entry that the failed partner had mirrored (14 R426). -/
def replayed (s : State) (j : Job) : Option (List Byte) × Option (List Byte) :=
  match getQueue s j.slot with
  | none => (none, none)
  | some q =>
    if q.isInternal then (none, none)
    else
      let hit (e : Nat × Nat × W32 × List Byte) : Bool := e.1 == q.session && e.2.1 == q.qnum && e.2.2.1 == j.entry
      ((s.pair.peerBinds.find? hit).map fun e => e.2.2.2, (s.pair.peerMade.find? hit).map fun e => e.2.2.2)

/-- Salts of the reserve that no job has reserved. -/
def freeSalts (s : State) : Nat := s.vault.salts.length - (s.sched.jobs.map fun p => p.2.saltHeld).foldl (· + ·) 0

/-- Salt reservations are granted whole and in the order of their requests (11 R324). -/
def serveSalts (s : State) : State :=
  let waiting := (s.sched.jobs.filter fun p => decide (0 < p.2.saltNeed)).mergeSort fun a c => decide (a.2.order ≤ c.2.order)
  (waiting.foldl (fun (r : Bool × State) p =>
    if r.1 && decide (p.2.saltNeed ≤ freeSalts r.2) then
      (true, setJob p.1 { p.2 with saltHeld := p.2.saltNeed, saltNeed := 0 } r.2)
    else (false, r.2)) (true, s)).2

/-- A job goes to the partner for want of a unit, a key or entropy here (09 R280, 10 R308). -/
def sendAway (ctx : Nat) (j : Job) (s : State) : State :=
  let s1 := { s with ent := { s.ent with jobQ := s.ent.jobQ.filter fun p => p.1 != .job ctx } }
  bump 14 11 (b2n (stoppedShort s j)) (bump 13 23 (b2n (isLeafOp j.hdr.opcode && !leafHolder s))
    (forwardJob ctx { j with partialOut := [] } (freeUnits ctx s1)))

/-- The entry has passed its checks: it waits unstarted, with everything that it reserves, or goes to the partner when
its turn has come. -/
def acceptEntry (ctx : Nat) (j : Job) (s : State) : State :=
  let plan := createPlan j.hdr j.input
  let r := replayed s j
  let done := r.2.isSome
  let draw := if r.1.isSome || done then 0 else drawBytes s j.hdr j.input
  let j1 := { j with
    phase := .ready, nonce := r.1, result := r.2.map fun b => { status := stOk, out := b }
    resSlots := if done then [] else pickSlots s plan.length
    resGran := if done then 0 else planGranules plan
    saltNeed := if done then 0 else plan.length
    stageWait := asksStaging s j, strm := ownStream s j
    draw := draw, entNeed := draw, entSince := s.sched.pitch, notBefore := nextBoundary s }
  let s1 := bump 31 4 (b2n (r.1.isSome || done)) (serveSalts (reserveDraw ctx draw (claimStream j1 (setJob ctx j1 s))))
  match (getJob s1 ctx).filter fun k => mustForward s1 k && jobTurn s1 (nextBoundary s1) k with
  | some k => sendAway ctx k s1
  | none => s1

/-- An entry of a queue taken over that is not fetched again (14 R426): its context is given back. -/
def skipEntry (ctx : Nat) (j : Job) (q : Queue) (s : State) : State :=
  let busy := s.sched.jobs.any fun p => p.1 != ctx && p.2.slot == j.slot && p.2.entry == j.entry
  let mark (e : EntRec) : EntRec := if e.index = j.entry && !busy then { e with released := true } else e
  let q1 := { q with skip := q.skip.filter (· != j.entry), entries := q.entries.map mark }
  setQueue j.slot q1 { s with sched := { s.sched with jobs := tdel s.sched.jobs ctx } }

/-- The checks of 05 R157 on an entry whose units have all been read. An entry whose state change the failed
partner has mirrored passed them there, and returns what was mirrored (07 R223, 14 R426). -/
def checkEntry (ctx : Nat) (j : Job) (s : State) : State :=
  match getQueue s j.slot with
  | none => s
  | some q =>
    if q.skip.contains j.entry then skipEntry ctx j q s else
    let st := if (replayed s j).2.isSome then stOk else fetchStatus s j.slot q j.hdr j.input
    if st = stOk then acceptEntry ctx j s else refuseAtFetch ctx j st s

/-- CIDX passes the entry, of which the partner learns (14 R418). -/
def passEntry (slot : Nat) (q : Queue) (e len : Nat) (s : State) : State :=
  let s1 := evcAdd 0x03 1 (bump 2 0 1 (setQueue slot { q with
    entries := q.entries ++ [{ index := BitVec.ofNat 32 e, len }], cidx := idxAdd q.cidx len
    nextGrant := nextBoundary s } s))
  if q.isInternal then s1 else mirror (.queueNext q.session q.qnum (idxAdd q.cidx len)) s1

/-- The class 1 count that gates a job's release once it has made the changes between two states: that of the
frames that mirror them, if any (01 R29). -/
def ownAck (s t : State) (need : Nat) : Nat := if gate1 t = gate1 s then need else max need (gate1 t)

/-- LEN_UNITS obeys 04 R132. -/
def lenUnitsOk (q : Queue) (h : Header) : Bool := decide (1 ≤ h.lenUnits ∧ h.lenUnits ≤ 16384 ∧ h.lenUnits ≤ q.units)

/-- Addresses of `n` ring units from unit `i` on. -/
def unitSpan (q : Queue) (i n : Nat) : List Nat := (List.range n).map fun k => unitAddr q (i + k)

/-- The whole entry is visible: its body is read, CIDX passes it, and it is checked. An entry whose body the
access control denies has ended with that denial (13 R403). -/
def fetchBody (slot ctx : Nat) (q : Queue) (j : Job) (s : State) : State :=
  let body := ringRead s q (q.cidx.toNat + 1) (j.hdr.lenUnits - 1)
  let io := engineBursts 8 .read (unitSpan q (q.cidx.toNat + 1) (j.hdr.lenUnits - 1)) (some ctx) (setJob ctx j s)
  let s1 := passEntry slot q q.cidx.toNat j.hdr.lenUnits io.2
  if io.1 then checkEntry ctx { j with input := body.take j.hdr.inBytes, ackNeed := ownAck io.2 s1 j.ackNeed } s1 else s1

/-- ENTRY_FETCH of a queue: reads the header at CIDX for the context granted, or goes on with an entry
in FETCH_WAIT that is now covered (04 R132). No read ends while its ACU changes its rules (13 R405). -/
def fetchStep (slot : Nat) (s : State) : State :=
  match getQueue s slot, (jobsOf s slot).find? fun p => p.2.phase == .granted || p.2.phase == .fetchWait with
  | some q, some (ctx, j) =>
    let avail := dist q.visible q.cidx
    let h := if j.phase = .granted then decodeHeader (ringRead s q q.cidx.toNat 1) else j.hdr
    let j1 := { j with hdr := h, entry := q.cidx }
    let io := engineAccess 8 .read (unitAddr q q.cidx.toNat) 64 (some ctx) (setJob ctx j1 s)
    if avail = 0 || portWaits s (unitAddr q q.cidx.toNat) then s
    else if j.phase = .granted && !io.1 then passEntry slot q q.cidx.toNat avail io.2
    else if !lenUnitsOk q h then
      let s1 := passEntry slot q q.cidx.toNat avail s
      refuseAtFetch ctx { j1 with ackNeed := ownAck s s1 j1.ackNeed } stBadLength (bump 2 4 1 s1)
    else if h.lenUnits ≤ avail && !(unitSpan q (q.cidx.toNat + 1) (h.lenUnits - 1)).any (portWaits s) then
      fetchBody slot ctx q j1 s
    else setJob ctx { j1 with phase := .fetchWait } s
  | _, _ => s

/-- An entry that is refused without a context: it completes under a key beyond the contexts, and CIDX
passes it (02 R58, 04 R134). It counts as fetched (DESIGN CHOICE, log 100). -/
def refuseBare (slot : Nat) (q : Queue) (h : Header) (st len : Nat) (s : State) : State :=
  let key := ((List.range 4096).map (· + ctxLimit)).find? fun k => (getJob s k).isNone
  let j : Job := { slot, entry := q.cidx, hdr := h, order := s.sched.nextOrder, discard := q.discard }
  let s1 := passEntry slot { q with wait := 0, lateRefuse := false } q.cidx.toNat len s
  endJob (key.getD ctxLimit) { j with endsSid := endsNamed h st, ackNeed := ownAck s s1 0 } { status := st } (nextBoundary s)
    (endNamed j st { s1 with sched := { s1.sched with nextOrder := s1.sched.nextOrder + 1 } })

/-- The refusal of the entry at CIDX with NO_CONTEXT, once it is covered (04 R134). A header that the access control
denies ends the entry as at a fetch (13 R403). -/
def refuseNoContext (slot : Nat) (s : State) : State :=
  match getQueue s slot with
  | none => s
  | some q =>
    let avail := dist q.visible q.cidx
    let h := decodeHeader (ringRead s q q.cidx.toNat 1)
    let io := engineAccess 8 .read (unitAddr q q.cidx.toNat) 64 none s
    if avail = 0 || portWaits s (unitAddr q q.cidx.toNat) then s
    else if !io.1 then refuseBare slot q {} stUnitUnavailable avail io.2
    else if !lenUnitsOk q h then refuseBare slot q h stBadLength avail (bump 2 4 1 s)
    else if h.lenUnits ≤ avail then refuseBare slot q h stNoContext h.lenUnits s
    else setQueue slot { q with lateRefuse := true } s

/-! ### Waits of a ready job -/

/-- The job's key is loaded by a key engine slot before it can start (11 R312): it names a key or opens
a pack. -/
def needsLoad (h : Header) : Bool := needsKe h || h.opcode == 0x511

/-- The traversal state of the job's key is being brought up after a takeover (09 R272). -/
def catchingUp (s : State) (j : Job) : Bool := s.vault.catchUp.any fun e => e.1 == handleSlot j.hdr.keyA

/-- Sign jobs under one key run one at a time, in the order of their leaves; the next starts after the
boundary of the release (09 R271). `notBefore` carries the boundary after the release. -/
def leafTurn (s : State) (j : Job) : Bool :=
  !isLeafOp j.hdr.opcode ||
    (j.leaf.isSome && acked s 1 j.ackNeed && !catchingUp s j
      && !(s.sched.jobs.any fun p =>
          isLeafOp p.2.hdr.opcode && p.2.hdr.keyA == j.hdr.keyA && decide (p.2.leaf.getD (2 ^ 64) < j.leaf.getD 0)))

/-- Everything that an unstarted job waits for is there. -/
def canStart (s : State) (b : Nat) (j : Job) : Bool :=
  j.phase == .ready && jobTurn s b j && decide (j.notBefore ≤ b) && (j.keyLoaded || !needsLoad j.hdr)
    && decide (j.entNeed = 0) && decide (j.saltNeed = 0) && !j.drawWait && leafTurn s j

/-- Classes whose units read their input in the pitch before the first segment (08 R229, 09 R253). -/
def readsAhead (c : UCls) : Bool := c == .pke || c == .lat

/-- The unit that a job takes: the lowest-numbered one of its class in service, idle and not reserved,
other than the unit on which it failed (02 R47, R61). -/
def pickUnit (s : State) (j : Job) : Option Nat :=
  (unitClass j.hdr).units.find? fun u =>
    inService s u && (unitRec s u).job.isNone && !(unitRec s u).reserved && j.badUnit != some u

/-! ### The commit point (04 R141, 07 R221, 11 R321, R339) -/

/-- The checks made again at the commit point: generations, policy and token. A job that has passed it before, or whose
state change is made, passes (02 R54, 04 R146, 07 R223, 14 R426); a stored creation needs its partition as it was (11
R342). -/
def commitStatus (s : State) (j : Job) : Nat :=
  let h := j.hdr
  if j.committed || j.result.isSome then stOk
  else if j.seedGone then stBadHandle else
  let live (hd : Word) : Bool := hd == 0 || ((keyAt s hd).isSome && !condemned s hd)
  if !(live h.keyA && live h.keyB) then stBadHandle
  else if !policyOk s h then stUsageDenied
  else if !(tokenOk s h j.input) then stQuorumRequired
  else stOk

/-- The commit point: the token of a key-management entry is consumed and a first entry opens its
stream. -/
def commitJob (j : Job) (s : State) : State :=
  let s1 := if needsToken s j.hdr && !j.committed && j.result.isNone then consumeToken (j.input.take 16) s else s
  if j.hdr.chain = 1 then modStream j (fun t => { t with opened := true }) s1 else s1

/-- Per-pitch events of a segment on a unit (16 R488). -/
def countSegment (u : Nat) (s : State) : State :=
  if u < 4 then evcAdd (0x10 + u) 1 s
  else if u < 12 then evcAdd 0x18 1 s
  else if u < 20 then evcAdd 0x19 1 s
  else if u < 84 then evcAdd (0x20 + (u - 20) / 16) 1 s
  else if u < 100 then evcAdd 0x28 1 s
  else s

/-! ### Nonces and invocation counters, at the commit point (06 R190-R194) -/

/-- The device uses the second counter of a key: it is the second of an established pair. -/
def usesSecond (s : State) : Bool := paired s && isSecond s

/-- INV of the next invocation of a key on this device. -/
def nextInv (s : State) (o : KeyObj) : Nat := if usesSecond s then o.invSecond else o.invLead

/-- The key with `n` more invocations counted. -/
def advanceInv (s : State) (n : Nat) (o : KeyObj) : KeyObj :=
  if usesSecond s then { o with invSecond := o.invSecond + n } else { o with invLead := o.invLead + n }

/-- Bytes that the entropy subsystem gives to an IV. -/
def ivDraw (op : Nat) : Nat := if op = 0x104 ∨ op = 0x108 then 16 else if op = 0x154 then 8 else 0

/-- The nonce or IV of an invocation (06 R191). -/
def formNonce (op inv : Nat) (salt rnd : List Byte) : List Byte :=
  if [0x120, 0x124, 0x128, 0x12C, 0x140].contains op then padTo 4 salt ++ beBytes 8 inv
  else if op = 0x110 ∨ op = 0x10C then padTo 4 salt ++ beBytes 8 inv ++ [0, 0, 0, 0]
  else rnd

/-- The counter advance and the nonce bound to an entry in the encrypt direction, made once and mirrored as
one state change. -/
def bindNonce (j : Job) (s : State) : Option (List Byte) × State :=
  let n := invocations j.hdr
  match j.nonce, keyAt s j.hdr.keyA with
  | none, some o =>
    if n = 0 then (none, s)
    else
      let v := formNonce j.hdr.opcode (nextInv s o) o.salt (j.rnd.take (ivDraw j.hdr.opcode))
      let o1 := advanceInv s n o
      let name := entryName s j
      let slot := handleSlot j.hdr.keyA
      (some v, mirror (.bind name.1 name.2.1 name.2.2 v slot o1) (countObj slot o1 s))
  | v, _ => (v, s)

/-! ### Starts -/

/-- The keys of a job, as the key engine delivers them. -/
def jobKeys (j : Job) : List Byte := (j.keyA.map fun o => o.mat).getD [] ++ (j.keyB.map fun o => o.mat).getD []

/-- What a unit holds when a run starts on it: the keys, their complement in the shadow of a lane, and the input, in
a lane's buffer or in the local memory (06 R175, R176, 08 R227, R229, 09 R252, R253). -/
def loadedMem (u : Nat) (j : Job) : UnitMem :=
  let k := jobKeys j
  if u < 4 then { key := k, shadow := k.map (~~~ ·), inBuf := j.input.take 65536 }
  else if u < 20 then { key := k }
  else { key := k, work := (k ++ j.input).take (if u < 84 then 65536 else 262144) }

/-- The master under which a unit reaches HBM (13 R398). -/
def unitMaster (u : Nat) : Nat :=
  if u < 4 then 0x0A + u else if u < 20 then 0x0E else if u < 84 then 0x10 + (u - 20) / 16 else if u < 100 then 0x14 else 9

/-- The first output staging block of a job. The blocks lie in the order of the contexts (19 R556, R558; DESIGN
CHOICE, log 89). -/
def stageAddr (s : State) (ctx : Nat) : Nat :=
  0x100C0000000 + 65536 * ((s.sched.jobs.filter fun p => decide (p.1 < ctx)).map fun p => p.2.stage).foldl (· + ·) 0

/-- Bursts of 64 bytes over `n` bytes from an address. -/
def burstsFrom (a n : Nat) : List Nat := (List.range (max 1 (ceilDiv n 64))).map fun k => a + 64 * k

/-- A unit reads the input of its job: the units of its entry behind the header, or what the partner has sent, checked
by the ACU (13 R403, R404). -/
def inputAccess (u ctx : Nat) (j : Job) (s : State) : Bool × State :=
  let l := match getQueue s j.slot with
    | some q => unitSpan q (j.entry.toNat + 1) (j.hdr.lenUnits - 1)
    | none => burstsFrom (stageAddr s ctx) j.input.length
  engineBursts (unitMaster u) .read l (some ctx) s

/-- A unit writes the result of its job to the staging, checked by the ACU (13 R403, R404). -/
def outputAccess (u ctx : Nat) (j : Job) (s : State) : Bool × State :=
  let n := 16 + ((j.result.map fun r => r.out.length).getD 0)
  engineBursts (unitMaster u) .write (burstsFrom (stageAddr s ctx) n) (some ctx) s

/-- The job's first segment starts at boundary `b` on unit `u`, or without a unit. -/
def startJob (ctx : Nat) (j : Job) (u : Option Nat) (b : Nat) (s : State) : State :=
  let st := commitStatus s j
  if st ≠ stOk then bump 15 8 (b2n (st == stBadHandle)) (refuseJob ctx j st (b + 1) s)
  else
    let r := bindNonce j (commitJob j s)
    let s1 := r.2
    let j1 := { j with phase := .running, committed := true, unit := u, started := b, nonce := r.1
                       ackNeed := ownAck s s1 j.ackNeed, due := b + quotaOf j.hdr
                       keyA := if carriesPack j.hdr then some { packObj (packBytes j.hdr j.input) with mat := j.partialOut }
                               else keyAt s1 j.hdr.keyA
                       keyB := keyAt s1 j.hdr.keyB }
    let s2 := setJob ctx j1 (evcAdd 0x5E (b2n (j.forPartner.isSome && j.retries == 0))
      (bump 31 3 (b2n (j.forPartner.isSome && j.retries == 0)) s1))
    match u with
    | some n => countSegment n (setUnit n { unitRec s2 n with
        job := some ctx, seg := true, overrun := false, busyAt := some b, mem := loadedMem n j1 } s2)
    | none => s2

/-! ### Results -/

/-- A result is staged. -/
def stage (ctx : Nat) (j : Job) (r : Res) (s : State) : State :=
  setJob ctx { j with result := some r, made := j.resSlots, resSlots := [], resGran := 0, saltHeld := 0 } s

/-- Staged, and the work of a job without a unit is complete. -/
def stageDone (ctx : Nat) (j : Job) (r : Res) (s : State) : State := stage ctx { j with workDone := true } r s

/-- The row of an opcode acts on its job: past its commit point, without a result. -/
def jobFor (s : State) (ctx op : Nat) : Option Job :=
  (getJob s ctx).filter fun j => j.phase == .running && j.hdr.opcode == op && j.result.isNone

/-- Entries whose result the partner keeps with their state change, so that a replay returns it: not a
ciphertext, which is made again under its nonce, nor a signature, which takes a new leaf (14 R426). -/
def keepsResult (h : Header) : Bool := unitClass h != .lane && !isLeafOp h.opcode

/-- The objects that an entry has created since `s0` in the slots reserved for it. -/
def createdObjs (s0 s : State) (j : Job) : Tab KeyObj :=
  (j.resSlots.filter fun n => (tget s0.vault.objs n).isNone).filterMap fun n => (tget s.vault.objs n).map fun o => (n, o)

/-- The partner learns the result of an entry that has changed the state since `s0`, and in the same frame the objects
that it has created (07 R223, 14 R426). -/
def mirrorMade (s0 : State) (j : Job) (r : Res) (s : State) : State :=
  let n := entryName s j
  let l := createdObjs s0 s j
  if r.status = stOk ∧ (l ≠ [] ∨ (gate1 s ≠ gate1 s0 ∧ keepsResult j.hdr = true)) then
    mirror (.made n.1 n.2.1 n.2.2 r.out l) s
  else s

/-- The same, with the class 1 count of the changes that the job made since `s0` (01 R29). -/
def stageOwn (s0 : State) (ctx : Nat) (j : Job) (r : Res) (s : State) : State :=
  let s1 := mirrorMade s0 j r s
  stageDone ctx { j with ackNeed := ownAck s0 s1 j.ackNeed } r s1

/-- What the row of an opcode leaves for a job that was answered with `r`: the result is staged, what the job made is
mirrored, and the job waits for the acknowledgement of its own changes (01 R29). -/
def answered (s0 : State) (ctx : Nat) (j : Job) (r : State × Res) : State :=
  let k := (getJob r.1 ctx).getD j
  let s1 := mirrorMade s0 k r.2 r.1
  stage ctx { k with ackNeed := ownAck s0 s1 k.ackNeed } r.2 s1

/-- A row of an opcode that runs on a unit: `f` gives the new state and the result. -/
def runOp (op ctx : Nat) (f : Job → State → State × Res) (s : State) : State :=
  match jobFor s ctx op with
  | none => s
  | some j => answered s ctx j (f j s)

/-- Firmware opcodes that act on the mirrored quorum state alone: the partner runs them whole as forwarded jobs. -/
def partnerServes (op : Nat) : Bool :=
  [0x701, 0x702, 0x703, 0x705, 0x710, 0x711, 0x714, 0x715, 0x718, 0x719].contains op

/-- Firmware entries stall while the summit world restarts. In a pair the firmware of the partner serves them meanwhile:
those that act on the mirrored state as forwarded jobs, the others by what they do to this device (01 R28; log 79). -/
def firmStalled (s : State) (op : Nat) : Bool :=
  s.sys.summitRestarting && !(paired s && s.pair.st == 3 && !partnerServes op)

/-- Firmware entries execute one at a time and in order on their admin queue (01 R28, 04 R136). -/
def adminTurn (s : State) (j : Job) : Bool :=
  !firmStalled s j.hdr.opcode && !(s.sched.jobs.any fun p => p.2.slot == j.slot && decide (p.2.order < j.order))

/-- The job of a firmware row that may begin its execution now. -/
def adminFor (s : State) (ctx op : Nat) : Option Job :=
  (getJob s ctx).filter fun j =>
    j.phase == .ready && j.hdr.opcode == op && adminTurn s j && decide (j.entNeed = 0) && !j.drawWait && !j.discard

/-- Execution of a firmware entry begins: its floor counts from this pitch (02 R51). -/
def beginAdmin (j : Job) (s : State) : Job :=
  { j with phase := .running, committed := true, started := s.sched.pitch, due := s.sched.pitch + quotaOf j.hdr }

/-- What a replayed entry answers at once: the output that was mirrored with its state change (14 R426). Creating
or resizing a queue answers a slot of this device, so it does not. -/
def replayResult (j : Job) : Option Res := if j.hdr.opcode ≤ 2 then none else j.result

/-- The execution of a firmware entry begins, unless it is replayed with its result. -/
def asAdmin (op ctx : Nat) (f : Job → State) (s : State) : State :=
  match adminFor s ctx op with
  | none => s
  | some j => match replayResult j with
    | some r => stageDone ctx (beginAdmin j s) r s
    | none => f (beginAdmin j s)

/-- A firmware row that completes at once. -/
def runAdmin (op ctx : Nat) (f : Job → State → State × Res) (s : State) : State :=
  asAdmin op ctx (fun j =>
    let r := f j (setJob ctx j s)
    stageOwn s ctx ((getJob r.1 ctx).getD j) r.2 r.1) s

/-- A refusal of an entry at execution, without output. -/
def fail (st : Nat) (s : State) : State × Res := (s, { status := st })

/-! ### Release (02 R49, R51, 05 R168) -/

/-- Statistics of a release by class and status. A PBKDF2 entry counts as a job released on the device whose core
ran it, and one refused or aborted before it ran does not (07 R226; DESIGN CHOICE, log 92). -/
def countRelease (j : Job) (r : Res) (s : State) : State :=
  let op := j.hdr.opcode
  let s1 := evcAdd 0x04 1 (evcAdd 0x05 (b2n (r.status != stOk)) s)
  let s2 := evcAdd 0x0F (b2n (r.status == stAborted)) (bump 2 1 (b2n (r.status == stAborted)) s1)
  let s3 := evcAdd 0x07 (b2n (r.status == stNoContext)) (bump 2 5 (b2n (r.status == stNoContext)) s2)
  let au := b2n (r.status == stAuthFail)
  let ve := b2n (r.status == stVerifyFail)
  let de := b2n (r.status == stDecapReject)
  let s4 := bump 14 10 (b2n (r.status == stEntropyFail)) s3
  match unitClass j.hdr, j.unit with
  | .lane, _ => if op < 0x200 then bump 10 4 au s4 else bump 11 17 au s4
  | .sha2, _ => bump 11 19 (b2n (isPbkdf op && j.phase == .running)) (bump 11 16 ve (bump 11 17 au s4))
  | .keccak, _ => bump 11 16 ve (bump 11 17 au s4)
  | .pke, u =>
    let s5 := bump 12 4 ve (bump 12 5 de (bump 12 6 au (bump 12 9 (b2n (op == 0x308 && r.status == stOk)) s4)))
    match u with
    | some n => evcAdd (0x24 + (n - 20) / 16) 1 (bump 12 ((n - 20) / 16) 1 s5)
    | none => s5
  | .lat, u =>
    let lf := b2n (isLeafOp op && r.status == stOk)
    let s5 := evcAdd 0x2B lf (bump 13 21 lf (bump 13 16 de (bump 13 17 ve s4)))
    match u with
    | some n => evcAdd 0x29 1 (bump 13 (n - 84) 1 s5)
    | none => s5
  | _, _ => s4

/-- A stream context as it is mirrored: only what has been absorbed counts (05 R167). -/
def Stream.snapshot (t : Stream) : Stream := { t with entries := t.done, fetched := t.doneBytes, inFlight := 0 }

/-- The context of the FULL-class stream of an entry as it stands now; an entry that has ended the open stream that it
names, whatever its own class, leaves an ended one (05 R162, R167). -/
def ctxAfter (s : State) (j : Job) : Option Stream :=
  let gone : Stream := { slot := j.slot, sid := j.hdr.streamId, ended := true }
  if j.endsSid then some gone
  else if j.strm.isNone ∨ (j.hdr.mirror = 1 ∧ honoursState j.hdr = true) then none
  else some ((((jobStream s j).filter fun t => !t.ended).map Stream.snapshot).getD gone)

/-- The entry counts as released in its queue. -/
def markReleased (j : Job) (s : State) : State :=
  { s with qm := { s.qm with queues := tmod s.qm.queues j.slot fun q =>
      { q with entries := q.entries.map fun e =>
          if e.index = j.entry then { e with released := true, ctx := ctxAfter s j } else e } } }

/-- Bytes before the data of an entry: nonce, additional data, function name and customization string
(06 R188, 07 R216). -/
def preBytes (h : Header) : Nat := if symOps.contains h.opcode then symPre h else hashN h + hashS h

/-- The data of an entry, and what precedes it on a first entry. -/
def entryData (j : Job) : List Byte := sliceB j.input (if layFirst j.hdr then preBytes j.hdr else 0) (dataBytes j.hdr)
def entryPre (j : Job) : List Byte := if layFirst j.hdr then j.input.take (preBytes j.hdr) else []

/-- Nonce or IV of a first entry: the one bound to it in the encrypt direction, else the bytes that its
input begins with. -/
def entryIv (j : Job) : List Byte :=
  if j.hdr.opcode % 2 = 0 then j.nonce.getD [] else (entryPre j).take ((entryPre j).length - aadLen j.hdr)

/-- Additional data of a first symmetric entry; the strings of a first hash entry. -/
def entryAad (j : Job) : List Byte :=
  if symOps.contains j.hdr.opcode then (entryPre j).drop ((entryPre j).length - aadLen j.hdr) else entryPre j

/-- LMS_BUILD and XMSS_BUILD. -/
def isBuild (op : Nat) : Bool := op == 0x430 || op == 0x434

/-- The stream with one more entry absorbed. A first build entry gives the template and the seed drawn for
it (09 R275). -/
def absorbed (j : Job) (t : Stream) : Stream :=
  let first := j.hdr.chain == 1
  let seed := if first then j.partialOut else t.seed
  { t with
    leaves := if isBuild j.hdr.opcode then t.leaves ++ leafHashes j.hdr t.done seed else t.leaves
    iv := if first then entryIv j else t.iv
    aad := if first then entryAad j else t.aad
    data := t.data ++ entryData j
    done := t.done + 1
    doneBytes := t.doneBytes + dataBytes j.hdr
    template := if first then j.input.take 64 else t.template
    seed }

/-- A stream that has ended is gone once its last committed entry is released. -/
def endLate (j : Job) (s : State) : State :=
  match (jobStream s j).filter fun t => t.ended with
  | some t => if streamBusy s j.slot t.id j.order then s else dropStream j.slot t.id s
  | none => s

/-- The stream after the release of one of its entries at boundary `b` (05 R160, R162): an entry that ran
and completes with a status other than OK ends it; one refused before it ran ended it then. -/
def streamAfter (b : Nat) (j : Job) (r : Res) (s : State) : State :=
  if j.strm = none then s
  else if r.status ≠ stOk then endLate j (if j.phase = .running then endStreamOf j s else s)
  else if j.hdr.chain = 3 then endStreamOf j s
  else
    endLate j (modStream j (fun t =>
      { absorbed j t with opened := true, lastRelease := b, inFlight := t.inFlight - 1 }) s)

/-- Held-plaintext blocks that pass to the frames of a last entry that verified (06 R198). -/
def heldOf (s : State) (j : Job) (r : Res) : Nat :=
  if r.status == stOk && holds j.hdr.opcode && j.hdr.chain == 3 then ((jobStream s j).map fun t => t.blocks).getD 0 else 0

/-- Bytes over the ring units from unit `i` on, in bursts of at most 64 bytes. -/
def writeRing (master : Nat) (q : Queue) (i : Nat) (b : List Byte) (s : State) : State :=
  (List.range (ceilDiv b.length 64)).foldl (fun t k => engineWrite master (unitAddr q (i + k)) (sliceB b (64 * k) (min 64 (b.length - 64 * k))) t) s

/-- A result of an internal queue: the payload over the entry's own units, as master 0x08 (13 R392). -/
def writeInternal (j : Job) (q : Queue) (r : Res) (s : State) : State :=
  emit (.internalResult j.slot j.entry r) (writeRing 8 q j.entry.toNat (payload j.hdr.tag r) s)

/-- Sends a result where it belongs; with the result of a job run for the partner goes the nonce bound or
the seed drawn for its stream. -/
def deliver (j : Job) (r : Res) (s : State) : State :=
  match j.forPartner, getQueue s j.slot with
  | some id, _ => ropeSend 1 (.forwardResult id r (if isBuild j.hdr.opcode then some j.partialOut else j.nonce)) s
  | none, some q =>
    if q.isInternal then writeInternal j q r s
    else if j.discard then s
    else sendResult q.session q.qnum j.entry (payload j.hdr.tag r) j.stage (heldOf s j r) s
  | none, none => s

/-- The job's result is released at boundary `b` and its context freed. -/
def releaseJob (ctx : Nat) (j : Job) (r : Res) (b : Nat) (s : State) : State :=
  let s1 := replicateRelease j r (deliver j r (countRelease j r s))
  let s2 := markReleased j (streamAfter b j r s1)
  let later (p : Nat × Job) : Nat × Job :=
    if isLeafOp j.hdr.opcode && isLeafOp p.2.hdr.opcode && p.2.hdr.keyA == j.hdr.keyA then
      (p.1, { p.2 with notBefore := max p.2.notBefore (b + 1) })
    else p
  let free (x : UnitRec) : UnitRec := if x.job = some ctx then { x with job := none, seg := false } else x
  let us := match j.unit with
    | some u => tmod s2.units u free
    | none => s2.units
  { s2 with
    sched := { s2.sched with jobs := (tdel s2.sched.jobs ctx).map later }
    units := us
    strm := { s2.strm with tab := s2.strm.tab.filter fun t => j.forPartner.isNone || t.slot != j.slot }
    ent := { s2.ent with jobQ := s2.ent.jobQ.filter fun p => p.1 != .job ctx } }

/-- The job can be released at boundary `b`. A Q_COMMIT whose cairn record waits for a free buffer entry
waits with it (15 R468), and its result stalls while the summit world restarts (13 R408). -/
def releasable (s : State) (b : Nat) (j : Job) : Bool :=
  (j.phase == .completed || j.phase == .running) && j.workDone && decide (j.due ≤ b) && acked s 1 j.ackNeed
    && (j.hdr.opcode != 0x704 || (s.cairn.waiting.isEmpty && !firmStalled s 0x704))

/-- ENT_STATUS names the pitch of its release (10 R301). -/
def stampPitch (j : Job) (b : Nat) (r : Res) : Res :=
  if j.hdr.opcode = 0x608 ∧ r.status = stOk then { r with out := r.out.take 8 ++ leBytes 8 b } else r

/-- Every job that can be released at `b` is, in the order of the context grants. -/
def releaseAll (b : Nat) (s : State) : State :=
  s.sched.jobs.foldl (fun t p =>
    match getJob t p.1 with
    | some j => match j.result with
      | some r => if releasable t b j then releaseJob p.1 j (stampPitch j b r) b t else t
      | none => t
    | none => t) s

/-! ### CHEAD (04 R135, 01 R33) -/

/-- Units of the run of released entries at the front. -/
def releasedRun : List EntRec → Nat × List EntRec
  | [] => (0, [])
  | e :: t => if e.released then let r := releasedRun t; (e.len + r.1, r.2) else (0, e :: t)

/-- The stream contexts of a queue after one more entry is covered by its head (05 R167). -/
def headContext (l : List Stream) (e : EntRec) : List Stream :=
  match e.ctx with
  | none => l
  | some t => (l.filter fun x => x.sid != t.sid) ++ (if t.ended then [] else [t])

/-- The head record and the tenant line of an internal queue (13 R392). -/
def writeHead (slot : Nat) (q : Queue) (s : State) : State :=
  let record := leBytes 4 q.chead.toNat ++ leBytes 4 q.applied.toNat ++ leBytes 8 s.sched.pitch ++ List.replicate 48 0
  let s1 := engineWrite 8 q.headAddr record s
  match s1.world.tfs.find? fun p => p.1 == q.session with
  | some (_, t) => raise t.line (setQueue slot q s1)
  | none => setQueue slot q s1

/-- CHEAD becomes `h`; the host is told by one HEAD frame. -/
def moveHead (slot : Nat) (q : Queue) (h : W32) (s : State) : State :=
  if h = q.chead then s
  else
    let q1 := { q with chead := h }
    let s1 := setQueue slot q1 s
    if q.isInternal then writeHead slot q1 s1
    else if q.discard then s1
    else tolSend q.session (.head q.qnum h q.applied) 0 0 s1

/-- The head advance of a queue at a boundary: at once when unpaired or internal, else after the
partner's acknowledgement of its mirror. A teardown whose last entry has been released moves the head itself,
so that one HEAD frame tells of both (04 R135, R142). -/
def advanceHead (slot : Nat) (s : State) : State :=
  match getQueue s slot with
  | none => s
  | some q =>
    let ready := q.headGates.filter fun g => acked s 1 g.1
    let h1 := (ready.getLast?.map fun g => g.2).getD q.chead
    let run := releasedRun q.entries
    let last := (q.headGates.getLast?.map fun g => g.2).getD q.chead
    let target := idxAdd last run.1
    let covered := q.entries.take (q.entries.length - run.2.length)
    let q1 := { q with entries := run.2, headStreams := covered.foldl headContext q.headStreams, headGates := q.headGates.filter fun g => !acked s 1 g.1 }
    if run.1 = 0 ∨ (q.tearP.isSome ∧ run.2.isEmpty) then moveHead slot q1 h1 (setQueue slot q1 s)
    else if paired s && !q.isInternal then
      let s1 := ropeSend 1 (.head q.session q.qnum target q1.headStreams) (setQueue slot q1 s)
      let q2 := { q1 with headGates := q1.headGates ++ [(gate1 s1, target)] }
      moveHead slot q2 h1 (setQueue slot q2 s1)
    else moveHead slot q1 target (setQueue slot q1 s)

/-! ### Teardown (04 R142-R146) -/

/-- Not past its commit point. -/
def isUncommitted (j : Job) : Bool :=
  j.phase == .granted || j.phase == .fetchWait || (j.phase == .ready && !j.committed)

/-- An uncommitted entry completes with ABORTED at once; an assigned leaf is burnt (09 R272). -/
def abortJob (b ctx : Nat) (j : Job) (s : State) : State :=
  releaseJob ctx { j with unit := none } { status := stAborted } b (burnLeaf j (endStreamOf j s))

/-- Index order of the jobs of a queue. -/
def byIndex (q : Queue) (l : Tab Job) : Tab Job :=
  l.mergeSort fun a c => decide (dist a.2.entry q.chead ≤ dist c.2.entry q.chead)

/-- An entry of a queue taken over that completes without being fetched: the teardown waits for its job. -/
def awaitJob (slot : Nat) (i : W32) (n : Nat) (s : State) : State :=
  let busy := s.sched.jobs.any fun p => p.2.slot == slot && p.2.entry == i
  match getQueue s slot with
  | some q => setQueue slot { q with
      skip := q.skip.filter (· != i), entries := q.entries ++ [{ index := i, len := n, released := !busy }] } s
  | none => s

/-- Entries still in the ring from CIDX up to P: their results are sent and nothing else is left of them
(04 R142 steps 2 and 3); a header that the access control denies (13 R404) ends at P. `wait` says that the first of them is in FETCH_WAIT, so that it ends at P. Answers the
number aborted. -/
def abortRing (b slot : Nat) (q : Queue) (p : W32) : Nat → Bool → W32 → Nat → State → Nat × State
  | 0, _, _, k, s => (k, s)
  | fuel + 1, wait, i, k, s =>
    let left := dist p i
    if left = 0 then (k, s)
    else
      let io := engineAccess 8 .read (unitAddr q i.toNat) 64 none s
      let h := if io.1 then decodeHeader (ringRead s q i.toNat 1) else {}
      let n := if lenUnitsOk q h ∧ h.lenUnits ≤ left ∧ wait = false then h.lenUnits else left
      let j : Job := { slot, entry := i, hdr := h, discard := q.discard }
      let s1 := endNamed j stAborted io.2
      if q.skip.contains i then abortRing b slot q p fuel false (idxAdd i n) k (awaitJob slot i n io.2)
      else abortRing b slot q p fuel false (idxAdd i n) (k + 1)
        (deliver j { status := stAborted } (countRelease j { status := stAborted } s1))

/-- The effect boundary of a reset or destroy. PIDX (visible) becomes P too, whatever the partner has acknowledged
(DESIGN CHOICE, log 78). A destroy that replaces a reset goes on from the reset's P (R145), and a teardown taken over keeps the P of the
failed device (R146): what that device had committed or released beyond RHEAD completes with ABORTED too (DESIGN CHOICE, log
121). -/
def beginTeardown (b slot : Nat) (s : State) : State :=
  match getQueue s slot with
  | none => s
  | some q =>
    let p := q.tearTo.getD q.applied
    let start := q.tearP.getD q.cidx
    let gone := decide (q.tearAsk = 2)
    let st : QState := if gone then .tearing else .resetting
    let q1 := { q with st := st, tearP := some p, tearTo := none, tearAsk := 0, visible := p, pidxGate := [], lateRefuse := false, wait := 0 }
    let fetching := (jobsOf s slot).filter fun e => e.2.phase == .granted || e.2.phase == .fetchWait
    let waiting := byIndex q ((jobsOf s slot).filter fun e => isUncommitted e.2 && e.2.phase == .ready)
    let s1 := waiting.foldl (fun t e => abortJob b e.1 e.2 t) (setQueue slot q1 s)
    let s2 := fetching.foldl (fun t e => { t with sched := { t.sched with jobs := tdel t.sched.jobs e.1 } }) s1
    let inWait := (fetching.any fun e => e.2.phase == .fetchWait) || q.lateRefuse
    let r := abortRing b slot q1 p (dist p start + 1) inWait start 0 s2
    let s3 := if q.isInternal then r.2 else mirror (.queueTear q.session q.qnum gone p) r.2
    match getQueue s3 slot with
    | some q2 => setQueue slot { q2 with aborted := q.aborted + waiting.length + r.1 } s3
    | none => s3

/-- The result of the command that asked for a teardown (04 R138). -/
def tearResult (q : Queue) : Res := { out := leBytes 4 q.aborted ++ leBytes 4 q.chead.toNat }

/-- The streams of a queue end (05 R162). -/
def endQueueStreams (slot : Nat) (s : State) : State :=
  (s.strm.tab.filter fun t => t.slot == slot).foldl (fun t e => endStreamId slot e.id (2 ^ 64) t) s

/-- What step 5 leaves of the queue: an active one at P, or none. The result of a teardown that the failed partner had
begun is kept for its command, which comes again (04 R146). -/
def finishTeardown (slot : Nat) (q : Queue) (s : State) : State :=
  let s1 := endQueueStreams slot s
  let gone := q.st == .tearing
  let q1 := { q with st := .active, tearP := none, tearJob := none, aborted := 0, headStreams := [] }
  let s2 := if gone then { s1 with qm := { s1.qm with queues := tdel s1.qm.queues slot } } else setQueue slot q1 s1
  if q.isInternal then
    { s2 with world := { s2.world with iqBusy := false, iqDone := true, iqStatus := 0, iqSlot := slot } }
  else
    let s3 := if gone then mirror (.queueDel q.session q.qnum) s2
              else mirror (.queuePut q.session q.qnum q.sizeLog2 q1.applied q1.cidx q1.chead) s2
    match q.tearJob.bind fun ctx => (getJob s3 ctx).map fun j => (ctx, j) with
    | some (ctx, j) => stageOwn s2 ctx j (tearResult q) s3
    | none => { s3 with tol := { s3.tol with sess := tmod s3.tol.sess q.session fun x =>
        if x.st = 2 then { x with torn := x.torn ++ [(q.qnum, gone, tearResult q)] } else x } }

/-- Step 5 of 04 R142 for a queue whose entries below P have all been released. -/
def teardownStep (slot : Nat) (s : State) : State :=
  match getQueue s slot with
  | none => s
  | some q =>
    match q.tearP with
    | none => s
    | some p =>
      let last := (q.headGates.getLast?.map fun g => g.2).getD q.chead
      if !q.entries.isEmpty then s
      else if last ≠ p && paired s && !q.isInternal then
        let s1 := ropeSend 1 (.head q.session q.qnum p []) s
        setQueue slot { q with cidx := p, headGates := q.headGates ++ [(gate1 s1, p)] } s1
      else if !q.headGates.isEmpty then s
      else
        let q1 := { q with cidx := p }
        let s1 := moveHead slot q1 p (setQueue slot q1 s)
        finishTeardown slot { q1 with chead := p } s1

end Sys2Proof.Machine
end

