-- ==== Sys2Proof/Machine/Entropy.lean ====
section
/-! DEFINITION. The entropy subsystem: draws and their priority, noise banks, the pool, ENT_DATA, the
known-answer port and the random opcodes (10). -/

namespace Sys2Proof.Machine

/-! ### Draws (10 R297) -/

/-- The output can serve: open, not stopped, PD14 on. -/
def entServes (s : State) : Bool := s.ent.isOpen && !s.ent.stopped && domOn s 14

/-- The pool can grant `n` bytes whole. -/
def canGrant (s : State) (n : Nat) : Bool := entServes s && decide (n ≤ s.ent.pool.length)

/-- The oldest `n` pool bytes are granted to an internal consumer and erased from the pool (10 R289). -/
def grantInternal (n : Nat) (s : State) : State :=
  evcAdd 0x38 n (bump 14 6 n { s with ent := { s.ent with pool := s.ent.pool.drop n } })

/-- An internal consumer can be served at once: nothing is before it. -/
def canDrawNow (s : State) (n : Nat) : Bool := s.ent.internalQ.isEmpty && canGrant s n

/-- Queues an internal request. -/
def requestDraw (d : Draw) (n : Nat) (s : State) : State :=
  { s with ent := { s.ent with internalQ := s.ent.internalQ ++ [(d, n)] } }

/-- A firmware row that may draw `n` bytes when it executes. `plan` is what its execution does before any
draw, with the result where it ends there; `f` completes it with the bytes drawn. The row completes at once
when the pool can serve it, else it waits for its grant and acts again (10 R297, 12 R586). -/
def runDraw (op ctx n : Nat) (d : Draw) (plan : Job → State → State × Option Res)
    (f : Job → List Byte → State → State × Res) (s : State) : State :=
  match adminFor s ctx op with
  | some j =>
    let j1 := beginAdmin j s
    let r := match replayResult j with
      | some res => (s, some res)
      | none => plan j1 (setJob ctx j1 s)
    let j2 := (getJob r.1 ctx).getD j1
    match r.2 with
    | some res => stageOwn s ctx j2 res r.1
    | none =>
      if canDrawNow r.1 n then
        let q := f j2 (r.1.ent.pool.take n) (grantInternal n r.1)
        stageOwn s ctx ((getJob q.1 ctx).getD j2) q.2 q.1
      else requestDraw d n (setJob ctx { j2 with drawWait := true, ackNeed := ownAck s r.1 j2.ackNeed } r.1)
  | none =>
    match jobFor s ctx op with
    | some j => match j.nonce with
      | some b =>
        let q := f j b (setJob ctx { j with nonce := none } s)
        stageOwn s ctx ((getJob q.1 ctx).getD j) q.2 q.1
      | none => s
    | none => s

/-- The words of the ENT_DATA FIFO that the oldest pool block gives. The spec does not say how its bytes lie in
them: the first at the low end (DESIGN CHOICE, log 90). -/
def fifoWords (s : State) : List Word :=
  (List.range 4).map fun i => BitVec.ofNat 64 (leAt s.ent.pool (8 * i) 8)

/-- One block moves from the pool to the ENT_DATA FIFO. -/
def refillFifo (s : State) : State :=
  { s with ent := { s.ent with
      fifo := s.ent.fifo ++ fifoWords s, pool := s.ent.pool.drop 32, share := s.ent.share - 15 } }

/-- The head of the job reservations is granted whole: the job holds its bytes. -/
def grantJob (ctx n : Nat) (rest : List (Draw × Nat)) (s : State) : State :=
  let s1 := evcAdd 0x39 n (bump 14 7 n { s with
    ent := { s.ent with
      pool := s.ent.pool.drop n
      jobQ := rest
      share := if s.ent.fifo.length ≤ 60 then s.ent.share + ceilDiv n 32 else 0 } })
  match getJob s1 ctx with
  | some j => setJob ctx { j with entNeed := 0, rnd := s.ent.pool.take n } s1
  | none => s1

/-- One grant of the second priority: the FIFO takes one block in 16 while both wait (10 R297). -/
def grantSecond (s : State) : State :=
  let room := decide (s.ent.fifo.length ≤ 60)
  match s.ent.jobQ with
  | (.job ctx, n) :: rest =>
    if room && decide (15 ≤ s.ent.share) && canGrant s 32 then refillFifo s
    else if canGrant s n then grantJob ctx n rest s else s
  | _ :: rest => { s with ent := { s.ent with jobQ := rest } }
  | [] => if room && canGrant s 32 then refillFifo s else s

/-! ### Banks (10 R283-R296) -/

def getBank (s : State) (b : Nat) : Bank := tgetD s.ent.banks b {}

def setBank (b : Nat) (k : Bank) (s : State) : State :=
  { s with ent := { s.ent with banks := tput s.ent.banks b k } }

/-- A signed user offset of CAL_USR_ENT in force. -/
def calEnt (s : State) (lo w : Nat) : Int := signed (fld (inForce s 0x1A0010) lo w) w

/-- Effective thresholds RCT, APT, BIAS_MAX, CORR_MAX: the factory values with the user offsets, clamped
(10 R285, R286). -/
def entThr (s : State) : Nat × Nat × Nat × Nat :=
  ((clampI 21 41 (41 + calEnt s 0 8)).toNat, (clampI 700 795 (795 + calEnt s 8 8)).toNat,
   (clampI 512 4096 (4096 + calEnt s 16 16)).toNat, (clampI 256 2048 (2048 + calEnt s 32 16)).toNat)

/-- Thresholds of an estimator window that opens now. -/
def windowThr (s : State) : Nat × Nat := ((entThr s).2.2.1, (entThr s).2.2.2)

/-- Cutoffs of an APT window that opens now. -/
def windowCut (s : State) : Nat × Nat := ((entThr s).1, (entThr s).2.1)

/-- The windows of a bank start over (10 R291, R293). -/
def newWindows (s : State) (k : Bank) : Bank := { k with thr := windowThr s, cut := windowCut s }

/-- A bank is quarantined: pending blocks discarded, F1 (10 R294). -/
def quarantine (b cause cell : Nat) (s : State) : State :=
  let k := getBank s b
  let idx := if cause = 1 then 2 else if cause = 2 then 3 else 4
  let cl := if cause ≤ 2 then cell else 0
  let s1 := setBank b { k with st := 4, cause := cause, cell := cl, pitch := s.sched.pitch, pendingBlocks := [] } s
  raise 6 (collect 448 1 b (bump 14 idx (b2n (cause != 8)) (bump 14 1 k.pendingBlocks.length s1)))

/-- A conditioner leaves service for good: its pending blocks are discarded (10 R295). -/
def dropConditioner (c : Nat) (s : State) : State :=
  let n := (s.ent.banks.map fun p => (p.2.pendingBlocks.filter (·.cond == c)).length).foldl (· + ·) 0
  let keep (k : Bank) : Bank := { k with pendingBlocks := k.pendingBlocks.filter (·.cond != c) }
  bump 14 1 n { s with ent := { s.ent with banks := tmap s.ent.banks fun _ k => keep k } }

/-- A known-answer failure of a conditioner: F2 source 449, fenced (10 R293, R295). -/
def condFault (c : Nat) (s : State) : State :=
  raise 6 (entStop (fenceUnit (108 + c) (s.sched.pitch + 2) (dropConditioner c (collect 449 2 c s))))

/-- Blocks that still fit the pool. -/
def poolRoom (s : State) : Nat := (32768 - s.ent.pool.length) / 32

/-! ### Meanings: startup (10 R293) -/

/-- ENTROPY_STARTUP: PD14 has reached its operating range. Quarantined banks and fenced conditioners stay
out until the next STARTUP. -/
def execEntropyStartup (s : State) : Host.Outcome State Fault Refusal :=
  .next (
    if dieOn s && domOn s 14 && !s.ent.starting && !s.ent.isOpen then
      let start (t : Tab Bank) (b : Nat) : Tab Bank :=
        let k := tgetD t b {}
        if k.st = 4 then t else tput t b { st := 3, bias := k.bias, corr := k.corr, windows := k.windows }
      raise 6 { s with ent := { s.ent with starting := true, banks := (List.range 16).foldl start s.ent.banks } }
    else s)

/-- ENTROPY_STARTUP_TESTS_END: banks become healthy or quarantined, conditioners enter service or are
fenced, conditioning starts. -/
def execEntropyStartupTestsEnd (badBanks badConds : List Nat) (s : State) : Host.Outcome State Fault Refusal :=
  .next (
    if s.ent.starting then
      let s1 := { s with ent := { s.ent with
        starting := false
        banks := tmap s.ent.banks fun b k =>
          if k.st = 3 && !badBanks.contains b then newWindows s { k with st := 1, lastRecal := s.sched.pitch } else k } }
      let s2 := ((List.range 16).filter fun b => (getBank s1 b).st == 3).foldl (fun t b => quarantine b 8 0 t) s1
      let up (t : State) (c : Nat) : State :=
        if (unitRec t (108 + c)).st = .fenced then t
        else setUnit (108 + c) { unitRec t (108 + c) with st := .inService, lastPass := t.sched.pitch } t
      let s3 := (List.range 4).foldl up s2
      raise 6 <| entStop (((List.range 4).filter fun c => badConds.contains c).foldl (fun t c => condFault c t) s3)
    else s)

/-- ENTROPY_OUTPUT_OPEN: 2 us after the window close that brought the pool to 4 KiB. The salt reserve is
brought to 4,096 salts, each by an internal request of 4 bytes (11 R324, 10 R298; DEDUCED, log 15). -/
def execEntropyOutputOpen (s : State) : Host.Outcome State Fault Refusal :=
  .next (
    if s.ent.opening && !s.ent.stopped && !s.ent.isOpen then
      let asked := (s.ent.internalQ.filter fun p => p.1 == Draw.salts).length
      let s1 := raise 6 { s with ent := { s.ent with isOpen := true, opening := false } }
      refillSalts (4096 - s.vault.salts.length - asked) s1
    else s)

/-! ### Meanings: tests and conditioning -/

/-- APT_WINDOW_CLOSE: the bank's pending blocks are validated into the pool as far as it has room (10
R288); those without room stay pending until the bank's next close (DESIGN CHOICE, log 123); the first close that brings it to 4 KiB arms the output (10 R293); the next window opens with the
cutoffs in force. -/
def execAptWindowClose (bank : Nat) (s : State) : Host.Outcome State Fault Refusal :=
  let k := getBank s bank
  .next (
    if k.st = 1 ∧ bank < 16 then
      let n := min k.pendingBlocks.length (poolRoom s)
      let left := (k.pendingBlocks.drop n).map fun x => { x with tested := true }
      let s1 := bump 14 0 n (setBank bank { k with pendingBlocks := left, cut := windowCut s } s)
      let pool := s1.ent.pool ++ ((k.pendingBlocks.take n).map fun x => x.bytes).flatten
      { s1 with ent := { s1.ent with
          pool := pool
          opening := s1.ent.opening || (!s1.ent.isOpen && !s1.ent.stopped && decide (4096 ≤ pool.length)) } }
    else s)

/-- Bit numbers below `n` that satisfy `p`, as a number. -/
def bitsOf (n : Nat) (p : Nat → Bool) : Nat := ((List.range n).map fun i => if p i then 2 ^ i else 0).foldl (· + ·) 0

/-- An input block: 16 consecutive samples of each of a bank's 64 cells. Sample `i` of cell `c` lies at bit `i mod
8` of byte `2c + i / 8` (10 R287). -/
def inputBlock (s : State) : List Byte :=
  (List.range 128).map fun k =>
    BitVec.ofNat 8 (bitsOf 8 fun b => Config.noise (s.freeCtr + 16 * (k / 2) + (8 * (k % 2) + b)))

/-- The bank whose turn it is: the first healthy one in round-robin order (10 R287). -/
def nextBank (s : State) : Option Nat :=
  ((List.range 16).map fun i => (s.ent.rr + i) % 16).find? fun b => (getBank s b).st == 1

/-- CONDITIONER_BLOCK_DONE: the SHA3-256 digest of the next bank's input block becomes pending, unless the pool
is full or the pending stage holds 1,024 blocks (10 R287, R288). -/
def execConditionerBlockDone (cond bank : Nat) (s : State) : Host.Outcome State Fault Refusal :=
  let k := getBank s bank
  let held : Nat := (s.ent.banks.map fun p => p.2.pendingBlocks.length).foldl (· + ·) 0
  .next (
    if cond < 4 && inService s (108 + cond) && unitIdle s s.sched.pitch (108 + cond) && !(unitRec s (108 + cond)).reserved
        && nextBank s == some bank && decide (0 < poolRoom s)
        && decide (held < 1024) && !s.ent.stopped then
      let x : Block := { cond, bytes := crypto .hash [algSha3x256] [inputBlock s] 32 }
      let s1 := setBank bank { k with pendingBlocks := k.pendingBlocks ++ [x] } (useBytes 1024 s)
      { s1 with ent := { s1.ent with rr := (bank + 1) % 16 } }
    else s)

/-- A signed Q1.15 value out of its threshold. -/
def estBad (v limit : Nat) : Bool := decide ((limit : Int) < (signed v 16).natAbs)

/-- `x / 32` rounded to the nearest, a half away from zero (DESIGN CHOICE, log 91). -/
def roundDiv32 (x : Int) : Int := if x < 0 then -((-x + 16) / 32) else (x + 16) / 32

/-- A signed Q1.15 number; what the format cannot hold is a free value (DESIGN CHOICE, log 91). -/
def q15 (s : State) (i : Nat) (x : Int) : Nat :=
  if x < -32768 ∨ 32767 < x then leAt (freeBytes s 10) (2 * i) 2 else (x % 65536).toNat

/-- The values of a window from its statistics: BIAS of `ones` ones among the 2^20 samples of its 64 cells, and
CORR of each averaged autocorrelation, given in units of 2^-20 as a 32-bit two's complement number (10 R285). -/
def estimates (s : State) (ones : Nat) (corrs : List Nat) : List Nat :=
  q15 s 0 (roundDiv32 (2 * ones - 2 ^ 20))
    :: (List.range 4).map fun i => q15 s (i + 1) (roundDiv32 (signed (nthD corrs i 0) 32))

/-- ESTIMATOR_WINDOW_CLOSE: BIAS and CORR1-CORR4 of the window, judged by the thresholds in force when it
opened (10 R285, R286). -/
def execEstimatorWindowClose (bank ones : Nat) (corrs : List Nat) (s : State) : Host.Outcome State Fault Refusal :=
  let k := getBank s bank
  let ests := estimates s ones corrs
  let e (i : Nat) : Nat := nthD ests i 0
  let k1 := { k with
    bias := BitVec.ofNat 16 (e 0), corr := (List.range' 1 4).map fun i => BitVec.ofNat 16 (e i)
    windows := satAdd 32 k.windows 1, thr := windowThr s }
  .next (
    if k.st = 1 ∧ bank < 16 then
      let s1 := setBank bank k1 (useBytes 10 s)
      match (List.range 5).find? fun i => estBad (e i) (if i = 0 then k.thr.1 else k.thr.2) with
      | some i => entStop (quarantine bank (3 + i) 0 s1)
      | none => s1
    else s)

/-- The value that a test reaches fails it: RCT (1) and APT (2) at the cutoff of the running window, an estimator
(3-7) above the threshold of its window (10 R284-R286). -/
def testFails (k : Bank) (cause value : Nat) : Bool :=
  match cause with
  | 1 => decide (k.cut.1 ≤ value)
  | 2 => decide (k.cut.2 ≤ value)
  | 3 => estBad value k.thr.1
  | 4 | 5 | 6 | 7 => estBad value k.thr.2
  | _ => false

/-- An estimator that fails (CAUSE 3-7) ends its bank's window: its value is what failed, the others are those that the
window gave, which the command does not carry (free values), and the window counts (10 R285, R305). -/
def failedWindow (bank cause value : Nat) (s : State) : State :=
  if cause < 3 then s
  else
    let k := getBank s bank
    let e (i : Nat) : BitVec 16 := BitVec.ofNat 16 (if cause = 3 + i then value else leAt (freeBytes s 10) (2 * i) 2)
    setBank bank { k with
      bias := e 0, corr := (List.range' 1 4).map e, windows := satAdd 32 k.windows 1, thr := windowThr s } (useBytes 10 s)

/-- HEALTH_TEST_FAIL: an RCT, APT or estimator failure quarantines the bank (10 R294, R296). -/
def execHealthTestFail (bank cause cell value : Nat) (s : State) : Host.Outcome State Fault Refusal :=
  .next (
    if (getBank s bank).st = 1 ∧ bank < 16 ∧ testFails (getBank s bank) cause value = true then
      entStop (quarantine bank cause (cell % 64) (failedWindow bank cause value s))
    else s)

/-! ### Meanings: ENT_DATA and the known-answer port (10 R299, R307) -/

/-- A read of ENT_DATA. -/
def entDataRead (width64 devMtype : Bool) (s : State) : State :=
  if !devMtype then emit .busError s
  else if !width64 then emit (.read 0) (collect (32 * 14 + 31) 0 0 s)
  else match s.ent.fifo with
    | w :: rest => emit (.read w) (evcAdd 0x3B 1 (bump 14 8 1 { s with ent := { s.ent with fifo := rest } }))
    | [] => emit (.read 0) (bump 14 9 1 { s with ent := { s.ent with emptyRd := true } })

def execEntDataRead (width64 devMtype : Bool) (s : State) : Host.Outcome State Fault Refusal :=
  .next (entDataRead width64 devMtype s)

/-- A write of ENT_KAT_IN: the next of 16 input words; further writes are ignored. -/
def entKatIn (v : Word) (s : State) : State :=
  if s.ent.katIn.length < 16 then { s with ent := { s.ent with katIn := s.ent.katIn ++ [v] } } else s

def execEntKatIn (v : Word) (s : State) : Host.Outcome State Fault Refusal := .next (entKatIn v s)

/-- A write of ENT_KAT_CTL.START: refused with ERR for the last conditioner in service, for one not in
service, or with fewer than 16 input words. The count of input words restarts. -/
def entKatStart (s : State) : State :=
  let ok := inService s (108 + s.ent.katCond) && decide (2 ≤ condsUp s) && decide (s.ent.katIn.length = 16) && !s.ent.katBusy
  { s with ent := if ok then { s.ent with katStart := true, katBusy := true, katErr := false, katTest := s.ent.katIn, katIn := [] }
                  else { s.ent with katErr := true, katIn := [] } }

def execEntKatStart (s : State) : Host.Outcome State Fault Refusal := .next (entKatStart s)

/-- A read of ENT_KAT_OUT: the next digest word, then zeros. -/
def entKatOutRead (s : State) : State :=
  match s.ent.katOut with
  | w :: rest => emit (.read w) { s with ent := { s.ent with katOut := rest } }
  | [] => emit (.read 0) s

def execEntKatOutRead (s : State) : Host.Outcome State Fault Refusal := .next (entKatOutRead s)

/-- The digest of a known-answer test, in words. -/
def katDigest (input : List Word) : List Word :=
  let d := crypto .hash [algSha3x256] [(input.map fun w => leBytes 8 w.toNat).flatten] 32
  (List.range 4).map fun i => BitVec.ofNat 64 (leAt d (8 * i) 8)

/-- A known-answer test asked for before a boundary: the conditioner is out of service for the pitch that the boundary
opens; with the end of that pitch the test ends, DONE is set and the digest is ready (DEDUCED, log 124). -/
def katBoundary (s : State) : State :=
  let back (r : UnitRec) : UnitRec := if r.st = .inKat then { r with st := .inService } else r
  let s1 := { s with units := tmap s.units fun u r => if 108 ≤ u then back r else r }
  if s1.ent.katStart then
    let u := 108 + s1.ent.katCond
    let s2 := if inService s1 u then setUnit u { unitRec s1 u with st := .inKat } s1 else s1
    { s2 with ent := { s2.ent with katStart := false } }
  else if s1.ent.katBusy then
    { s1 with ent := { s1.ent with
        katBusy := false, katDone := true, katTest := [], katOut := katDigest s1.ent.katTest } }
  else s1

/-! ### Meanings: waits and the random opcodes -/

/-- ENTROPY_WAIT_EXPIRY: a job has waited 50 ms that the output cannot serve (05 R171); a paired device
forwards it (10 R296). -/
def execEntropyWaitExpiry (ctx : Nat) (s : State) : Host.Outcome State Fault Refusal :=
  .next (
    match getJob s ctx with
    | none => s
    | some j =>
      let waits := (j.phase == .ready || j.phase == .held) && (decide (0 < j.entNeed) || decide (0 < j.saltNeed))
      if waits && decide (j.entSince + 25000 ≤ s.sched.pitch) && (s.ent.stopped || [0, 2, 3].contains (domRec s 14).st) then
        let s1 := freeUnits ctx { s with ent := { s.ent with jobQ := s.ent.jobQ.filter fun p => p.1 != .job ctx } }
        if paired s && j.forPartner.isNone && j.hdr.opcode != 0x030 then bump 14 11 1 (forwardJob ctx { j with partialOut := [] } s1)
        else refuseJob ctx { j with partialOut := [] } stEntropyFail (nextBoundary s) s1
      else s)

/-- RNG_BYTES: the segment takes the bytes that were reserved for it, at most 2,048; the next segment's
reservation is requested, or the result is staged (02 R53, 10 R300). -/
def execRngBytes (ctx : Nat) (s : State) : Host.Outcome State Fault Refusal :=
  .next (
    match (jobFor s ctx 0x600).filter fun j => j.drawWait with
    | none => s
    | some j =>
      let n := min 2048 (j.hdr.outMax - j.partialOut.length)
      let out := j.partialOut ++ j.rnd.take n
      let left := min 2048 (j.hdr.outMax - out.length)
      let j1 := { j with partialOut := out, rnd := [], drawWait := false, entNeed := left, entSince := s.sched.pitch }
      if left = 0 then stageDone ctx j1 { out := out } s else reserveDraw ctx left (setJob ctx j1 s))

/-- ENT_STATUS: 16 bytes of entropy status; PITCH_COUNT is that of the release (10 R301). -/
def execEntStatus (ctx : Nat) (s : State) : Host.Outcome State Fault Refusal :=
  .next (
    match jobFor s ctx 0x608 with
    | none => s
    | some j =>
      let banks := bitsOf 16 fun b => (getBank s b).st == 1 || (getBank s b).st == 2
      let conds := bitsOf 4 fun c => inService s (108 + c)
      let flags := b2n s.ent.isOpen + 2 * b2n s.ent.stopped
      stageDone ctx j { out := leBytes 2 banks ++ leBytes 1 conds ++ leBytes 1 flags ++ leBytes 4 0 ++ leBytes 8 0 } s)

end Sys2Proof.Machine
end

