-- ==== Sys2Proof/Machine/Moves.lean ====
section
/-! DEFINITION. Rings and their places, queues made for sessions, and the sessions and addresses that
move between the devices of a pair (04 R126-R128, 14 R425-R438). -/

namespace Sys2Proof.Machine

/-! ### The arena (04 R128, 19 R556) -/

def adminBase : Nat := 0x10000000000
def arenaBase : Nat := 0x10002000000
def arenaEnd : Nat := 0x10080000000

/-- The run-time rings in the arena: base and size. -/
def ringsUsed (s : State) : List (Nat × Nat) :=
  (s.qm.queues.filter fun p => !p.2.admin).map fun p => (p.2.base, 2 ^ p.2.sizeLog2)

/-- A block that lies in the arena and meets no ring. -/
def blockFree (l : List (Nat × Nat)) (a n : Nat) : Bool :=
  decide (a + n ≤ arenaEnd) && l.all fun u => decide (a + n ≤ u.1) || decide (u.1 + u.2 ≤ a)

/-- The lowest-addressed free block of 2^lg bytes that is aligned to its size. -/
def allocRing (s : State) (lg : Nat) : Option Nat :=
  let n := 2 ^ lg
  let l := ringsUsed s
  let starts := arenaBase :: l.map fun u => ceilDiv (u.1 + u.2) n * n
  ((starts.filter fun a => blockFree l a n).mergeSort (· ≤ ·)).head?

/-- The lowest free run-time queue slot. -/
def freeQueueSlot (s : State) : Option Nat := (List.range 1024).find? fun n => (tget s.qm.queues n).isNone

/-- The admin queue of a session slot (04 R127). -/
def adminQueue (i part : Nat) : Queue :=
  { admin := true, sizeLog2 := 16, session := i, part, base := adminBase + i * 0x10000 }

/-- The slot and ring that a queue of a session takes: its admin slot, or free ones. -/
def placeQueue (s : State) (i qnum lg : Nat) : Option (Nat × Nat) :=
  if qnum = 0 then some (adminSlot i, adminBase + i * 0x10000)
  else match freeQueueSlot s, allocRing s lg with
    | some n, some a => some (n, a)
    | _, _ => none

/-! ### Sessions that leave -/

/-- A session and its queues are gone from this device, with their jobs and streams. -/
def forgetSession (i : Nat) (s : State) : State :=
  let mine (slot : Nat) : Bool := (tget s.qm.queues slot).any fun q => q.session == i && !q.isInternal
  let free (r : UnitRec) : UnitRec :=
    match r.job with
    | some c => if (getJob s c).any fun j => mine j.slot then { r with job := none, seg := false } else r
    | none => r
  { s with
    tol := { s.tol with sess := tdel s.tol.sess i }
    qm := { s.qm with queues := s.qm.queues.filter fun p => p.2.isInternal || p.2.session != i }
    sched := { s.sched with jobs := s.sched.jobs.filter fun p => !mine p.2.slot }
    units := tmap s.units fun _ r => free r
    strm := { s.strm with tab := s.strm.tab.filter fun t => !mine t.slot } }

/-- Hands the sessions that `which` names, and the host addresses with them, to the partner (14 R431,
R432, R438). -/
def handOut (kind : Nat) (which : Sess → Bool) (s : State) : State :=
  let l := (s.tol.sess.filter fun p => p.2.st == 2 && which p.2).map fun p => p.1
  let addrs := (List.range 4).map fun p => (p, if kind = 2 then peerAddrs s p else ownAddrs s p)
  l.foldl (fun t i => forgetSession i t) (ropeSend 0 (.handover kind l addrs) s)

/-! ### Addresses (14 R425, R436) -/

/-- The announcement of one address from a MAC: a gratuitous ARP for IPv4, an unsolicited neighbour advertisement
with the override flag for IPv6 (14 R425). -/
def announceAddr (p mac : Nat) (s : State) (ip : Nat) : State :=
  if isV6 ip then ethFrame p ethNaUnsolicited (beBytes 6 mac ++ beBytes 16 ip ++ [0x20]) s
  else ethFrame p ethArpGratuitous (beBytes 6 mac ++ beBytes 4 ip) s

/-- A list of addresses is announced, from the MAC that it begins with. -/
def announceList (p : Nat) (l : List Nat) (s : State) : State := l.tail.foldl (announceAddr p (l.headD 0)) s

/-- The announcement of the addresses that a port has taken over, and otherwise of its own. -/
def announcePort (p : Nat) (s : State) : State := announceList p (if (getEth s p).taken then peerAddrs s p else ownAddrs s p) s

/-- The announcement of held addresses on every port. -/
def announceAll (s : State) : State := (List.range 4).foldl (fun t p => announcePort p t) s

/-- Every host port adds the partner's addresses and announces them (14 R425). -/
def takeAddresses (s : State) : State :=
  let s1 := (List.range 4).foldl (fun t p => setEth p { getEth t p with taken := true } t) s
  announceAll { s1 with pair := { s1.pair with addrTaken := true, announces := 1 } }

/-! ### Sessions that arrive (14 R425, R426, 03 R113) -/

/-- The ring of a queue taken over holds the units that were mirrored. -/
def fillRing (q : Queue) (l : List (Nat × List Byte)) (m : List Host.Cell) : List Host.Cell :=
  l.foldl (fun t e => writeBytes t (unitAddr q e.1) (e.2.take 64)) m

/-- The entries of a ring from `i` up to `p`: index and header. -/
def ringEntries (s : State) (q : Queue) (p : W32) : Nat → W32 → List (W32 × Header)
  | 0, _ => []
  | fuel + 1, i =>
    let left := dist p i
    if left = 0 then []
    else
      let h := decodeHeader (ringRead s q i.toNat 1)
      if lenUnitsOk q h ∧ h.lenUnits ≤ left then (i, h) :: ringEntries s q p fuel (idxAdd i h.lenUnits) else []

/-- A STATE-class entry in flight at the failover completes with FAILOVER_RESUBMIT at the next boundary. -/
def resubmit (slot : Nat) (e : W32 × Header) (s : State) : State :=
  let key := ((List.range 4096).map (· + ctxLimit)).find? fun k => (getJob s k).isNone
  let j : Job := { slot, entry := e.1, hdr := e.2, order := s.sched.nextOrder }
  bump 31 5 1 (endJob (key.getD ctxLimit) j { status := stFailoverResubmit } (nextBoundary s)
    { s with sched := { s.sched with nextOrder := s.sched.nextOrder + 1 } })

/-- Jobs run for the failed partner become the jobs of their entries here (14 R426). -/
def adoptJobs (sess qnum slot : Nat) (s : State) : State × List W32 :=
  let mine (j : Job) : Bool := j.fwdFrom == some (sess, qnum, j.entry)
  let adopt (j : Job) : Job := if mine j then { j with slot := slot, forPartner := none, fwdFrom := none } else j
  ({ s with sched := { s.sched with jobs := tmap s.sched.jobs fun _ j => adopt j } },
   (s.sched.jobs.filter fun p => mine p.2).map fun p => p.2.entry)

/-- One queue of the partner's session becomes a queue of session `i`. CIDX is set to RHEAD. A STATE-class entry is not
fetched again: one that the partner had released, below its CHEAD, is complete, and the others complete with
FAILOVER_RESUBMIT (14 R426). -/
def takeQueue (i part kind : Nat) (rheads : List (Nat × W32)) (pq : PeerQueue) (s : State) : State :=
  match placeQueue s i pq.qnum pq.sizeLog2 with
  | none => s
  | some (slot, base) =>
    let rh := ((rheads.find? fun r => r.1 == pq.qnum).map fun r => r.2).getD pq.chead
    let start := if kind = 0 then rh else pq.chead
    let q : Queue := {
      admin := decide (pq.qnum = 0), sizeLog2 := pq.sizeLog2, qnum := pq.qnum, session := i, part, base
      applied := pq.pidx, visible := pq.pidx, cidx := start, chead := start, rhead := rh
      replayTo := if kind = 0 then some pq.pidx else none
      tearAsk := match pq.tear with | some t => if t.1 then 2 else 1 | none => 0
      tearTo := pq.tear.map fun t => t.2
      st := match pq.tear with | some t => if t.1 then .tearing else .resetting | none => .active
      nextGrant := nextBoundary s }
    let s1 := setQueue slot q { s with mem := fillRing q pq.units s.mem }
    let ad := adoptJobs pq.session pq.qnum slot s1
    let state := (ringEntries s1 q pq.pidx (dist pq.pidx start + 1) start).filter fun e =>
      kind == 0 && e.2.mirror == 1 && honoursState e.2 && !ad.2.contains e.1
    let lost := state.filter fun e => decide (dist pq.chead start ≤ dist e.1 start)
    let s2 := lost.foldl (fun t e => resubmit slot e t) ad.1
    let mine := (s2.pair.peerStreams.filter fun t => t.1 == pq.session && t.2.1 == pq.qnum).map fun t => t.2.2
    let streams := mine.zipIdx.map fun t =>
      { t.1 with slot := slot, id := s2.sched.nextOrder + t.2, opened := true, lastRelease := s.sched.pitch, inFlight := 0 }
    let move (e : Nat × Nat × W32 × List Byte) : Nat × Nat × W32 × List Byte :=
      if e.1 == pq.session && e.2.1 == pq.qnum then (i, e.2) else e
    setQueue slot { q with skip := ad.2 ++ state.map (fun e => e.1), headStreams := streams.map Stream.snapshot } { s2 with
      strm := { s2.strm with tab := s2.strm.tab ++ streams }
      sched := { s2.sched with nextOrder := s2.sched.nextOrder + mine.length }
      pair := { s2.pair with
        peerBinds := s2.pair.peerBinds.map move, peerMade := s2.pair.peerMade.map move } }

/-- Room for one more session taken over: fewer than 256, and fewer than 64 on its port (03 R82, 14 R428). -/
def takenRoom (s : State) (port : Nat) : Bool :=
  let l := s.tol.sess.filter fun x => x.2.taken
  decide (l.length < 256) && decide ((l.filter fun x => x.2.port == port).length < 64)

/-- One session of the partner is resumed in the lowest free slot: a new epoch, SEQ 0, and PAIR_MOVE first, with a
MOVE_ID that is a free value; an epoch that cannot rise closes the session (03 R113, 21 R580). A session that comes
back from the partner is the device's own. One beyond the limits of R82 is not resumed (logs 83, 84). -/
def takeSession (kind : Nat) (p : SessPos) (s : State) : State :=
  match (List.range 512).find? fun n => (tget s.tol.sess n).isNone && (kind == 2 || takenRoom s p.port) with
  | none => s
  | some i =>
    let e := p.epoch + 1
    let prk := nextPrk p.prk
    let x : Sess := {
      sid := p.sid, port := p.port, taken := kind != 2, moveId := BitVec.ofNat 32 (leNat (freeBytes s 4))
      dest := p.dest, loc := p.loc, window := p.window, deviceLevel := p.deviceLevel, part := p.part, role := p.role
      prk, keys := [(e, epochKeys prk)], txEpoch := e, rxEpoch := e, epochFrom := s.sched.pitch, updCfg := tolCfg s, idleCfg := tolCfg s, txDseq := p.txNext, rxDseq := p.rxNext
      cum := p.txNext, ackCum := p.rxNext, lastRx := s.sched.pitch, pairMove := some kind, maxFrame := p.maxFrame }
    let s1 := bump 31 6 (b2n (kind != 2)) (setSess i x (useBytes 4 s))
    if p.epoch = 0xFFFFFFFF then endSession i 7 0 s1
    else
      let s2 := sendPairMove i kind (bump 3 8 1 s1)
      let s3 := (s2.pair.peerQueues.filter fun q => q.session == p.slot).foldl
        (fun t q => takeQueue i p.part kind p.rheads q t) s2
      mirrorSession i 0 s3

/-- The sessions of the partner in the slots listed are resumed; its mirror of them is used up. -/
def takeSessions (kind : Nat) (slots : Nat → Bool) (s : State) : State :=
  let l := s.pair.peerSessions.filter fun p => slots p.slot
  let s1 := l.foldl (fun t p => takeSession kind p t) s
  { s1 with pair := { s1.pair with
      peerSessions := s1.pair.peerSessions.filter fun p => !slots p.slot
      peerQueues := s1.pair.peerQueues.filter fun q => !slots q.session
      peerStreams := s1.pair.peerStreams.filter fun t => !slots t.1
      peerStaging := s1.pair.peerStaging.filter fun t => !slots t.1 } }

/-- PAIR_TAKE records a declaration, a handover or a return (14 R448). -/
def recordTake (cause : Nat) (s : State) : State :=
  { s with pair := { s.pair with takePitch := s.sched.pitch % 2 ^ 48, takeCause := cause } }

/-! ### The end of a pair (14 R430, R438, 01 R29) -/

/-- A job that the failed partner held runs here, or completes as 14 R430 says; a forwarded leaf is
burnt. -/
def recallJob (ctx : Nat) (j : Job) (s : State) : State :=
  let s1 := burnLeaf j s
  let draw := if j.nonce.isSome then 0 else drawBytes s j.hdr j.input
  if classUp s (unitClass j.hdr) then
    setJob ctx { j with
      phase := .ready, unit := none, leaf := none, keyLoaded := false, workDone := false, draw := draw, entNeed := draw
      entSince := s.sched.pitch, notBefore := nextBoundary s } (reserveDraw ctx draw s1)
  else if 0 < draw && s.ent.stopped then refuseJob ctx j stEntropyFail (nextBoundary s) s1
  else refuseJob ctx j stUnitUnavailable (nextBoundary s) s1

/-- The pair is over: nothing waits for the partner any more, the records asked from it are lost, its jobs that have no context yet are dropped, and
forwarded jobs are recalled. -/
def leavePair (st : Nat) (s0 : State) : State :=
  let s := awaitedLost s0
  let s1 := pairState st { s with
    sys := { s.sys with paired := false }
    pair := { s.pair with
      keys := false, unacked := [], peerStaging := [], peerHello := none, peerNonce := []
      port0 := { s.pair.port0 with txq := [] }, port1 := { s.pair.port1 with txq := [] } }
    sched := { s.sched with fwdIn := [], jobs := tmap s.sched.jobs fun _ j => { j with stageWait := false } } }
  settleAll ((s1.sched.jobs.filter fun p => p.2.phase == .forwarded).foldl (fun t p => recallJob p.1 p.2 t) s1)

/-- The lead stays alone and waits for the second's HANDOVER (14 R438). -/
def leadStays (s : State) : State :=
  let s1 := leavePair 0 s
  { s1 with pair := { s1.pair with handWait := true } }

/-- The second leaves the pair: it hands its sessions and addresses to the lead, then its hot vault, cold
store, with the registry in it, and roots are cleared and it is unkeyed (14 R438, 12 R352). -/
def secondLeaves (s : State) : State :=
  let s1 := lostRegistry (leavePair 0 (handOut 1 (fun _ => true) s))
  { s1 with
    vault := { clearedVault s1.vault with derived := s1.vault.derived }
    sys := { s1.sys with unkeyed := true }
    pair := { s1.pair with addrHeld := false, addrTaken := false } }

/-- A commit of PAIR_CTL.JOIN = 0 on a paired device. -/
def unpair (s : State) : State :=
  if !paired s then s
  else
    let s1 := sendFence 3 s
    if isSecond s then secondLeaves s1 else leadStays s1

end Sys2Proof.Machine
end

