-- ==== Sys2Proof/Machine/Quorum.lean ====
section
/-! DEFINITION. Partitions, officers and dual control: staged registers, proposals, approvals, tokens,
commits and the quorum opcodes (12). -/

namespace Sys2Proof.Machine

/-! ### Two-party registers (00 R16, 12 R354) -/

/-- The writable bits of an RWQ register; `none` for any other offset (19 R555). -/
def rwqMask (off : Nat) : Option Nat :=
  if 0x110000 ≤ off ∧ off < 0x113800 then
    match off % 0x20 with
    | 0 => some 0xFFFFFFFFF0FD
    | 8 => some 0xFFFFFFFFFFFFFFFF
    | 0x10 => some 0xFF03FF
    | _ => none
  else
    match off with
    | 0x100000 => some 0xFFFFFFFFFFF
    | 0x100008 => some 0xFFFFFFFFFFFF
    | 0x130000 | 0x130008 => some 0xFFFFFFFF
    | 0x130010 | 0x130018 => some 0x7777777777777777
    | 0x130020 => some 0x3FF0077
    | 0x130028 => some 0xFFFFFF
    | 0x130030 => some 0x7FFFF
    | 0x130038 => some 0xF
    | 0x130040 => some 0xFFFF
    | 0x180000 => some 0xFF
    | 0x1A0000 => some 0xFFFF
    | 0x1A0008 => some 0x1FFFFFFFFF
    | 0x1A0010 => some 0xFFFFFFFFFFFF
    | 0x1C0000 => some 3
    | 0x1F0000 => some 0xFFFF0001
    | 0x1F0008 | 0x1F0020 | 0x1F0028 | 0x1F0030 | 0x1F0038 => some 0xFFFFFFFFFFFFFFFF
    | 0x1F0010 => some 7
    | 0x1F0018 => some 0xFFF01FF0001
    | _ => none

/-- The policy class of an RWQ register. -/
def rwqClass (off : Nat) : Nat :=
  match off / 0x10000 with
  | 0x11 => 0
  | 0x13 => 1
  | 0x18 => 4
  | 0x1A => if off = 0x1A0010 then 2 else 1
  | 0x1C => 5
  | 0x1F => 6
  | _ => 9

/-- M of a class in force; 0 and 1 act as 2 (12 R369). -/
def mOf (s : State) (cls : Nat) : Nat := max 2 (fld (inForce s 0x100000) (4 * cls) 4)

/-- The class of a register image: the highest M, and the lowest class among equals. -/
def imageClass (s : State) (offs : List Nat) : Nat :=
  (offs.map rwqClass).foldl (fun best c =>
    if mOf s best < mOf s c ∨ (mOf s best = mOf s c ∧ c < best) then c else best)
    ((offs.head?.map rwqClass).getD 0)

/-- QUO_CFG in force: token life, largest and default deadline in seconds (12 R369). -/
def tokenLife (s : State) : Nat := clampN 10 600 (fld (inForce s 0x100008) 0 16)
def maxDeadline (s : State) : Nat := clampN 10 3600 (fld (inForce s 0x100008) 16 16)
def defDeadline (s : State) : Nat := clampN 10 (maxDeadline s) (fld (inForce s 0x100008) 32 16)

/-- DEADLINE_S as it acts (12 R361, R369). -/
def deadlineOf (s : State) (secs : Nat) : Nat :=
  s.sched.pitch + second * (if secs = 0 then defDeadline s else min secs (maxDeadline s))

/-- Proposals that a predicate names are voided. -/
def voidProps (p : Proposal → Bool) (s : State) : State :=
  s.quorum.props.foldl (fun t e => if p e.2 then closeProp e.1 e.2 5 t else t) s

/-- A write of a staged value: any proposal of this device whose image covers the register is void (12 R357). -/
def stagedWrite (off v : Nat) (s : State) : State :=
  match rwqMask off with
  | none => s
  | some m =>
    setStaged off (v &&& m) (voidProps (fun p => p.kind == 0 && p.devId == s.life.devId && p.image.contains off) s)

/-- DIGEST of a KIND 0 proposal over the staged values (12 R356). -/
def stageDigest (s : State) (offs : List Nat) : List Byte :=
  crypto .hash [algSha3x256]
    [ascii "Yalzia stage 1" ++ leBytes 8 s.life.devId.toNat ++ leBytes 2 offs.length
      ++ (offs.map fun o => leBytes 4 o ++ leBytes 8 (staged s o)).flatten] 32

/-! ### Officers (12 R351-R353) -/

/-- KEY_ID. -/
def keyId (c : Cred) : List Byte := crypto .hash [algSha3x256] [c.key] 32

/-- A credential of a partition that does not exist is inert (12 R352). -/
def effective (s : State) (c : Cred) : Bool := partExists s c.part

/-- The officers that may approve a class for a partition. -/
def eligible (s : State) (cls part : Nat) (c : Cred) : Bool :=
  effective s c && (if cls ≤ 9 then c.role == 0 else c.role == 3 && c.part == part)

/-- The number of eligible approvers. -/
def eligibleCount (s : State) (cls part : Nat) : Nat := (s.quorum.creds.filter (eligible s cls part)).length

/-- Officers of a scope: the device, or one partition. -/
def officersOf (s : State) (part : Nat) : List Cred :=
  s.quorum.creds.filter fun c => decide (c.role < 4) && c.part == part && effective s c

/-- Limit of officers of a scope (12 R351). -/
def officerLimit (part : Nat) : Nat := if part = 0 then 32 else 16

/-- The officer that (scope, index) names; scope 1 is the entry's partition. -/
def officerAt (s : State) (scope index part : Nat) : Option Cred :=
  if 1 < scope then none else (officersOf s (if scope = 0 then 0 else part)).find? fun c => c.index == index

/-- The lowest free officer index of a scope among the credentials listed, inert ones included. -/
def freeIndex (l : List Cred) (part : Nat) : Nat :=
  ((List.range 64).find? fun n => !(l.any fun c => decide (c.role < 4) && c.part == part && c.index == n)).getD 63

/-- One credential: ROLE, ALG, LEN, reserved, public key (12 R366). Answers its length too. -/
def credAt (b : List Byte) (part : Nat) : Cred × Nat :=
  let n := leAt b 2 2
  ({ role := leAt b 0 1, alg := leAt b 1 1, key := sliceB b 8 n, part }, 8 + n)

/-- ALG and LEN fit each other (12 R351). -/
def credAlgOk (b : List Byte) : Bool :=
  let n := leAt b 2 2
  (leAt b 1 1 == 1 && n == 1952) || (leAt b 1 1 == 2 && n == 97)

/-- The key already holds an enrolment. -/
def enrolled (l : List Cred) (c : Cred) : Bool := l.any fun x => x.key == c.key

/-! ### Proposals (12 R355-R361) -/

/-- The 64-byte record. -/
def propRecord (p : Proposal) : List Byte :=
  leBytes 4 p.id ++ leBytes 1 p.kind ++ leBytes 1 p.cls ++ leBytes 1 p.part ++ leBytes 1 p.m ++ padTo 8 p.nonce
    ++ leBytes 8 p.devId.toNat ++ leBytes 8 p.deadline ++ padTo 32 p.digest

/-- The proposal with a PROPOSAL_ID. -/
def propById (s : State) (id : Nat) : Option (Nat × Proposal) := s.quorum.props.find? fun p => p.2.id == id

def setProp (slot : Nat) (p : Proposal) (s : State) : State :=
  { s with quorum := { s.quorum with props := tput s.quorum.props slot p } }

/-- PROPOSAL_ID of number `n`: bit 31 is set on the second. -/
def propIdOf (s : State) (n : Nat) : Nat := n % 2 ^ 31 + (if isSecond s then 2 ^ 31 else 0)

/-- The first number from `n` on whose PROPOSAL_ID no proposal holds (21 R581). -/
def freeNumber (s : State) : Nat → Nat → Nat
  | 0, n => n
  | fuel + 1, n => if (propById s (propIdOf s n)).isSome then freeNumber s fuel (n + 1) else n

/-- The number of the next proposal; the engine holds at most 64. -/
def nextNumber (s : State) : Nat := freeNumber s 64 s.quorum.nextId

def proposalId (s : State) : Nat := propIdOf s (nextNumber s)

/-- Why a proposal of a class cannot be opened (12 R361). -/
def openRefusal (s : State) (cls part : Nat) : Option Nat :=
  if eligibleCount s cls part < mOf s cls then some stQuorumRequired
  else if (lowestFree s.quorum.props 64).isNone then some stNoContext
  else none

/-- Opens a proposal in the lowest free slot; the result is its record. -/
def openProp (p : Proposal) (secs : Nat) (nonce : List Byte) (s : State) : State × Res :=
  match lowestFree s.quorum.props 64 with
  | none => fail stNoContext s
  | some slot =>
    let q := { p with id := proposalId s, m := mOf s p.cls, nonce := nonce, deadline := deadlineOf s secs
                      expires := deadlineOf s secs, state := 1 }
    let s1 := setProp slot q { s with quorum := { s.quorum with nextId := nextNumber s + 1 } }
    let s2 := evcAdd 0x8A 1 (bump 16 0 1 (journal q.id 0 0 0 q.cls stOk q.digest s1))
    (mirrorQuorum s2, { out := propRecord q })

/-- The session of a job's queue. -/
def jobSession (s : State) (j : Job) : Nat := ((getQueue s j.slot).map fun q => q.session).getD 0

/-- The partner's session from which a forwarded job comes. -/
def fwdSession (s : State) (j : Job) : Option SessPos :=
  j.fwdFrom.bind fun f => s.pair.peerSessions.find? fun p => p.slot == f.1

/-- SESSION_ID of a job's session, which names it on both devices of a pair. -/
def jobSid (s : State) (j : Job) : Nat :=
  match fwdSession s j with
  | some p => p.sid
  | none => ((getSess s (jobSession s j)).map fun x => x.sid).getD 0

/-- The sender of a job. -/
def jobSender (s : State) (j : Job) : Sender :=
  match fwdSession s j with
  | some p => { part := p.part, deviceLevel := p.deviceLevel, role := p.role }
  | none => ((getQueue s j.slot).map (senderOf s)).getD {}

/-- OFFSETs and VALUEs of a Q_PROPOSE image. -/
def imageOf (b : List Byte) : List (Nat × Nat) :=
  (List.range (leAt b 8 2)).map fun i => (leAt b (16 + 12 * i) 4, leAt b (20 + 12 * i) 8)

/-- Q_PROPOSE refused before its draw (12 R586, R589, R361). -/
def proposeRefusal (s : State) (j : Job) : Option Nat :=
  let n := leAt j.input 8 2
  let img := imageOf j.input
  let offs := img.map fun e => e.1
  if j.hdr.inBytes < 10 then some stBadLength
  else if n < 1 ∨ 32 < n then some stBadParam
  else if j.hdr.inBytes ≠ 16 + 12 * n then some stBadLength
  else if leAt j.input 0 8 ≠ s.life.devId.toNat then some stBadParam
  else if offs.any fun o => (rwqMask o).isNone then some stBadParam
  else openRefusal s (imageClass s offs) 0

/-- Q_PROPOSE once NONCE is drawn: the image is staged and the proposal opened. -/
def proposeImage (j : Job) (nonce : List Byte) (s : State) : State × Res :=
  let img := imageOf j.input
  let offs := img.map fun e => e.1
  if (lowestFree s.quorum.props 64).isNone then fail stNoContext s
  else
    let s1 := img.foldl (fun t e => stagedWrite e.1 e.2 t) s
    let p : Proposal := {
      kind := 0, cls := imageClass s offs, devId := s.life.devId, digest := stageDigest s1 offs, image := offs
      session := jobSid s j }
    openProp p (leAt j.input 10 2) nonce s1

/-- The class of a KIND 1 proposal over an opcode for a partition (12 R354). -/
def opClass (op part : Nat) : Option Nat :=
  if op == 0x030 then some 3
  else if op == 0x020 then some 5
  else if op == 0x708 || op == 0x70C then some 7
  else if [0x710, 0x711, 0x720, 0x721, 0x5F0, 0x5F1, 0x5F2, 0x5F3].contains op then some 8
  else if [0x504, 0x510, 0x520, 0x714, 0x715, 0x718, 0x719].contains op then some (if part = 0 then 8 else 10)
  else none

/-- PARTITION of a proposal: 0 for classes 0-9 (12 R355). -/
def propPart (cls part : Nat) : Nat := if cls ≤ 9 then 0 else part

/-- Q_PROPOSE_OP refused before its draw. -/
def proposeOpRefusal (s : State) (j : Job) : Option Nat :=
  let op := leAt j.input 0 2
  if j.hdr.inBytes ≠ 40 then some stBadLength
  else match opClass op j.hdr.part with
    | none => some stBadParam
    | some c =>
      if (jobSender s j).role = 3 ∧ c ≠ 10 then some stPartitionDenied
      else if op = 0x714 ∧ officerLimit j.hdr.part ≤ (officersOf s j.hdr.part).length then some stQuorumRequired
      else openRefusal s c (propPart c j.hdr.part)

/-- Q_PROPOSE_OP once NONCE is drawn. -/
def proposeOp (j : Job) (nonce : List Byte) (s : State) : State × Res :=
  let op := leAt j.input 0 2
  let c := (opClass op j.hdr.part).getD 8
  let pt := propPart c j.hdr.part
  openProp { kind := 1, cls := c, part := pt, digest := sliceB j.input 8 32, opcode := op, opPart := pt, session := jobSid s j }
    (leAt j.input 4 2) nonce s

/-! ### Approvals (12 R358, R359) -/

/-- The officer's signature over the record verifies. -/
def approvalSigOk (p : Proposal) (c : Cred) (sig : List Byte) : Bool :=
  if c.alg = 1 then Config.cryptoOk .lattice [0x412, 2] [c.key, ascii "Yalzia approve 1" ++ propRecord p, sig]
  else Config.cryptoOk .ecc [0x311, 2, algSha384] [c.key, ascii "Yalzia approve 1" ++ propRecord p, sig]

/-- The output of Q_APPROVE. -/
def approveOut (p : Proposal) (tok : List Byte) : Res :=
  { out := leBytes 1 p.state ++ leBytes 1 p.approvers.length ++ leBytes 1 p.m ++ [0] ++ leBytes 4 p.id ++ padTo 16 tok }

/-- A refused approval: journal event 2 and its counter. -/
def refuseApproval (p : Proposal) (scope index st : Nat) (s : State) : State × Option Res :=
  (mirrorQuorum (bump 16 2 1 (journal p.id 2 scope index p.cls st p.digest s)), some { status := st })

/-- What the start of a Q_APPROVE does; without a result it goes on to issue the token. -/
def approve (j : Job) (s : State) : State × Option Res :=
  let b := j.input
  let scope := leAt b 4 1
  let index := leAt b 5 1
  let alg := leAt b 6 1
  let want := if alg = 1 then 3317 else 104
  if j.hdr.inBytes < 7 then (s, some { status := stBadLength })
  else if (alg = 1 ∨ alg = 2) ∧ j.hdr.inBytes ≠ want then (s, some { status := stBadLength })
  else match propById s (leAt b 0 4) with
    | none => (s, some { status := stQuorumRequired })
    | some (slot, p) =>
      match (officerAt s scope index j.hdr.part).filter (eligible s p.cls p.part) with
      | none => refuseApproval p scope index stQuorumRequired s
      | some c =>
        if p.state ≠ 1 ∨ p.expires ≤ s.sched.pitch ∨ (alg ≠ 1 ∧ alg ≠ 2) then refuseApproval p scope index stQuorumRequired s
        else if c.alg ≠ alg ∨ approvalSigOk p c (b.drop 8) = false then refuseApproval p scope index stVerifyFail s
        else if p.approvers.contains (c.part, index) then (s, some (approveOut p []))
        else
          let p1 := { p with approvers := p.approvers ++ [(c.part, index)] }
          let s1 := evcAdd 0x88 1 (bump 16 1 1 (journal p.id 1 scope index p.cls stOk p.digest s))
          if p1.approvers.length < p.m then (mirrorQuorum (setProp slot p1 s1), some (approveOut p1 []))
          else (mirrorQuorum (setProp slot { p1 with state := 2 } s1), none)

/-- The token is issued. -/
def issueToken (j : Job) (r : List Byte) (s : State) : State × Res :=
  match propById s (leAt j.input 0 4) with
  | none => fail stQuorumRequired s
  | some (slot, p) =>
    let serial := (s.quorum.serial + 1) % 2 ^ 32
    let tok := leBytes 4 p.id ++ leBytes 4 serial ++ padTo 8 r
    let p1 := { p with token := tok, tokenEnd := s.sched.pitch + second * tokenLife s }
    let s1 := setProp slot p1 { s with quorum := { s.quorum with serial := serial } }
    let s2 := bump 16 3 1 (journal p.id 3 (leAt j.input 4 1) (leAt j.input 5 1) p.cls stOk p.digest s1)
    (mirrorQuorum s2, approveOut p1 tok)

/-! ### Commits (12 R362) -/

/-- A change of PAIR_CTL in force: JOIN = 0 on a paired device unpairs; a refused join may be tried again
(14 R433, R438). -/
def pairCommitted (p : Proposal) (s : State) : State :=
  if !p.image.contains 0x1F0010 then s
  else if bitAt (inForce s 0x1F0010) 0 then
    if s.pair.st = 7 then pairState 0 { s with pair := { s.pair with refuse := 0, helloSent := false, peerHello := none } } else s
  else unpair s

/-- The registers that the staged value of an image is copied into. -/
def applyImage (slot : Nat) (p : Proposal) (s : State) : State :=
  let s1 := closeProp slot p 4 { s with rwq := copyForce s p.image }
  let s2 := if p.cls ≤ 6 ∨ p.cls = 9 then cairnPlace 0x40 (BitVec.ofNat 32 (p.cls + p.id % 2 ^ 28 * 16)) s1 else s1
  pairCommitted p (tamperCommitted s s2)

/-- The proposal that a token commits here: KIND 0, of this device, with its digest unchanged. -/
def commitProp (s : State) (tok : List Byte) : Option (Nat × Proposal) :=
  (tokenProp s tok).filter fun p =>
    p.2.kind == 0 && p.2.devId == s.life.devId && p.2.digest == stageDigest s p.2.image

/-- QUO_CMT.RESULT for a token that commits nothing. -/
def failedCommit (s : State) (tok : List Byte) : Nat :=
  if s.quorum.voidTokens.contains tok ∨ ((tokenProp s tok).any fun p => p.2.kind == 0) then 3 else 2

/-- A commit ends: QUO_CMT.RESULT, or the status of its Q_COMMIT. `s0` is the state before its copy; while its record waits
for the write buffer RESULT reads 0 (15 R468; DESIGN CHOICE, log 129). -/
def endCommit (s0 : State) (ctx : Option Nat) (code : Nat) (s : State) : State :=
  match ctx with
  | none => { s with quorum := { s.quorum with
      cmtResult := code
      cmtWait := if s0.cairn.waiting.length < s.cairn.waiting.length then s.cairn.waiting.length else 0 } }
  | some c => match getJob s c with
    | some j => stageOwn s0 c j { status := if code = 1 then stOk else stQuorumRequired } s
    | none => s

/-- ACUs that an image names. -/
def imageAcus (p : Proposal) : List Nat :=
  ((p.image.filter fun o => decide (0x110000 ≤ o ∧ o < 0x113800)).map fun o => (o - 0x110000) / 0x400).eraseDups

/-- One commit at its boundary: an ACU image stops the admission of its ACUs and waits for the epoch switch
(13 R405); any other image is copied now. -/
def commitOne (s : State) (tok : List Byte) (ctx : Option Nat) : State :=
  match commitProp s tok with
  | none => endCommit s ctx (failedCommit s tok) s
  | some (slot, p) =>
    let acus := imageAcus p
    if acus.isEmpty then endCommit s ctx 1 (applyImage slot p s)
    else if s.acu.commit.isSome then { s with quorum := { s.quorum with commits := s.quorum.commits ++ [(tok, ctx)] } }
    else
      let hold (t : Tab AcuRec) (n : Nat) : Tab AcuRec := tput t n { tgetD t n {} with wait := true }
      let s1 := { s with acu := { s.acu with commit := some (tok, ctx), recs := acus.foldl hold s.acu.recs } }
      if ctx.isNone then { s1 with quorum := { s1.quorum with cmtResult := 4 } } else s1

/-- The commits due at a boundary. -/
def commitsDue (s : State) : State :=
  s.quorum.commits.foldl (fun t c => commitOne t c.1 c.2) { s with quorum := { s.quorum with commits := [] } }

/-! ### Partitions (12 R348-R350) -/

/-- Credentials one after the other. -/
def credList (part : Nat) : Nat → List Byte → List (Cred × List Byte)
  | 0, _ => []
  | n + 1, b => let c := credAt b part; (c.1, b) :: credList part n (b.drop c.2)

/-- The length of `n` credentials. -/
def credBytes : Nat → List Byte → Nat
  | 0, _ => 0
  | n + 1, b => let c := credAt b 0; c.2 + credBytes n (b.drop c.2)

/-- New officers are listed one by one, each with the lowest free index of its scope. -/
def enrolAll (l : List Cred) (new : List Cred) : List Cred :=
  new.foldl (fun t c => t ++ [{ c with index := freeIndex t c.part }]) l

/-- Credentials that come from outside are listed one by one, each with its index, or the lowest free one where
another officer has it. One whose key is enrolled already, or that the limit of its scope shuts out, is not listed (12
R351; DESIGN CHOICE, log 16). -/
def admitCreds (parts : List Nat) (l new : List Cred) : List Cred :=
  let exists_ (c : Cred) : Bool := c.part == 0 || parts.contains c.part
  let same (c x : Cred) : Bool := decide (x.role < 4) && x.part == c.part
  new.foldl (fun t c =>
    if enrolled t c then t
    else if 4 ≤ c.role then t ++ [c]
    else if exists_ c && decide (officerLimit c.part ≤ (t.filter (same c)).length) then t
    else t ++ [if t.any fun x => same c x && x.index == c.index then { c with index := freeIndex t c.part } else c]) l

/-- No key among the new ones is enrolled, and none appears twice. -/
def allNew : List Cred → List Cred → Bool
  | _, [] => true
  | l, c :: t => !enrolled l c && allNew (l ++ [c]) t

/-- The token of a KIND 1 entry, as its execution checks it (12 R586, R339). -/
def tokenValid (s : State) (j : Job) : Bool := tokenFits s j.hdr (j.input.take 16) (j.input.drop 16)

/-- PART_CREATE refused before its draw. -/
def partCreateRefusal (s : State) (j : Job) : Option Nat :=
  let part := leAt j.input 16 1
  let n := leAt j.input 17 1
  let cs := credList part n (j.input.drop 24)
  let card := (s.quorum.creds.filter fun c => decide (c.role < 4) && c.part == part).length
  if j.hdr.inBytes < 18 then some stBadLength
  else if n < 2 ∨ 16 < n then some stBadParam
  else if j.hdr.inBytes ≠ 24 + credBytes n (j.input.drop 24) then some stBadLength
  else if tokenValid s j = false then some stQuorumRequired
  else if partExists s part then some stBadParam
  else if cs.any fun c => c.1.role != 3 || !credAlgOk c.2 then some stBadParam
  else if allNew s.quorum.creds (cs.map fun c => c.1) = false then some stBadParam
  else if 16 < card + n then some stBadParam
  else none

/-- PART_CREATE once the seed is drawn; what refused it before does so still. -/
def partCreate (j : Job) (seed : List Byte) (s : State) : State × Res :=
  let part := leAt j.input 16 1
  let cs := (credList part (leAt j.input 17 1) (j.input.drop 24)).map fun c => c.1
  match partCreateRefusal s j with
  | some st => fail st s
  | none =>
    let s1 := consumeToken (j.input.take 16) s
    let s2 := { s1 with
      quorum := { s1.quorum with
        parts := s1.quorum.parts ++ [part], creds := enrolAll s1.quorum.creds cs }
      vault := { s1.vault with seeds := tput s1.vault.seeds part seed } }
    (mirrorQuorum (mirror (.roots s2.vault.roots s2.vault.binds s2.vault.seeds) s2), {})

/-- The objects of a partition are gone; their slots take their next generation, and compaction frees their granules (12
R350). -/
def dropObjects (part : Nat) (v : Vault) : Vault :=
  let gone := v.objs.filter fun p => p.2.part == part
  let runs := (v.place.filter fun p => gone.any fun e => e.1 == p.1).map fun p =>
    (p.2, ((tget v.recs p.1).map recordGranules).getD 0)
  { gone.foldl (fun w p => freedSlot p.1 w) v with
    objs := v.objs.filter fun p => p.2.part != part
    gens := gone.foldl (fun t p => tput t p.1 (min 0xFFFFFF (p.2.gen + 1))) v.gens
    orphans := v.orphans ++ runs }

/-- An entry of a partition whose tenant seed is cleared completes with BAD_HANDLE if it has not passed its commit
point (11 R342). -/
def seedCleared (part : Nat) (s : State) : State :=
  let hit (j : Job) : Bool := j.hdr.part == part && !j.committed && j.phase != .granted && j.phase != .fetchWait
  { s with sched := { s.sched with jobs := tmap s.sched.jobs fun _ j => if hit j then { j with seedGone := true } else j } }

/-- The four steps of 12 R350. -/
def partDelete (part : Nat) (s : State) : State :=
  let v := dropObjects part s.vault
  let s1 := seedCleared part { s with vault := { v with seeds := tdel v.seeds part } }
  let s2 := endSessions (fun x => x.part == part && !x.deviceLevel) 10 0 s1
  let s3 := voidProps (fun p => p.part == part) s2
  let s4 := setCreds (s3.quorum.creds.filter fun c => c.card || c.part != part)
    { s3 with quorum := { s3.quorum with parts := s3.quorum.parts.filter (· != part) } }
  mirrorQuorum (mirror (.roots s4.vault.roots s4.vault.binds s4.vault.seeds) s4)

/-! ### Enrolments (12 R351-R353, R366) -/

/-- OFFICER_ENROL and CLIENT_ENROL: token and one credential. The ROLE of a client key gives it nothing; 5 and above
are no role at all (DESIGN CHOICE, log 112). -/
def enrolOne (officer : Bool) (j : Job) (s : State) : State × Res :=
  let b := j.input.drop 16
  let c := credAt b j.hdr.part
  let roleOk := if officer then (if j.hdr.part = 0 then decide (c.1.role ≤ 2) else c.1.role == 3) else decide (c.1.role ≤ 4)
  if j.hdr.inBytes < 20 then fail stBadLength s
  else if j.hdr.inBytes ≠ 16 + c.2 then fail stBadLength s
  else if tokenValid s j = false then fail stQuorumRequired s
  else if !roleOk || !credAlgOk b || enrolled s.quorum.creds c.1 then fail stBadParam s
  else if officer && decide (officerLimit j.hdr.part ≤ (officersOf s j.hdr.part).length) then fail stQuorumRequired s
  else
    let i := if officer then freeIndex s.quorum.creds j.hdr.part else 0
    let new := if officer then { c.1 with index := i } else { c.1 with role := 4 }
    let s1 := consumeToken (j.input.take 16) s
    let s2 := { s1 with quorum := { s1.quorum with creds := s1.quorum.creds ++ [new] } }
    (mirrorQuorum s2, { out := if officer then leBytes 1 i ++ List.replicate 7 0 else [] })

/-- Classes that an officer could approve. -/
def approves (c : Cred) : List Nat := if c.role = 0 then List.range 10 else if c.role = 3 then [10] else []

/-- The removal would leave a class short of approvers (12 R353). -/
def leavesShort (s : State) (c : Cred) : Bool :=
  (approves c).any fun k => decide (eligibleCount s k c.part < mOf s k + 1)

/-- OFFICER_REMOVE. -/
def officerRemove (j : Job) (s : State) : State × Res :=
  let scope := leAt j.input 16 1
  let index := leAt j.input 17 1
  if j.hdr.inBytes ≠ 24 then fail stBadLength s
  else if tokenValid s j = false then fail stQuorumRequired s
  else if scope ≠ b2n (decide (j.hdr.part ≠ 0)) then fail stBadParam s
  else match officerAt s scope index j.hdr.part with
    | none => fail stBadParam s
    | some c =>
      if c.card then fail stBadParam s
      else if leavesShort s c then fail stQuorumRequired s
      else
        let s1 := consumeToken (j.input.take 16) s
        (mirrorQuorum (setCreds (s1.quorum.creds.filter fun x => x != c) s1), {})

/-- CLIENT_REMOVE. -/
def clientRemove (j : Job) (s : State) : State × Res :=
  if j.hdr.inBytes ≠ 48 then fail stBadLength s
  else if tokenValid s j = false then fail stQuorumRequired s
  else match s.quorum.creds.find? fun c => c.role == 4 && c.part == j.hdr.part && !c.card && keyId c == sliceB j.input 16 32 with
    | none => fail stBadParam s
    | some c =>
      let s1 := consumeToken (j.input.take 16) s
      (mirrorQuorum { s1 with quorum := { s1.quorum with creds := s1.quorum.creds.filter fun x => x != c } }, {})

/-! ### Registry packs (12 R367) -/

/-- One run-time credential in a registry pack. -/
def credRecord (c : Cred) : List Byte :=
  leBytes 1 c.part ++ leBytes 1 c.index ++ leBytes 1 c.role ++ leBytes 1 c.alg ++ leBytes 2 c.key.length ++ c.key

/-- The material of a registry pack: partition records, then credentials. The spec gives no layout inside
it (DESIGN CHOICE, log 16). -/
def regMaterial (s : State) : List Byte :=
  leBytes 32 ((s.quorum.parts.map fun p => 2 ^ p).foldl (· + ·) 0)
    ++ ((s.quorum.creds.filter fun c => !c.card).map credRecord).flatten

/-- The credentials that material spells. -/
def regCreds : Nat → List Byte → List Cred
  | 0, _ => []
  | fuel + 1, b =>
    if b.length < 6 then []
    else
      let n := leAt b 4 2
      { part := leAt b 0 1, index := leAt b 1 1, role := leAt b 2 1, alg := leAt b 3 1, key := sliceB b 6 n }
        :: regCreds fuel (b.drop (6 + n))

/-- The registry pack of this device. -/
def regPack (s : State) (salt : List Byte) : List Byte :=
  let run := s.quorum.creds.filter fun c => !c.card
  let officers := (run.filter fun c => decide (c.role < 4)).length
  let header := leBytes 2 officers ++ leBytes 4 (run.length - officers)
  sealPack 2 (packKey s 0) (domainId s) salt header (regMaterial s)

/-- REG_BACKUP; the pack must fit OUT_MAX. -/
def regBackup (j : Job) (s : State) : State × Res :=
  let pack := regPack s (j.rnd.take 32)
  if j.hdr.inBytes ≠ 16 then fail stBadLength s
  else if tokenValid s j = false then fail stQuorumRequired s
  else (consumeToken (j.input.take 16) s, { out := pack })

/-- REG_RESTORE: the run-time enrolments are those of the pack. -/
def regRestore (j : Job) (s : State) : State × Res :=
  let pack := j.input.drop 16
  if j.hdr.inBytes < 144 then fail stBadLength s
  else if tokenValid s j = false then fail stQuorumRequired s
  else if pack.take 4 != packMagic || leAt pack 4 4 != 2 || sliceB pack 8 8 != domainId s then fail stBadHandle s
  else match openPack (packKey s 0) pack with
    | none => fail stBadHandle s
    | some m =>
      let ps := (List.range 256).filter fun p => p == 0 || bitAt (leAt m 0 32) p
      let s1 := consumeToken (j.input.take 16) s
      let creds := admitCreds ps (s1.quorum.creds.filter fun c => c.card) (regCreds m.length (m.drop 32))
      (mirrorQuorum (setCreds creds { s1 with quorum := { s1.quorum with parts := ps } }), {})

/-! ### Modes (01 R35, R39) -/

/-- MAINTENANCE ends: SERVICE if no unit is fenced, else DEGRADED; handed-over sessions return. -/
def leaveMaintenance (s : State) : State :=
  let s1 := { s with
    sys := { s.sys with mode := if s.sys.fenced = 0 then .service else .degraded, maintPending := none, handDue := false } }
  if s.sys.handedOver then ropeSend 0 (.handover 2 [] ((List.range 4).map fun p => (p, ownAddrs s1 p))) s1 else s1

/-- ZEROIZE has begun: one record of type 0x21, FENCE with reason 1, the avalanche (12 R590, 15 R466). -/
def zeroizeNow (tok : List Byte) (s : State) : State :=
  avalanche .systemReset (sendFence 1 (cairnPlace 0x21 0 (consumeToken tok s)))

/-! ### Meanings -/

/-- Q_PROPOSE. -/
def execQPropose (ctx : Nat) (s : State) : Host.Outcome State Fault Refusal :=
  .next (runDraw 0x700 ctx 8 (.proposal ctx)
    (fun j t => (t, (proposeRefusal t j).map fun st => { status := st })) proposeImage s)

/-- Q_PROPOSE_OP. -/
def execQProposeOp (ctx : Nat) (s : State) : Host.Outcome State Fault Refusal :=
  .next (runDraw 0x701 ctx 8 (.proposal ctx)
    (fun j t => (t, (proposeOpRefusal t j).map fun st => { status := st })) proposeOp s)

/-- Q_APPROVE. -/
def execQApprove (ctx : Nat) (s : State) : Host.Outcome State Fault Refusal :=
  .next (runDraw 0x702 ctx 8 (.token ctx) approve issueToken s)

/-- Q_WITHDRAW. -/
def execQWithdraw (ctx : Nat) (s : State) : Host.Outcome State Fault Refusal :=
  .next (runAdmin 0x703 ctx (fun j t =>
    if j.hdr.inBytes ≠ 4 then fail stBadLength t
    else match propById t (leAt j.input 0 4) with
      | none => fail stQuorumRequired t
      | some (slot, p) =>
        if p.session ≠ jobSid t j ∧ (jobSender t j).role ≠ 0 then fail stPartitionDenied t
        else if p.state ≠ 1 then fail stQuorumRequired t
        else (closeProp slot p 7 t, {})) s)

/-- Q_COMMIT: the token is checked and the copy is due at the next boundary. -/
def execQCommit (ctx : Nat) (s : State) : Host.Outcome State Fault Refusal :=
  .next (
    asAdmin 0x704 ctx (fun j =>
      let tok := j.input.take 16
      if j.hdr.inBytes ≠ 16 then stageDone ctx j { status := stBadLength } s
      else if (commitProp s tok).isNone then stageDone ctx j { status := stQuorumRequired } s
      else setJob ctx j { s with quorum := { s.quorum with commits := s.quorum.commits ++ [(tok, some ctx)] } }) s)

/-- Q_STATUS. -/
def execQStatus (ctx : Nat) (s : State) : Host.Outcome State Fault Refusal :=
  .next (runAdmin 0x705 ctx (fun j t =>
    if j.hdr.inBytes ≠ 4 then fail stBadLength t
    else match propById t (leAt j.input 0 4) with
      | none => fail stQuorumRequired t
      | some (_, p) =>
        let bits := (p.approvers.map fun a => 2 ^ a.2).foldl (· + ·) 0
        (t, { out := propRecord p ++ leBytes 1 p.state ++ leBytes 1 p.approvers.length ++ [0, 0] ++ leBytes 4 bits })) s)

/-- One journal record (12 R365). -/
def journalBytes (r : JRec) : List Byte :=
  leBytes 8 r.pitch ++ leBytes 4 r.id ++ leBytes 1 r.event ++ leBytes 1 r.scope ++ leBytes 1 r.index ++ leBytes 1 r.cls
    ++ leBytes 2 r.status ++ List.replicate 6 0 ++ padTo 8 r.digest8

/-- Record `n` of the journal; one overwritten or not yet placed reads as zeros (12 R589). -/
def journalAt (q : Quorum) (n : Nat) : List Byte :=
  let lo := q.journalSeq - q.journal.length
  if lo ≤ n ∧ n < q.journalSeq then ((q.journal[n - lo]?).map journalBytes).getD (List.replicate 32 0)
  else List.replicate 32 0

/-- Q_JOURNAL. -/
def execQJournal (ctx : Nat) (s : State) : Host.Outcome State Fault Refusal :=
  .next (runAdmin 0x706 ctx (fun j t =>
    if j.hdr.inBytes ≠ 0 then fail stBadLength t
    else
      let first := j.hdr.p0 0 32
      (t, { out := ((List.range (j.hdr.p0 32 16)).map fun i => journalAt t.quorum (first + i)).flatten })) s)

/-- MAINT_ENTER: the token is consumed and fetching stops; the boundary completes it (01 R39). -/
def execMaintEnter (ctx : Nat) (s : State) : Host.Outcome State Fault Refusal :=
  .next (
    match adminFor s ctx 0x708 with
    | none => s
    | some j =>
      let j1 := beginAdmin j s
      if j.hdr.inBytes ≠ 16 then stageDone ctx j1 { status := stBadLength } s
      else if tokenValid s j = false then stageDone ctx j1 { status := stQuorumRequired } s
      else if s.sys.mode = .maintenance ∨ s.sys.maintPending.isSome then stageDone ctx j1 { status := stUsageDenied } s
      else
        let s1 := consumeToken (j.input.take 16) (setJob ctx j1 s)
        setJob ctx { j1 with ackNeed := ownAck s s1 j1.ackNeed } { s1 with sys := { s1.sys with maintPending := some ctx } })

/-- MAINT_EXIT. -/
def execMaintExit (ctx : Nat) (s : State) : Host.Outcome State Fault Refusal :=
  .next (runAdmin 0x709 ctx (fun j t =>
    if j.hdr.inBytes ≠ 0 then fail stBadLength t
    else if t.sys.mode ≠ .maintenance ∨ t.life.pendingPwr = true then fail stUsageDenied t
    else (leaveMaintenance t, {})) s)

/-- ZEROIZE: no result is released when it takes effect. -/
def execZeroize (ctx : Nat) (s : State) : Host.Outcome State Fault Refusal :=
  .next (
    match adminFor s ctx 0x70C with
    | none => s
    | some j =>
      let j1 := beginAdmin j s
      if j.hdr.inBytes ≠ 24 then stageDone ctx j1 { status := stBadLength } s
      else if tokenValid s j = false then stageDone ctx j1 { status := stQuorumRequired } s
      else if leAt j.input 16 8 ≠ s.life.devId.toNat then stageDone ctx j1 { status := stBadParam } s
      else zeroizeNow (j.input.take 16) s)

/-- PART_CREATE. -/
def execPartCreate (ctx : Nat) (s : State) : Host.Outcome State Fault Refusal :=
  .next (runDraw 0x710 ctx 16 (.seed ctx)
    (fun j t => (t, (partCreateRefusal t j).map fun st => { status := st })) partCreate s)

/-- PART_DELETE. -/
def execPartDelete (ctx : Nat) (s : State) : Host.Outcome State Fault Refusal :=
  .next (runAdmin 0x711 ctx (fun j t =>
    let part := leAt j.input 16 1
    if j.hdr.inBytes ≠ 24 then fail stBadLength t
    else if tokenValid t j = false then fail stQuorumRequired t
    else if part = 0 ∨ partExists t part = false then fail stBadParam t
    else (partDelete part (consumeToken (j.input.take 16) t), {})) s)

/-- OFFICER_ENROL. -/
def execOfficerEnrol (ctx : Nat) (s : State) : Host.Outcome State Fault Refusal :=
  .next (runAdmin 0x714 ctx (enrolOne true) s)

/-- OFFICER_REMOVE. -/
def execOfficerRemove (ctx : Nat) (s : State) : Host.Outcome State Fault Refusal :=
  .next (runAdmin 0x715 ctx officerRemove s)

/-- CLIENT_ENROL. -/
def execClientEnrol (ctx : Nat) (s : State) : Host.Outcome State Fault Refusal :=
  .next (runAdmin 0x718 ctx (enrolOne false) s)

/-- CLIENT_REMOVE. -/
def execClientRemove (ctx : Nat) (s : State) : Host.Outcome State Fault Refusal :=
  .next (runAdmin 0x719 ctx clientRemove s)

/-- REG_BACKUP. -/
def execRegBackup (ctx : Nat) (s : State) : Host.Outcome State Fault Refusal :=
  .next (runAdmin 0x720 ctx regBackup s)

/-- REG_RESTORE. -/
def execRegRestore (ctx : Nat) (s : State) : Host.Outcome State Fault Refusal :=
  .next (runAdmin 0x721 ctx regRestore s)

/-- PROPOSAL_DEADLINE_EXPIRY. -/
def execProposalDeadlineExpiry (pslot : Nat) (s : State) : Host.Outcome State Fault Refusal :=
  .next (
    match tget s.quorum.props pslot with
    | none => s
    | some p => if p.state = 1 ∧ p.expires ≤ s.sched.pitch then closeProp pslot p 6 s else s)

/-- TOKEN_EXPIRY. -/
def execTokenExpiry (pslot : Nat) (s : State) : Host.Outcome State Fault Refusal :=
  .next (
    match tget s.quorum.props pslot with
    | none => s
    | some p => if p.state = 2 ∧ p.token ≠ [] ∧ p.tokenEnd ≤ s.sched.pitch then closeProp pslot p 6 s else s)

/-- STAGED_REGISTER_WRITE: a write of an RWQ register; any other offset is another row's. -/
def execStagedRegisterWrite (off : Nat) (v : Word) (s : State) : Host.Outcome State Fault Refusal :=
  .next (stagedWrite off v.toNat s)

/-- A write of QUO_CMT.GO: the token in QUO_TOK0-1 is committed at the next boundary. -/
def quoCmtGo (s : State) : State :=
  let tok := leBytes 8 s.quorum.tok0.toNat ++ leBytes 8 s.quorum.tok1.toNat
  { s with quorum := { s.quorum with commits := s.quorum.commits ++ [(tok, none)] } }

/-- QUO_CMT_GO. -/
def execQuoCmtGo (s : State) : Host.Outcome State Fault Refusal := .next (quoCmtGo s)

end Sys2Proof.Machine
end

