-- ==== Sys2Proof/Machine/Power.lean ====
section
/-! DEFINITION. Unit enables and power domains: draining, scrubbing, owners, leases, HELD and PENDING
requests (06 R202-R205, 18 R532-R540, R547). -/

namespace Sys2Proof.Machine

/-! ### Unit enables (06 R202, R203) -/

/-- Clearing the enable bit of unit `u`. -/
def disableUnit (u : Nat) (s : State) : State :=
  let r := unitRec s u
  let st : UState := if r.st = .inService then .draining else r.st
  setUnit u { r with en := false, pendingEn := false, enableAt := false, st := st } s

/-- Setting the enable bit of unit `u`: an off unit returns at the next boundary, a draining or scrubbing
one latches PENDING, a fenced one stays fenced. -/
def enableUnit (u : Nat) (s : State) : State :=
  let r := unitRec s u
  if r.en then s
  else
    setUnit u { r with
      en := true
      enableAt := r.st == .off
      pendingEn := r.st == .draining || r.st == .scrubbing } s

/-- A draining unit whose last job is released begins its scrub. -/
def drainEnd (u : Nat) (s : State) : State :=
  let r := unitRec s u
  if r.st = .draining ∧ unitHeld s u = false then setUnit u { r with st := .scrubbing } s else s

/-- A scrub completes: off, or PENDING applies. -/
def scrubEnd (u : Nat) (s : State) : State :=
  let r := unitRec s u
  if r.st = .scrubbing then setUnit u { r with st := .off, mem := {}, enableAt := r.pendingEn, pendingEn := false } s else s

/-- Enables that are due at a boundary. -/
def enablesDue (b : Nat) (s : State) : State :=
  let up (u : Nat) (r : UnitRec) : UnitRec :=
    if !(r.enableAt && r.st == .off) then { r with enableAt := false }
    else if unitDomOn s u then { r with st := .inService, enableAt := false, lastPass := b, step := 0 }
    else r
  { s with units := tmap s.units up }

/-! ### Requests (18 R533-R540) -/

/-- Switchable domains, and those with a gated state (18 R532). -/
def switchable (d : Nat) : Bool := d == 4 || decide (6 ≤ d ∧ d ≤ 17) || d == 19
def hasGated (d : Nat) : Bool := d == 4 || decide (6 ≤ d ∧ d ≤ 13) || d == 19

/-- A request as it acts on a domain: 3 acts as off, gated as off where there is no gated state. -/
def reqAs (d req : Nat) : Nat :=
  if req = 0 then 0 else if req = 1 ∧ hasGated d = true then 1 else 2

/-- The rope domain is in use (18 R540). -/
def ropeInUse (s : State) : Bool := [1, 2, 3, 6].contains s.pair.st || fabOn s

/-- REJ_CAUSE of a request, or 0. -/
def reqRefusal (s : State) (d req : Nat) : Nat :=
  if switchable d = false then 1
  else if (domRec s d).autoOff then 3
  else if d = 17 ∧ req ≠ 0 ∧ ropeInUse s = true then 2 else 0

/-- The path that a request takes (18 R533, R537). An on request during a shutdown, or in the pitch in which the
domain is switched off, is only latched: the shutdown's request stays in force until it has completed. -/
def pathOf (r : Dom) (req : Nat) (base : Bool) : Dom :=
  let q := { r with req := req, byBase := base }
  if req = 0 then
    match r.st with
    | 0 => if r.goingOff then { r with pend := true } else { q with st := 5 }
    | 2 | 3 => { r with pend := true }
    | 4 => { q with pend := true }
    | _ => q
  else
    match r.st with
    | 1 => { q with st := 2, pend := false }
    | 4 => { q with st := if req = 2 then 0 else 4, goingOff := req == 2, pend := false }
    | _ => { q with pend := false }

/-- A request is applied, or refused with REJ. -/
def applyReq (d req : Nat) (base : Bool) (s : State) : State :=
  let q := reqAs d req
  let c := reqRefusal s d q
  let r := domRec s d
  if c ≠ 0 then setDom d { r with rej := true, rejCause := c } s else setDom d (pathOf r q base) s

/-- A summit-world write of REQ applies at once and cancels a HELD request. -/
def reqSummit (d req : Nat) (s : State) : State :=
  applyReq d req false (setDom d { domRec s d with held := none } s)

/-- A base-world write of REQ applies when the owner is base and no lease is set; else it is HELD. -/
def reqBase (d req : Nat) (s : State) : State :=
  let r := domRec s d
  if (r.ownerBase && r.lease == 0) || !switchable d then applyReq d req true s
  else setDom d { r with held := some (req % 4) } s

/-- A summit-world write of CANCEL. -/
def reqCancel (d : Nat) (s : State) : State := setDom d { domRec s d with held := none } s

/-- A summit-world write of OWNER. -/
def setOwner (d : Nat) (base : Bool) (s : State) : State :=
  if switchable d then setDom d { domRec s d with ownerBase := base } s else s

/-- A write of the lease set: a new bit returns a draining base-world request to HELD; the units return at the next
boundary (18 R536, `domainDue`). -/
def setLease (d v : Nat) (s : State) : State :=
  let r := domRec s d
  let l := BitVec.ofNat 8 v
  if !switchable d then s
  else if (l &&& ~~~ r.lease) ≠ 0 ∧ r.st = 2 ∧ r.byBase = true then
    setDom d { r with lease := l, held := some r.req, req := 0, pend := false } s
  else setDom d { r with lease := l } s

/-- Cores C4-C7 leave reset and go to the summit firmware, once PD04 is on again (18 R538, 13 R373). -/
def startCpuB (d : Nat) (s : State) : State :=
  let boot (t : State) (c : Nat) : State := setCore c { pc := BitVec.ofNat 64 t.world.fwEntry } t
  if d = 4 then (List.range' 4 4).foldl boot s else s

/-- What a boundary does to a domain: a drain without a request ends in service, a domain switched off in the last
pitch follows its PENDING request, and a gated one that was asked on is on (18 R533, R536, R537, R547). -/
def domAtBoundary (r : Dom) : Dom :=
  match r.st with
  | 0 => if r.goingOff && r.pend then { r with st := 5, req := 0, goingOff := false, pend := false } else { r with goingOff := false }
  | 2 => if r.req = 0 then { r with st := 1, pend := false } else r
  | 4 => if r.pend then { r with st := 1, req := 0, pend := false } else r
  | _ => r

/-- At a boundary: a HELD request whose conditions hold is applied. -/
def domainDue (s : State) (d : Nat) : State :=
  let r := domRec s d
  let k := domAtBoundary r
  let s1 := if k = r then s else if r.st = 4 then startCpuB d (setDom d k s) else setDom d k s
  match k.held with
  | some q => if k.ownerBase && k.lease == 0 then applyReq d q true (setDom d { k with held := none } s1) else s1
  | none => s1

def domainsDue (s : State) : State := (List.range 20).foldl domainDue s

/-! ### Shutdown and power-up (18 R532, R537-R540) -/

/-- A core of C4-C7 that lets PD04 drain: in the summit world at machine level with no base context. The
row's occurrence stands for its WFI. -/
def coreQuiet (s : State) (c : Nat) : Bool :=
  let r := getCore s c
  !r.base && r.priv == 3 && !r.wValid

/-- Nothing in the domain is in use any more. -/
def domainQuiet (s : State) (d : Nat) : Bool :=
  if d = 4 then (List.range' 4 4).all (coreQuiet s)
  else (domainUnits d).all fun u => !unitHeld s u

/-- Ports of a network domain: PD15 holds ETH0 and ETH1, PD16 holds ETH2 and ETH3. -/
def domainPorts (d : Nat) : List Nat := if d = 15 then [0, 1] else if d = 16 then [2, 3] else []

/-- What the scrub of a domain clears. -/
def scrubClears (d : Nat) (s : State) : State :=
  if d = 14 then
    raise 6 { s with ent := { clearedEnt s.ent with
        internalQ := s.ent.internalQ, jobQ := s.ent.jobQ, isOpen := false, starting := false, opening := false
        banks := tmap s.ent.banks fun _ b => if b.st = 4 then b else { bias := b.bias, corr := b.corr, windows := b.windows } } }
  else if d = 15 ∨ d = 16 then
    (domainPorts d).foldl (fun t p => setEth p { getEth t p with up := false, sas := [], neigh := [], hs := [] } t) s
  else if d = 17 then
    { s with pair := { s.pair with keys := false, keyOut := [], ivOut := [], keyIn := [], ivIn := [], unacked := [], port0 := {}, port1 := {} } }
  else if d = 4 then
    let back := (s.world.lines.filter fun x => decide (4 ≤ x.core)).foldl evictLine s
    let blank (t : State) (c : Nat) : State := setCore c { waits := true } t
    (List.range' 4 4).foldl blank back
  else
    let clear (t : State) (u : Nat) : State := setUnit u { unitRec t u with mem := {} } t
    (domainUnits d).foldl clear s

/-- Units of a domain that is switched off are off; fenced ones stay fenced. -/
def unitsOff (d : Nat) (s : State) : State :=
  let down (t : State) (u : Nat) : State :=
    let r := unitRec t u
    if r.st = .fenced then t else setUnit u { r with st := .off, pendingEn := false, enableAt := false, step := 0 } t
  (domainUnits d).foldl down s

/-- The domain's scrub has ended. -/
def domainScrubbed (d : Nat) (s : State) : State :=
  let r := domRec s d
  if r.st ≠ 3 then s
  else
    let s1 := scrubClears d s
    let off := decide (r.req ≠ 1) || r.autoOff
    setDom d { r with st := if off then 0 else 4, goingOff := off && !r.autoOff, pend := r.pend && !r.autoOff }
      (if off then unitsOff d s1 else s1)

/-- A powering-up domain reaches power good. -/
def powerGood (d : Nat) (s : State) : State :=
  let r := domRec s d
  if r.st ≠ 5 then s
  else if d = 14 ∨ (domainUnits d).isEmpty then
    startCpuB d (setDom d { r with st := if r.req = 0 then 1 else 2 } s)
  else setDom d { r with st := 6 } s

/-- The self-test after power-up has ended: units that passed and are enabled enter service, the others
are fenced (18 R538, 16 R490). -/
def selfTested (d : Nat) (bad : List Nat) (s : State) : State :=
  let r := domRec s d
  if r.st ≠ 6 then s
  else
    let s1 := setDom d { r with st := if r.req = 0 then 1 else 2 } s
    let enter (t : State) (u : Nat) : State :=
      let k := unitRec t u
      if k.st = .fenced || bad.contains u then t
      else setUnit u { k with st := if k.en then .inService else .off, lastPass := t.sched.pitch, step := 0 } t
    let s2 := (domainUnits d).foldl enter s1
    let failed := (domainUnits d).filter fun u => bad.contains u && (unitRec s u).st != .fenced
    failed.foldl (fun t u => unitFault u 2 (t.sched.pitch + 2) t) s2

/-! ### Meanings: units -/

/-- SYM_LANE_CTL.EN bit `n` cleared (LANE_DISABLE). -/
def execLaneDisable (n : Nat) (s : State) : Host.Outcome State Fault Refusal :=
  .next (if n < 4 then disableUnit n s else s)

/-- LANE_ENABLE. -/
def execLaneEnable (n : Nat) (s : State) : Host.Outcome State Fault Refusal :=
  .next (if n < 4 then enableUnit n s else s)

/-- HASH_CORE_DISABLE. -/
def execHashCoreDisable (n : Nat) (s : State) : Host.Outcome State Fault Refusal :=
  .next (if n < 16 then disableUnit (4 + n) s else s)

/-- HASH_CORE_ENABLE. -/
def execHashCoreEnable (n : Nat) (s : State) : Host.Outcome State Fault Refusal :=
  .next (if n < 16 then enableUnit (4 + n) s else s)

/-- PKE_CORE_DISABLE. -/
def execPkeCoreDisable (n : Nat) (s : State) : Host.Outcome State Fault Refusal :=
  .next (if n < 64 then disableUnit (20 + n) s else s)

/-- PKE_CORE_ENABLE. -/
def execPkeCoreEnable (n : Nat) (s : State) : Host.Outcome State Fault Refusal :=
  .next (if n < 64 then enableUnit (20 + n) s else s)

/-- LAT_SLICE_DISABLE. -/
def execLatSliceDisable (n : Nat) (s : State) : Host.Outcome State Fault Refusal :=
  .next (if n < 16 then disableUnit (84 + n) s else s)

/-- LAT_SLICE_ENABLE. -/
def execLatSliceEnable (n : Nat) (s : State) : Host.Outcome State Fault Refusal :=
  .next (if n < 16 then enableUnit (84 + n) s else s)

/-- KE_SLOT_DISABLE. -/
def execKeSlotDisable (n : Nat) (s : State) : Host.Outcome State Fault Refusal :=
  .next (if n < 8 then disableUnit (100 + n) s else s)

/-- KE_SLOT_ENABLE. -/
def execKeSlotEnable (n : Nat) (s : State) : Host.Outcome State Fault Refusal :=
  .next (if n < 8 then enableUnit (100 + n) s else s)

/-- UNIT_DRAIN_END. -/
def execUnitDrainEnd (unit : Nat) (s : State) : Host.Outcome State Fault Refusal := .next (drainEnd unit s)

/-- UNIT_SCRUB_END. -/
def execUnitScrubEnd (unit : Nat) (s : State) : Host.Outcome State Fault Refusal := .next (scrubEnd unit s)

/-! ### Meanings: power -/

/-- PWR_REQ_SUMMIT. -/
def execPwrReqSummit (dom req : Nat) (s : State) : Host.Outcome State Fault Refusal := .next (reqSummit dom req s)

/-- PWR_REQ_BASE. -/
def execPwrReqBase (dom req : Nat) (s : State) : Host.Outcome State Fault Refusal := .next (reqBase dom req s)

/-- PWR_CANCEL. -/
def execPwrCancel (dom : Nat) (s : State) : Host.Outcome State Fault Refusal := .next (reqCancel dom s)

/-- PWR_OWNER_WRITE. -/
def execPwrOwnerWrite (dom : Nat) (base : Bool) (s : State) : Host.Outcome State Fault Refusal :=
  .next (setOwner dom base s)

/-- PWR_LEASE_WRITE. -/
def execPwrLeaseWrite (dom lease : Nat) (s : State) : Host.Outcome State Fault Refusal := .next (setLease dom lease s)

/-- DOMAIN_DRAIN_END: at a boundary at which no job holds a segment in the domain. -/
def execDomainDrainEnd (dom : Nat) (s : State) : Host.Outcome State Fault Refusal :=
  let r := domRec s dom
  .next (if r.st = 2 ∧ r.req ≠ 0 ∧ domainQuiet s dom = true then setDom dom { r with st := 3 } s else s)

/-- DOMAIN_SCRUB_END. -/
def execDomainScrubEnd (dom : Nat) (s : State) : Host.Outcome State Fault Refusal := .next (domainScrubbed dom s)

/-- DOMAIN_POWER_GOOD. -/
def execDomainPowerGood (dom : Nat) (s : State) : Host.Outcome State Fault Refusal := .next (powerGood dom s)

/-- DOMAIN_SELF_TEST_END. -/
def execDomainSelfTestEnd (dom : Nat) (bad : List Nat) (s : State) : Host.Outcome State Fault Refusal :=
  .next (selfTested dom bad s)

end Sys2Proof.Machine
end

