-- ==== Sys2Proof/Machine/SymData.lean ====
section
/-! DEFINITION. What a symmetric entry computes: its data, its ciphers and tags, the words and verdicts that a lane's
datapaths put out (06 R175, R176, R184-R199). -/

namespace Sys2Proof.Machine

/-! ### The data that an entry works on -/

/-- What an operation works on: key, nonce or IV, additional data, the data before and of this entry, and the tag
that ends the input of a decryption. -/
structure SymIn where
  key : List Byte := []
  iv : List Byte := []
  aad : List Byte := []
  before : List Byte := []
  data : List Byte := []
  tag : List Byte := []
  deriving DecidableEq, Repr

/-- The stream that a middle or last entry continues. -/
def streamOf (s : State) (j : Job) : Stream :=
  if j.hdr.isFirst then {} else (jobStream s j).getD {}

/-- Material of KEY_A. -/
def keyMat (j : Job) : List Byte := (j.keyA.map fun o => o.mat).getD []

/-- PKCS#7 padding of `n` bytes of data to blocks of 16 (06 R186). -/
def pkcs7 (n : Nat) : List Byte := List.replicate (16 - n % 16) (BitVec.ofNat 8 (16 - n % 16))

/-- The data of an entry with the padding that PAD asks for. -/
def paddedData (j : Job) : List Byte :=
  let op := j.hdr.opcode
  let d := entryData j
  if (op = 0x100 ∨ op = 0x104) ∧ j.hdr.p0 0 1 = 1 then d ++ pkcs7 d.length else d

/-- The tag at the end of a last entry's input. -/
def inputTag (j : Job) : List Byte := j.input.drop (j.input.length - tagLen j.hdr)

def symIn (s : State) (j : Job) : SymIn :=
  let t := streamOf s j
  { key := keyMat j
    iv := if j.hdr.isFirst then entryIv j else t.iv
    aad := if j.hdr.isFirst then entryAad j else t.aad
    before := t.data, data := paddedData j, tag := inputTag j }

/-- All data of the stream so far. -/
def SymIn.all (x : SymIn) : List Byte := x.before ++ x.data

/-- The cipher of each opcode over the data of its whole stream so far (06 R185, R186, R191). -/
def cipherWhole (h : Header) (x : SymIn) : List Byte :=
  let d := x.all
  match h.opcode with
  | 0x100 => ecbEnc aes x.key d
  | 0x101 => ecbDec aes x.key d
  | 0x104 => cbcEnc aes x.key x.iv d
  | 0x105 => cbcDec aes x.key x.iv d
  | 0x108 => cfbEnc x.key x.iv d
  | 0x109 => cfbDec x.key x.iv d
  | 0x10C | 0x10D => ofbMode x.key x.iv d
  | 0x110 | 0x111 => ctrMode x.key x.iv d
  | 0x118 => xtsMode aesBlock x.key h.param0.toNat (2 ^ h.p1 0 5) d
  | 0x119 => xtsMode aesInverse x.key h.param0.toNat (2 ^ h.p1 0 5) d
  | 0x120 | 0x121 => gcmCrypt x.key x.iv d
  | 0x128 | 0x129 => ccmCrypt x.key x.iv d
  | 0x12C => sivCrypt x.key x.iv (sivTag x.key x.iv x.aad d) d
  | 0x12D => sivCrypt x.key x.iv x.tag d
  | 0x140 | 0x141 => chachaCrypt x.key x.iv d
  | 0x150 => ecbEnc tdea x.key d
  | 0x151 => ecbDec tdea x.key d
  | 0x154 => cbcEnc tdea x.key x.iv d
  | _ => cbcDec tdea x.key x.iv d

/-- The output for the data of this entry. -/
def cipherOut (h : Header) (x : SymIn) : List Byte := (cipherWhole h x).drop x.before.length

/-- The tag over a whole message, in the encrypt direction (even opcodes) and in the decrypt direction: GCM and
ChaCha20-Poly1305 take it over the ciphertext, CCM and GCM-SIV over the plaintext, GMAC over the message. -/
def tagOut (h : Header) (x : SymIn) : List Byte :=
  let ct := if h.opcode % 2 = 0 then cipherWhole h x else x.all
  let pt := if h.opcode % 2 = 0 then x.all else cipherWhole h x
  match h.opcode with
  | 0x120 | 0x121 => (gcmTag x.key x.iv x.aad ct).take (tagLen h)
  | 0x124 | 0x125 => (gcmTag x.key x.iv x.all []).take (tagLen h)
  | 0x128 | 0x129 => ccmTag x.key x.iv x.aad pt (tagLen h)
  | 0x12C | 0x12D => sivTag x.key x.iv x.aad pt
  | _ => chachaTag x.key x.iv x.aad ct

/-- The tag that ends the input verifies. -/
def tagOk (h : Header) (x : SymIn) (tag : List Byte) : Bool := tagOut h x == tag

/-- AES-KWP of `m` under a key. -/
def kwpWrap (kek m : List Byte) : List Byte := kwSeal kek (kwpIcv m.length) (padBlocks 8 m)

/-- Length of what a KWP wrapping holds, as its ICV says. -/
def kwpInner (kek w : List Byte) : Nat := beNat (sliceB (kwOpen kek w).1 4 4)

/-- What a KWP wrapping holds. -/
def kwpUnwrap (kek w : List Byte) : List Byte := (kwOpen kek w).2.take (kwpInner kek w)

/-- The ICV of a wrapping verifies: KW (0) or KWP (1), whose length fits and whose padding is zero. -/
def unwrapOk (alg : Nat) (kek w : List Byte) : Bool :=
  let r := kwOpen kek w
  let n := kwpInner kek w
  if alg = 0 then r.1 == kwIcv
  else r.1.take 4 == kwIcvHead && decide (r.2.length < n + 8) && decide (n ≤ r.2.length)
    && (r.2.drop n).all fun b => b == 0
where
  kwIcvHead : List Byte := (kwpIcv 0).take 4

/-! ### What a datapath of a lane puts out (06 R175, R176) -/

/-- The output words of an entry under a key: ciphertext or plaintext, the plaintext that is held included, and the tag
that a last entry forms. -/
def outWords (s : State) (key : List Byte) (j : Job) : List Byte :=
  let x := { symIn s j with key := key }
  let tail := if j.hdr.isLast then tagOut j.hdr x else []
  match j.hdr.opcode with
  | 0x120 | 0x121 | 0x128 | 0x129 | 0x12C | 0x12D | 0x140 | 0x141 => cipherOut j.hdr x ++ tail
  | 0x124 | 0x125 => tail
  | 0x130 => kwSeal key kwIcv j.input
  | 0x132 => kwpWrap key j.input
  | 0x131 | 0x133 => (kwOpen key j.input).2
  | _ => cipherOut j.hdr x

/-- The verdict of a tag or ICV comparison under a key, in one byte, for an entry that ends with one. -/
def verdictOf (s : State) (key : List Byte) (j : Job) : List Byte :=
  let x := { symIn s j with key := key }
  match j.hdr.opcode with
  | 0x121 | 0x125 | 0x129 | 0x12D | 0x141 =>
    if j.hdr.isLast then [BitVec.ofNat 8 (b2n (tagOk j.hdr x (inputTag j)))] else []
  | 0x131 => [BitVec.ofNat 8 (b2n (unwrapOk 0 key j.input))]
  | 0x133 => [BitVec.ofNat 8 (b2n (unwrapOk 1 key j.input))]
  | _ => []

/-- Input bytes that a datapath takes in the 2,500 cycles of a pitch: 128 bits per cycle, 64 bits for TDEA, two passes
for GCM-SIV; one block per 16 cycles, or 50 for TDEA, along a feedback chain, of which KW and KWP make six for each 8
bytes (06 R175, R201). -/
def laneRate (h : Header) : Nat :=
  match h.opcode with
  | 0x104 | 0x108 | 0x10C | 0x10D | 0x128 | 0x129 => 2500 / 16 * 16
  | 0x130 | 0x131 | 0x132 | 0x133 => 2500 / 96 * 8
  | 0x154 => 2500 / 50 * 8
  | 0x150 | 0x151 | 0x155 | 0x12C | 0x12D => 2500 * 8
  | _ => 2500 * 16

end Sys2Proof.Machine
end

