-- ==== Sys2Proof/Machine/Pitch.lean ====
section
/-! DEFINITION. The pitch boundary and what happens to jobs between boundaries: grants, starts, segment
ends, key loads, memory errors, the idle sweep (02 R44-R63, 16 R481, R489-R493). -/

namespace Sys2Proof.Machine

/-! ### Time -/

/-- PITCH_COUNT, the RTC, the watchdogs and the guard supply's settling time advance by one pitch. One pitch
is 65,536 millionths of a count of the 32,768 Hz clock (15 R454). -/
def tick (s : State) : State :=
  let w := s.world
  let sw := if w.ready && bitAt (rw s 0x120010) 32 then w.swCount + 1 else w.swCount
  let bw := if bitAt (rw s 0x120020) 32 then w.bwCount + 1 else w.bwCount
  let s1 := { s with
    sched := { s.sched with pitch := (s.sched.pitch + 1) % 2 ^ 64 }
    world := { w with swCount := sw, bwCount := bw }
    life := { s.life with stable := if s.board.vddGuard then s.life.stable + 1 else 0 } }
  evcAdd 0x02 1 (evcAdd 0x01 2500 (rtcRun 65536 s1))

/-- The events of a group of counters, by place in the group. -/
def countEach (src : Nat) (l : List Nat) (s : State) : State :=
  (List.range l.length).foldl (fun t i => evcAdd (src + i) (nthD l i 0) t) s

/-- The patrol scrub is behind 16 GiB per hour (02 R59, R68): the 2^28 lines of 64 bytes of the stack in each
1,800,000,000 pitches. -/
def scrubLate (s : State) : Bool :=
  s.hbm.ready && decide ((s.sched.scrubPasses * 2 ^ 28 + s.hbm.scrubLine) * 1800000000 < s.sched.pitch * 2 ^ 28)

/-- HBM access slots that the patrol scrub takes in a pitch: those that foreground work left it, and 1 slot in
16 at least while it is behind (02 R59, R63). -/
def scrubTaken (g : Background) (s : State) : Nat :=
  let front := (g.hbmReads.take 4).foldl (· + ·) 0 + (g.hbmWrites.take 4).foldl (· + ·) 0
  if !s.hbm.ready then 0 else if s.sched.scrubBehind then max g.scrubSlots (ceilDiv front 15) else g.scrubSlots

/-- Of the counts of the cores, those that a NONINVASIVE enable allows; `summit` counts summit cycles alone (13 R395). -/
def tracedOnly (summit : Bool) (s : State) (l : List Nat) : List Nat :=
  l.zipIdx.map fun p => if coreTraced s p.2 && (!summit || s.dbg.enabled.getLsbD 1) then p.1 else 0

/-- The patrol scrub and the other background of the ending pitch (02 R59, R68, 16 R488, 19 R559, R561). One
scrub slot covers one 64-byte line (DESIGN CHOICE, log 50). -/
def backgroundWork (g : Background) (s : State) : State :=
  let n := scrubTaken g s
  let line := s.hbm.scrubLine + n
  let s0 := { s with
    hbm := { s.hbm with scrubLine := line % 2 ^ 28 }
    sched := { s.sched with compact := g.compact, scrubPasses := satAdd 32 s.sched.scrubPasses (line / 2 ^ 28) } }
  let s1 := { s0 with sched := { s0.sched with scrubBehind := scrubLate s0 } }
  let s2 := countCores g.retired (evcAdd 0x69 n (bump 27 2 n s1))
  countEach 0x78 (tracedOnly true s (g.summitCycles.take 8)) (countEach 0x70 (tracedOnly false s (g.retired.take 8))
    (countEach 0x64 (g.hbmWrites.take 4) (countEach 0x60 (g.hbmReads.take 4) s2)))

/-! ### Overruns and incomplete work (02 R48) -/

/-- A segment has not ended at the boundary: F1 once for each. -/
def overrun (s : State) (u : Nat) : State :=
  let r := unitRec s u
  if r.seg && r.job.isSome && !r.overrun && r.st != .fenced then
    let b := unitBlock u
    let s1 := setUnit u { r with overrun := true } s
    evcAdd 0x08 1 (collect (b.1 * 32) 1 b.2 { s1 with sched := { s1.sched with overruns := satAdd 32 s1.sched.overruns 1 } })
  else s

/-- The work of a quoted job on a unit is incomplete at its quota boundary: F2 on the unit. -/
def incomplete (b : Nat) (s : State) (u : Nat) : State :=
  match (unitRec s u).job with
  | none => s
  | some ctx => match getJob s ctx with
    | some j =>
      if j.phase == .running && !isUnquoted j.hdr && !j.workDone && decide (j.due ≤ b) then unitFault u 1 (b + 1) s else s
    | none => s

/-! ### Queues at the boundary -/

/-- Every queue that is not being torn down advances its head. -/
def headsDue (s : State) : State :=
  s.qm.queues.foldl (fun t p => if p.2.tearP.isSome then t else advanceHead p.1 t) s

/-- Teardowns take effect, and those whose entries are all released end. -/
def teardownsDue (b : Nat) (s : State) : State :=
  let begin_ (t : State) (p : Nat × Queue) : State :=
    match getQueue t p.1 with
    | some q => if q.tearAsk = 0 then t else beginTeardown b p.1 t
    | none => t
  let s1 := s.qm.queues.foldl begin_ s
  s1.qm.queues.foldl (fun t p => if p.2.tearP.isSome then teardownStep p.1 (advanceHead p.1 t) else t) s1

/-- Sessions that are closing and hold no queue any more are gone. -/
def sessionsGone (s : State) : State :=
  let keep (p : Nat × Sess) : Bool :=
    p.2.st != 3 || p.2.closeGate.isSome || s.qm.queues.any fun q => q.2.session == p.1 && !q.2.isInternal
  { s with tol := { s.tol with sess := s.tol.sess.filter keep } }

/-! ### MAINTENANCE (01 R39) -/

/-- A job of a queue other than an admin queue. -/
def nonAdminJob (s : State) (j : Job) : Bool :=
  match getQueue s j.slot with
  | some q => !q.admin
  | none => true

/-- Sessions and addresses can be handed to the partner: it is paired, reachable and not itself handed over (14 R432). -/
def canHandOver (s : State) : Bool := paired s && s.pair.st == 3 && !s.pair.addrTaken && !linkSilent s

/-- The queue belongs to a session taken over from the partner. -/
def takenOver (s : State) (q : Queue) : Bool := !q.isInternal && (getSess s q.session).any fun x => x.taken

/-- The last non-admin job has been released: the mode changes and MAINT_ENTER is released with it. -/
def maintenanceDue (b : Nat) (s : State) : State :=
  match s.sys.maintPending with
  | none => s
  | some ctx =>
    match getJob s ctx with
    | none => { s with sys := { s.sys with maintPending := none } }
    | some j =>
      if (s.sched.jobs.any fun p => nonAdminJob s p.2) || decide (b < j.due) || !acked s 1 j.ackNeed then s
      else
        let s1 := { s with sys := { s.sys with mode := .maintenance, maintPending := none } }
        let s2 := releaseJob ctx { j with workDone := true } {} b s1
        { s2 with sys := { s2.sys with handDue := canHandOver s2 } }

/-- The planned takeover that follows the entry to MAINTENANCE (14 R431): once no job is in flight and the partner
has every head, the sessions and addresses go to it. Admin queues are not fetched until then (log 81). -/
def handoverDue (s : State) : State :=
  if !s.sys.handDue then s
  else if !(canHandOver s && s.sys.mode == .maintenance) then { s with sys := { s.sys with handDue := false } }
  else if !s.sched.jobs.isEmpty || s.qm.queues.any (fun p => !p.2.headGates.isEmpty || p.2.tearP.isSome) then s
  else
    let s1 := handOut 1 (fun _ => true) s
    pairState 6 { s1 with
      sys := { s1.sys with handedOver := true, handDue := false }
      pair := { s1.pair with addrHeld := false } }

/-! ### Context grants (02 R55-R58, 14 R429, 19 R558) -/

/-- Contexts in use. -/
def ctxInUse (s : State) : Nat := (s.sched.jobs.filter fun p => decide (p.1 < ctxLimit)).length

/-- Contexts that the queues of a partition hold. -/
def partInUse (s : State) (part : Nat) : Nat :=
  (s.sched.jobs.filter fun p =>
    decide (p.1 < ctxLimit) && (match getQueue s p.2.slot with | some q => q.part == part | none => false)).length

/-- PITCH_PCAP.CAP of a partition. -/
def capOf (s : State) (part : Nat) : Nat := min 4096 (tgetD s.sched.pcaps part 4096)

/-- A queue with a fetchable entry (02 R56) whose previous entry has left the fetch stage (04 R133). In MAINTENANCE the
queues of sessions taken over stay unfetched, admin queues with them (14 R432). -/
def fetchable_ (s : State) (b slot : Nat) (q : Queue) : Bool :=
  q.st == .active && decide (q.tearAsk = 0) && q.visible != q.cidx && !q.lateRefuse && decide (q.nextGrant ≤ b)
    && !(q.admin && s.sys.handDue) && !(s.sys.mode == .maintenance && takenOver s q) && (q.admin || (s.sys.mode != .maintenance && s.sys.maintPending.isNone))
    && !((jobsOf s slot).any fun p => p.2.phase == .granted || p.2.phase == .fetchWait)

/-- Output staging that the entry at CIDX would reserve. -/
def stageAt (s : State) (q : Queue) : Nat := stageBlocks s (decodeHeader (ringRead s q q.cidx.toNat 1))

/-- One queue in the round: a grant, or one more boundary of wait. -/
def grantQueue (b : Nat) (s : State) (slot : Nat) : State :=
  match getQueue s slot with
  | none => s
  | some q =>
    if !fetchable_ s b slot q then s
    else
      let count := q.wait + 1
      let limit := fld (rw s 0x10010) 0 32
      let blocks := stageAt s q
      let room := decide (partInUse s q.part < capOf s q.part) && decide (stageUsed s + blocks ≤ 16384)
      match (lowestFree s.sched.jobs 4096).filter fun _ => room && (decide (limit = 0) || decide (count ≤ limit)) with
      | none => setQueue slot { q with wait := count } s
      | some ctx =>
        let j : Job := { slot, entry := q.cidx, order := s.sched.nextOrder, stage := blocks, discard := q.discard }
        let s1 := setJob ctx j (setQueue slot { q with wait := 0 } s)
        evcAdd 0x06 1 { s1 with sched := { s1.sched with nextOrder := s1.sched.nextOrder + 1, rrLast := slot } }

/-- The round starts behind the last slot granted at an earlier boundary. -/
def grantRound (b : Nat) (s : State) : State :=
  let start := s.sched.rrLast + 1
  let place (n : Nat) : Nat := (n + 1536 - start % 1536) % 1536
  let slots := (s.qm.queues.map fun p => p.1).mergeSort fun a c => decide (place a ≤ place c)
  slots.foldl (grantQueue b) s

/-- One forwarded job takes a context; none of the fetch checks is made again (14 R429). -/
def grantForwarded (b : Nat) (s : State) (f : Forwarded) : State :=
  match lowestFree s.sched.jobs 4096 with
  | none => { s with sched := { s.sched with fwdIn := s.sched.fwdIn ++ [f] } }
  | some ctx =>
    let slot := partnerSlot + f.id
    let plan := createPlan f.hdr f.input
    let slots := pickSlots s plan.length
    let done := f.made.isSome
    let draw := if f.nonce.isSome || done then 0 else drawBytes s f.hdr f.input
    let j : Job := {
      slot, entry := f.entry, hdr := f.hdr, input := f.input, phase := .ready, order := s.sched.nextOrder
      strm := f.stream.map fun t => t.id, committed := f.committed, nonce := f.nonce, leaf := f.leaf, forPartner := some f.id, fwdFrom := some (f.session, f.qnum, f.entry)
      resSlots := if done then [] else slots, resGran := if done then 0 else planGranules plan
      saltNeed := if done then 0 else plan.length, draw := draw, entNeed := draw
      result := f.made, entSince := b, notBefore := b }
    let streams := match f.stream with
      | some t => s.strm.tab ++ [{ t with slot := slot, blocks := 0 }]
      | none => s.strm.tab
    let s1 := setJob ctx j { s with
      sched := { s.sched with nextOrder := s.sched.nextOrder + 1 }, strm := { s.strm with tab := streams } }
    if !done && decide (slots.length < plan.length) then
      endJob ctx j { status := stKeyExhausted } (b + 1) (countRefusal j.hdr stKeyExhausted s1)
    else if !classUp s (unitClass f.hdr) then endJob ctx j { status := stUnitUnavailable } (b + 1) s1
    else if s.ent.stopped && decide (0 < draw) then endJob ctx j { status := stEntropyFail } (b + 1) s1
    else serveSalts (reserveDraw ctx draw s1)

/-- Forwarded jobs are granted contexts before the round. -/
def grantsDue (b : Nat) (s : State) : State :=
  let s1 := s.sched.fwdIn.foldl (grantForwarded b) { s with sched := { s.sched with fwdIn := [] } }
  grantRound b s1

/-! ### Starts and further segments (02 R47, R53) -/

/-- While the summit world of this device restarts, the partner serves its firmware entries (01 R28; log 79). -/
def firmForward (s : State) (j : Job) : Bool :=
  s.sys.summitRestarting && paired s && s.pair.st == 3 && j.forPartner.isNone && partnerServes j.hdr.opcode
    && slotTurn s j

/-- A job that waits unstarted starts, waits on, or leaves because no unit of its class is in service. A core or slice
has read its input in the pitch before (08 R229, 09 R253). -/
def startOne (b : Nat) (s : State) (ctx : Nat) : State :=
  match getJob s ctx with
  | none => s
  | some j =>
    let c := unitClass j.hdr
    if j.phase != .ready || c == .tenant then s
    else if c == .firm then (if firmForward s j then forwardJob ctx j s else s)
    else if mustForward s j then (if jobTurn s b j then sendAway ctx j s else s)
    else if needsLoad j.hdr && !j.keyLoaded && !classUp s .ke then forwardOrRefuse ctx j s
    else if !canStart s b j then s
    else if c.needsUnit then
      match pickUnit s j with
      | some u =>
        if readsAhead c then (if j.inputRead then startJob ctx { j with inputRead := false } (some u) b s else s)
        else
          let io := inputAccess u ctx j s
          if io.1 then startJob ctx j (some u) b io.2 else io.2
      | none => if classUp s c then setJob ctx { j with inputRead := false } s else forwardOrRefuse ctx j s
    else startJob ctx { j with drawWait := j.hdr.opcode == 0x600 } none b s

/-- Jobs in the order of their context grants. -/
def byOrder (s : State) : List Nat :=
  (s.sched.jobs.mergeSort fun a c => decide (a.2.order ≤ c.2.order)).map fun p => p.1

def startsDue (b : Nat) (s : State) : State := (byOrder s).foldl (startOne b) s

/-- A random job goes on with its next segment or is held; an RSA key generation resumes (02 R53, 08
R246). -/
def randomOne (b : Nat) (s : State) (ctx : Nat) : State :=
  match getJob s ctx with
  | none => s
  | some j =>
    if j.hdr.opcode == 0x600 && !j.workDone && !j.drawWait then
      if j.phase = .running then
        if j.entNeed = 0 then setJob ctx { j with drawWait := true } s
        else evcAdd 0x3A 1 (setJob ctx { j with phase := .held, entSince := b - 1 } s)
      else if j.phase = .held ∧ j.entNeed = 0 then
        let left := ceilDiv (j.hdr.outMax - j.partialOut.length) 2048
        setJob ctx { j with phase := .running, started := b, due := b + 1 + left, drawWait := true } s
      else s
    else if j.hdr.opcode == 0x308 && j.phase == .held && decide (j.entNeed = 0) then
      setJob ctx { j with phase := .running } s
    else s

/-- Every running job whose work is not complete gets its next segment. -/
def segmentOne (b : Nat) (s : State) (u : Nat) : State :=
  let r := unitRec s u
  match r.job with
  | none => s
  | some ctx => match getJob s ctx with
    | some j => if j.phase == .running && !j.workDone && !r.seg then
        countSegment u (setUnit u { r with seg := true, busyAt := some b } s)
      else s
    | none => s

/-- The entropy output has stopped: on a paired device jobs that wait unstarted for randomness and random-class jobs
held between segments are forwarded at once (10 R296). A held RSA key generation waits its 50 ms (08 R246). -/
def stoppedForward (b : Nat) (s : State) (ctx : Nat) : State :=
  match getJob s ctx with
  | none => s
  | some j =>
    let waits := (j.phase == .ready && jobTurn s b j) || (j.phase == .held && j.hdr.opcode == 0x600)
    if paired s && waits && j.forPartner.isNone && stoppedShort s j then sendAway ctx j s else s

/-! ### The idle sweep (16 R489-R492) -/

/-- Steps of a pass. -/
def sweepSteps (u : Nat) : Nat :=
  if u < 4 then 8 else if u < 20 then 4 else if u < 84 then 16 else if u < 100 then 12 else if u < 108 then 4 else 2

/-- A sweep failure of unit `u`. -/
def sweepFailed (u step : Nat) (mism : Bool) (s : State) : State :=
  let s1 := { s with sweep := { s.sweep with
    fails := satAdd 16 s.sweep.fails 1, failUnit := u, failStep := step, failKind := mism, failValid := true
    failPitch := s.sched.pitch % 2 ^ 48 } }
  if 108 ≤ u then condFault (u - 108) s1
  else if mism && decide (4 ≤ u) && decide (u < 20) then unitFault u 2 (s.sched.pitch + 2) (bump 11 18 1 s1)
  else if mism && (decide (u < 4) || decide (100 ≤ u)) then mismatchFault u 2 (s.sched.pitch + 2) s1
  else unitFault u 2 (s.sched.pitch + 2) s1

/-- Key loads that wait for a key engine slot: foreground work of the slots (02 R46, R59). -/
def loadsWaiting (s : State) : Nat :=
  (s.sched.jobs.filter fun p => p.2.phase == .ready && needsLoad p.2.hdr && !p.2.keyLoaded).length

/-- A unit that background work may take for the pitch that `b` opens: a key engine slot only where the idle ones
suffice for the key loads that wait (02 R59). -/
def spareUnit (s : State) (b u : Nat) : Bool :=
  let idle := (List.range' 100 8).filter fun k => inService s k && unitIdle s b k && (unitRec s k).job.isNone && !(unitRec s k).reserved
  decide (u < 100) || decide (108 ≤ u) || (unitRec s u).reserved || decide (loadsWaiting s < idle.length)

/-- The vectors of the sweep in the boot ROM. -/
def sweepVectors : Nat := 0x70000

/-- The sweep at one unit: a step on an idle unit, its vectors read by master 0x20. A reserved step waits for the
release of the unit's jobs in flight (02 R61); a conditioner without a reservation is swept only while the pool is
full (10 R295). -/
def sweepUnit (b : Nat) (bad : List (Nat × Bool)) (s : State) (u : Nat) : State :=
  let r := unitRec s u
  let gap := clampN 64 4096 (fld (rw s 0x1E0000) 0 13)
  if portWaits s sweepVectors || (decide (108 ≤ u) && !r.reserved && decide (0 < poolRoom s)) then s
  else if !inService s u || !unitIdle s b u || !spareUnit s b u || (r.reserved && unitHeld s u)
      || !(r.reserved || decide (r.lastStart + gap ≤ b)) then s
  else
    let io := engineAccess 0x20 .read sweepVectors 64 none s
    let s1 := { io.2 with sweep := { io.2.sweep with blocked := !io.1 } }
    if !io.1 then s1
    else
      let step := r.step + 1
      let done := decide (sweepSteps u ≤ step)
      let r1 := { r with
        lastStart := b, busyAt := some b, step := if done then 0 else step, lastPass := if done then b else r.lastPass
        reserved := r.reserved && !done }
      let s2 := evcAdd 0x09 1 (setUnit u r1 { s1 with sweep := { s1.sweep with
        passes := if done then satAdd 32 s1.sweep.passes 1 else s1.sweep.passes } })
      match bad.find? fun e => e.1 == u with
      | some e => sweepFailed u r.step e.2 s2
      | none => s2

/-- Recalibration takes a healthy bank for the pitch that `b` opens: its pending blocks whose APT window is cut
short are discarded (10 R291). -/
def recalBank (b : Nat) (s : State) (bank : Nat) : State :=
  let k := getBank s bank
  let cut := k.pendingBlocks.filter fun x => !x.tested
  if k.st = 1 ∧ bank < 16 then
    bump 14 1 cut.length (bump 14 5 1
      (setBank bank { k with st := 2, lastRecal := b, pendingBlocks := k.pendingBlocks.filter fun x => x.tested } s))
  else s

/-- Banks that the boundary takes: the background's choice while the pool is three-quarters full, and in any case
those whose last 1,023 pitches held no recalibration (10 R291). -/
def recalDue (b : Nat) (asked : List Nat) (s : State) : List Nat :=
  (List.range 16).filter fun n =>
    (asked.contains n && decide (24576 ≤ s.ent.pool.length)) || decide ((getBank s n).lastRecal + 1024 ≤ b)

/-- Banks taken at the boundary before are healthy again, and their windows start over. -/
def recalEnds (s : State) : State :=
  let back (k : Bank) : Bank := if k.st = 2 then newWindows s { k with st := 1 } else k
  { s with ent := { s.ent with banks := tmap s.ent.banks fun _ k => back k } }

/-! ### The boundary (02 R585) -/

/-- A job that waits unstarted for a unit of a class with no unit in service leaves at this boundary (06 R182, 05
R173). -/
def unitless (b : Nat) (s : State) (ctx : Nat) : State :=
  match getJob s ctx with
  | some j =>
    let c := unitClass j.hdr
    if j.phase == .ready && c.needsUnit && !classUp s c && (!paired s || j.forPartner.isSome || jobTurn s b j) then leaveAt b ctx j s
    else s
  | none => s

/-- What jobs and queues see of the boundary `b`: releases, heads, teardowns. -/
def releasesDue (b : Nat) (s : State) : State :=
  let s1 := (byOrder s).foldl (unitless b) ((List.range 112).foldl overrun s)
  let s2 := (List.range 108).foldl (incomplete b) s1
  let s3 := teardownsDue b (releaseAll b s2)
  sessionsGone (handoverDue (headsDue (maintenanceDue b (releaseAll b s3))))

/-- The holder of stateful keys has no slice left: holding passes to the partner (09 R269). -/
def holderDue (s : State) : State :=
  if paired s && s.pair.st == 3 && leafHolder s && !classUp s .lat then
    mirror (.leafHolder (!s.pair.leafAway)) { s with pair := { s.pair with leafAway := !s.pair.leafAway } }
  else s

/-- The traversal states of a takeover come up by one leaf in each pitch (09 R272; DESIGN CHOICE, log 87). -/
def catchUpDue (s : State) : State :=
  let one (t : State) (e : Nat × Nat) : State :=
    match tget t.vault.objs e.1 with
    | some o => if o.travAt < e.2 then updateObj e.1 (traversed o (o.travAt + 1)) t else t
    | none => t
  let s1 := s.vault.catchUp.foldl one s
  let open_ (e : Nat × Nat) : Bool := (tget s1.vault.objs e.1).any fun o => decide (o.travAt < e.2)
  { s1 with vault := { s1.vault with catchUp := s1.vault.catchUp.filter open_ } }

/-- What takes effect at the boundary besides: commits, known-answer tests, enables, requests. -/
def changesDue (b : Nat) (s : State) : State :=
  catchUpDue <| holderDue (enablesDue b (domainsDue (katBoundary (commitsDue s))))

/-- Cold store compaction or pair resynchronisation occupies an idle key engine slot for the pitch that `b`
opens (02 R59, R62). -/
def backgroundSlot (b : Nat) (s : State) (ke : Nat) : State :=
  let u := 100 + ke
  if decide (ke < 8) && inService s u && unitIdle s b u && spareUnit s b u && (unitRec s u).job.isNone && !(unitRec s u).reserved
      && (s.sched.compact || s.pair.st == 2) then
    let s1 := setUnit u { unitRec s u with busyAt := some b } s
    if s.sched.compact then compactOne s1 else s1
  else s

/-- New work: grants, starts, further segments, the idle sweep, other background and recalibration. -/
def workDue (b : Nat) (ev : BoundaryEv) (s : State) : State :=
  let s0 := (byOrder s).foldl (randomOne b) (grantsDue b s)
  let s1 := (byOrder s0).foldl (stoppedForward b) s0
  let s2 := startsDue b s1
  let s3 := (List.range 108).foldl (segmentOne b) s2
  let s4 := (List.range 112).foldl (sweepUnit b ev.sweepBad) s3
  let s5 := ev.background.keSlots.foldl (backgroundSlot b) s4
  let s6 := recalEnds s5
  (recalDue b ev.recalibrate s6).foldl (recalBank b) s6

/-- In the pitch that ends, the core or slice that a job is about to start on has read its input (08 R229, 09 R253). -/
def readOne (b : Nat) (s : State) (ctx : Nat) : State :=
  match getJob s ctx with
  | none => s
  | some j =>
    let c := unitClass j.hdr
    if !readsAhead c || j.inputRead || !canStart s b j then s
    else match (pickUnit s j).or (c.units.find? (inService s)) with
      | some u =>
        let io := inputAccess u ctx j s
        match (getJob io.2 ctx).filter fun _ => io.1 with
        | some k => setJob ctx { k with inputRead := true } io.2
        | none => io.2
      | none => s

def readsDue (b : Nat) (s : State) : State := (byOrder s).foldl (readOne b) s

/-- What a boundary does in a mode that serves no jobs: conditioner tests, enables, domains and the recalibration of
the banks (10 R291, 18 R537). -/
def quietBoundary (b : Nat) (ev : BoundaryEv) (s : State) : State :=
  let s1 := recalEnds (enablesDue b (domainsDue (katBoundary s)))
  (recalDue b ev.recalibrate s1).foldl (recalBank b) s1

/-- PITCH_BOUNDARY. PITCH_COUNT runs in every mode of the compute die but VAULT; jobs run only while it
serves. -/
def execPitchBoundary (ev : BoundaryEv) (s : State) : Host.Outcome State Fault Refusal :=
  .next (
    if !dieOn s then s
    else
      let b := (s.sched.pitch + 1) % 2 ^ 64
      let s1 := backgroundWork ev.background (flushRecords (drainRope (tick (if serving s then readsDue b s else s))))
      if !serving s1 then quietBoundary b ev s1 else workDue b ev (changesDue b (releasesDue b s1)))

/-! ### Meanings: fetch -/

/-- The tenant function call of a queue that has waited for inbox units longer than LIMIT, with its context
(13 R390). -/
def callWaited (s : State) (limit slot : Nat) : Option (Nat × Job) :=
  (jobsOf s slot).find? fun p =>
    limit != 0 && p.2.phase == .ready && unitClass p.2.hdr == .tenant && decide (p.2.entSince + limit < s.sched.pitch)

/-- CONTEXT_WAIT_LIMIT: the entry at CIDX has waited longer than LIMIT, or was partly published then and is
covered now; or a tenant function call has waited as long for its inbox. -/
def execContextWaitLimit (slot : Nat) (s : State) : Host.Outcome State Fault Refusal :=
  .next (
    match getQueue s slot with
    | none => s
    | some q =>
      let limit := fld (rw s 0x10010) 0 32
      if serving s && q.st == .active && (q.lateRefuse || (limit != 0 && decide (limit < q.wait))) then refuseNoContext slot s
      else match callWaited s limit slot with
        | some (ctx, j) => if serving s then refuseJob ctx j stNoContext (nextBoundary s) s else s
        | none => s)

/-- ENTRY_FETCH. -/
def execEntryFetch (slot : Nat) (s : State) : Host.Outcome State Fault Refusal :=
  .next (if serving s then fetchStep slot s else s)

/-! ### Meanings: segments (02 R46) -/

/-- What stays in a unit after the last segment of a job: PKE cores and slices clear every key-dependent value (08
R229, 09 R253). -/
def leftMem (u : Nat) (m : UnitMem) : UnitMem := if 20 ≤ u ∧ u < 100 then {} else m

/-- The last segment writes the output to staging and completes the job's work; the unit is free. -/
def finishWork (u ctx : Nat) (j : Job) (m : UnitMem) (s : State) : State :=
  if portWaits s (stageAddr s ctx) then s
  else
  let io := outputAccess u ctx j s
  let s1 := setUnit u { unitRec io.2 u with seg := false, overrun := false, job := none, mem := leftMem u m } io.2
  if io.1 then setJob ctx { j with workDone := true, keyA := none, keyB := none } s1 else s1

/-- The segment on the unit has ended well; the last one completes the job's work and frees the unit. -/
def segmentOk (u : Nat) (last : Bool) (ctx : Nat) (j : Job) (s : State) : State :=
  let r := unitRec s u
  if last && j.result.isSome then finishWork u ctx j r.mem s
  else setUnit u { r with seg := false, overrun := false } s

/-! #### Cipher lanes (06 R176, R177) -/

/-- Bytes that leave the output buffer in a pitch: as many as the segment takes in, and at least what the transfer
engine moves under the worst contention. -/
def laneDrain (k : Nat) : Nat := max 16384 k

/-- Input bytes that a segment of a lane processes: what is staged, `n`, and at least what the transfer engine stages in
a pitch under the worst contention; never more than 40,000, than the datapath takes, than the output buffer has room
for, or than is left. -/
def laneBytes (h : Header) (m : UnitMem) (n left : Nat) : Nat :=
  min (max 16384 n) (min left (min (min 40000 (laneRate h)) (65536 - (m.outBuf.length - laneDrain 0))))

/-- The part of the words that belongs to a segment of `k` input bytes from `off` on: the last segment has all that
follow. -/
def laneWords (w : List Byte) (off k : Nat) (last : Bool) : List Byte := if last then w.drop off else sliceB w off k

/-- What one datapath puts out in a segment under its key: words, and in the last segment the verdict. -/
def laneOut (s : State) (j : Job) (key : List Byte) (off k : Nat) (last : Bool) : List Byte :=
  laneWords (outWords s key j) off k last ++ if last then verdictOf s key j else []

/-- The check of R176: every bit of the primary's words is the complement of the shadow's. -/
def laneCheck (primary shadow : List Byte) : Bool := (xorBytes primary shadow).all fun b => b == 0xFF

/-- A disturbance of the primary's words. -/
def disturb (w flips : List Byte) : List Byte := xorBytes w (padTo w.length flips)

/-- A segment of a lane: its words enter the output buffer only when primary and shadow agree. The shadow works on the
complement of its own key and puts out complements. -/
def laneSegment (u n : Nat) (flips : List Byte) (ctx : Nat) (j : Job) (s : State) : State :=
  let r := unitRec s u
  let left := j.input.length - r.mem.done
  let k := laneBytes j.hdr r.mem n left
  let w := disturb (laneOut s j r.mem.key r.mem.done k (k == left)) flips
  let sh := (laneOut s j (r.mem.shadow.map (~~~ ·)) r.mem.done k (k == left)).map (~~~ ·)
  if !laneCheck w sh then mismatchFault u 3 (s.sched.pitch + 2) s
  else
    let m := { r.mem with
      done := r.mem.done + k, inBuf := sliceB j.input (r.mem.done + k) 65536, outBuf := r.mem.outBuf.drop (laneDrain k)
        ++ w.take (laneWords (outWords s r.mem.key j) r.mem.done k (k == left)).length }
    if k = left ∧ j.result.isSome then finishWork u ctx j m s
    else setUnit u { r with seg := false, overrun := false, mem := m } s

/-- A disturbance of a lane that drains or scrubs without a job is a mismatch too (06 R182). -/
def idleLane (u : Nat) (flips : List Byte) (s : State) : State :=
  let st := (unitRec s u).st
  if u < 4 ∧ (st = .draining ∨ st = .scrubbing) ∧ (flips.any fun b => b != 0) then mismatchFault u 3 (s.sched.pitch + 2) s
  else s

/-! #### Rejections and faults -/

/-- An attempt budget or a sampling step ran out: F2 on the slice, kept in LAT_CHECK (09 R265, R266). -/
def budgetFault (u notBefore : Nat) (s : State) : State :=
  let r := s.flt.latRec
  let flt1 := { s.flt with latRec := (u - 84, true, min 255 (r.2.2.1 + 1), s.sched.pitch), latKind := true }
  unitFault u 5 notBefore (bump 13 19 1 { s with flt := flt1 })

/-- Signing attempts of a run: those of the segment count, and the last one of the budget ends the run (09 R256,
R266). -/
def attemptsRejected (u n : Nat) (j : Job) (s : State) : State :=
  let r := unitRec s u
  let budget := attemptBudget (j.hdr.p0 0 8)
  let k := min n (budget - r.mem.tries)
  let s1 := evcAdd 0x2A k (bump 13 18 k (setUnit u { r with
    seg := false, overrun := false, mem := { r.mem with tries := r.mem.tries + k } } s))
  if budget ≤ r.mem.tries + k then budgetFault u (s.sched.pitch + 2) s1 else s1

/-- Candidates or attempts rejected in the segment. An RSA key generation asks for its next 4,096 bytes. -/
def segmentRejected (u n ctx : Nat) (j : Job) (s : State) : State :=
  let s1 := setUnit u { unitRec s u with seg := false, overrun := false } s
  if j.hdr.opcode = 0x411 then attemptsRejected u n j s
  else if j.hdr.opcode = 0x308 ∧ j.result.isNone then
    let s2 := setJob ctx { j with phase := .held, entNeed := 4096, entSince := s.sched.pitch } (bump 12 8 n s1)
    reserveDraw ctx 4096 s2
  else s1

/-- SEGMENT_END. A verdict that the unit's class cannot give changes nothing. A fault inside a pitch restarts the job
two boundaries later, as the example of chapter 02 has it and that of chapter 16 has not (DESIGN CHOICE, log 93). -/
def segmentEnd (u : Nat) (v : SegVerdict) (s : State) : State :=
  let r := unitRec s u
  let nb := s.sched.pitch + 2
  match r.job with
  | none => match v with
    | .lane _ flips => if serving s then idleLane u flips s else s
    | _ => s
  | some ctx => match getJob s ctx with
    | none => s
    | some j =>
      if !r.seg || !serving s then s
      else match v with
        | .ok last => if u < 4 then s else segmentOk u last ctx j s
        | .lane n flips => if u < 4 then laneSegment u n flips ctx j s else s
        | .mismatch => if 100 ≤ u then mismatchFault u 3 nb s else s
        | .selfCheck => if 20 ≤ u ∧ u < 100 then selfCheckFault u nb s else s
        | .disagree => if 4 ≤ u ∧ u < 20 then unitFault u 3 nb (bump 11 18 1 s) else s
        | .exhausted => if 84 ≤ u ∧ u < 100 then budgetFault u nb s else s
        | .rejected n => segmentRejected u n ctx j s

def execSegmentEnd (unit : Nat) (v : SegVerdict) (s : State) : Host.Outcome State Fault Refusal :=
  .next (segmentEnd unit v s)

/-- JOB_WORK_COMPLETE: the work of an unquoted job that has its result is complete. -/
def execJobWorkComplete (ctx : Nat) (s : State) : Host.Outcome State Fault Refusal :=
  .next (
    match getJob s ctx with
    | none => s
    | some j =>
      if j.phase == .running && isUnquoted j.hdr && j.result.isSome && !j.workDone then
        match j.unit with
        | some u => finishWork u ctx j (unitRec s u).mem s
        | none => setJob ctx { j with workDone := true } s
      else s)

/-! ### Meanings: key loads (11 R312, R313) -/

/-- Slots of the keys that a job names. -/
def namedSlots (h : Header) : List Nat :=
  (if h.keyA = 0 then [] else [handleSlot h.keyA]) ++ (if h.keyB = 0 then [] else [handleSlot h.keyB])

/-- The keys are in their unit, a pack is opened; a cold miss takes one further pitch. -/
def loadKeys (ctx : Nat) (j : Job) (s : State) : State :=
  let slots := (namedSlots j.hdr).filter fun n => (tget s.vault.objs n).isSome
  let miss := slots.any fun n => !isHot s n
  let open_ (t : State) (n : Nat) : State := evcAdd 0x34 1 (if isHot t n then touchHot slots n t else coldMiss slots n t)
  let s1 := slots.foldl open_ s
  let j1 := { j with keyLoaded := true, notBefore := max j.notBefore (nextBoundary s + b2n miss) }
  if carriesPack j.hdr then
    let r := openEntryPack s j.hdr j.input
    if r.1 = stOk then setJob ctx { j1 with partialOut := r.2 } s1
    else refuseJob ctx j r.1 (nextBoundary s) (bump 15 6 1 s1)
  else setJob ctx j1 s1

/-- A record with an uncorrectable error: fetched from the partner on a paired device, else its slot is
lost. -/
def loseRecord (slot ke : Nat) (s : State) : State :=
  let drop (o : KeyObj) : KeyObj := { o with lost := !paired s }
  let s1 := { s with vault := { s.vault with
    objs := tmod s.vault.objs slot drop, hot := s.vault.hot.filter (· != slot)
    awaited := if paired s then s.vault.awaited.filter (· != slot) ++ [slot] else s.vault.awaited } }
  let s2 := if paired s then mirror (.ask slot) s1 else s1
  collect 486 1 ke (lostRecord slot false s2)

/-- A key engine slot can take a key load, which is a segment of one pitch: it is in service, idle in this pitch,
bound to no job and not reserved (02 R46, R60, R61). -/
def loadSlot (s : State) (ke : Nat) : Bool :=
  let r := unitRec s (100 + ke)
  decide (ke < 8) && inService s (100 + ke) && r.job.isNone && !r.reserved && unitIdle s s.sched.pitch (100 + ke)

/-- What a key load reads through the ports: the vault port, and for a cold miss the slot table (13 R398, R404;
log 14). -/
def keyReads (ctx : Nat) (cold : Option Nat) (s : State) : Bool × State :=
  let r := engineAccess 9 .read vaultSpace 64 (some ctx) s
  match cold with
  | some n =>
    let t := if r.1 then engineAccess 9 .read (tableBase + 8 * n) 8 (some ctx) r.2 else r
    match tget s.vault.place n, tget s.vault.recs n with
    | some g, some o =>
      if t.1 then engineBursts 9 .read ((List.range (recordGranules o)).map fun i => coldBase + 64 * (g + i)) (some ctx) t.2 else t
    | _, _ => t
  | none => r

/-- KEY_LOAD by key engine slot `ke`. -/
def keyLoad (ctx ke : Nat) (v : KeyVerdict) (s : State) : State :=
  match getJob s ctx with
  | none => s
  | some j =>
    if j.phase != .ready || j.keyLoaded || !needsLoad j.hdr || !loadSlot s ke || !serving s
        || (namedSlots j.hdr).any s.vault.awaited.contains then s
    else
      let cold := (namedSlots j.hdr).find? fun n => (tget s.vault.objs n).isSome && !isHot s n
      let io := keyReads ctx cold (setUnit (100 + ke) { unitRec s (100 + ke) with busyAt := some s.sched.pitch } s)
      let s1 := io.2
      if !io.1 then s1
      else match v, cold with
      | .ok, none => loadKeys ctx j s1
      | .ok, some n => if recordGood s n [] then loadKeys ctx j s1 else f3Fault 485 ke (lostRecord n true s1)
      | .mismatch, _ => mismatchFault (100 + ke) 3 (s.sched.pitch + 2) s1
      | .record flips, some n => if recordGood s n flips then loadKeys ctx j s1 else f3Fault 485 ke (lostRecord n true s1)
      | .hbmError, some n => loseRecord n ke s1
      | _, none => s

def execKeyLoad (ctx ke : Nat) (v : KeyVerdict) (s : State) : Host.Outcome State Fault Refusal :=
  .next (keyLoad ctx ke v s)

/-- COLD_RECORD_REFETCHED: the partner's record is rewritten. -/
def execColdRecordRefetched (slot : Nat) (obj : KeyObj) (s : State) : Host.Outcome State Fault Refusal :=
  .next (
    match tget s.vault.objs slot with
    | none => s
    | some o =>
      if paired s && obj.gen == o.gen then refetched slot obj s else s)

/-! ### Meanings: HBM errors (16 R481, 19 R560) -/

/-- The HBM quarter of an address. -/
def hbmQuarter (a : Nat) : Nat := (a - 0x10000000000) / 0x100000000 % 4

/-- A read of a job met an uncorrectable error: it restarts once, then 05 R173 applies. -/
def jobReadError (ctx : Nat) (s : State) : State :=
  match getJob s ctx with
  | none => s
  | some j =>
    let s1 := freeUnits ctx s
    let k := unmadeJob j
    let s2 := burnLeaf j (unmake j s1)
    if j.phase == .granted || j.phase == .fetchWait || j.phase == .completed || j.phase == .forwarded then s
    else if j.hbmErrs = 0 then
      let j1 := { restartedJob s2 k 112 (s.sched.pitch + 2) with badUnit := none, retries := j.retries, hbmErrs := 1 }
      reserveDraw ctx j1.entNeed (evcAdd 0x0E 1 (setJob ctx j1 s2))
    else forwardOrRefuse ctx { k with leaf := none } s2

/-- HBM_UNCORRECTABLE_ERROR. -/
def hbmError (addr : Nat) (what : HbmWhat) (s : State) : State :=
  let h := if s.hbm.errValid then s.hbm else { s.hbm with errAddr := addr / 64 * 64, errValid := true }
  let s1 := evcAdd 0x6A 1 (bump 27 1 1 (collect 865 1 (hbmQuarter addr) { s with hbm := h }))
  match what with
  | .coldRecord slot ke => loseRecord slot ke s1
  | .firmware => if s.sys.summitRestarting then f3Fault 576 0 s1 else s1
  | .jobData ctx => jobReadError ctx s1

def execHbmUncorrectableError (addr : Nat) (what : HbmWhat) (s : State) : Host.Outcome State Fault Refusal :=
  .next (if dieOn s then hbmError addr what s else s)

/-- HBM_CORRECTED_ERROR. -/
def execHbmCorrectedError (quarter : Nat) (s : State) : Host.Outcome State Fault Refusal :=
  .next (if dieOn s then evcAdd 0x68 1 (bump 27 0 1 (collect 864 1 (quarter % 4) s)) else s)

/-! ### Meanings: reservations and streams -/

/-- SWEEP_RESERVATION: the unit's pass is incomplete 4,000,000 pitches after its previous one. -/
def execSweepReservation (unit : Nat) (s : State) : Host.Outcome State Fault Refusal :=
  let r := unitRec s unit
  .next (
    if inService s unit && !r.reserved && decide (r.lastPass + 4000000 ≤ s.sched.pitch) && decide (unit < 112) then
      evcAdd 0x0A 1 (setUnit unit { r with reserved := true } s)
    else s)

/-- An entry of the stream has started and not been released. -/
def streamRuns (s : State) (slot id : Nat) : Bool :=
  s.sched.jobs.any fun p => p.2.slot == slot && p.2.strm == some id
    && (p.2.committed || (p.2.phase != .ready && p.2.phase != .granted && p.2.phase != .fetchWait))

/-- STREAM_TIMEOUT: 10 s since the release of the latest entry, and no further entry has started (05 R162). -/
def execStreamTimeout (slot sid : Nat) (s : State) : Host.Outcome State Fault Refusal :=
  .next (
    match findStream s slot sid with
    | none => s
    | some t => if t.opened ∧ streamRuns s slot t.id = false ∧ t.lastRelease + 5000000 ≤ s.sched.pitch then
      endStreamId slot t.id (2 ^ 64) { s with qm := { s.qm with queues := tmod s.qm.queues slot fun q =>
        { q with headStreams := q.headStreams.filter fun x => x.sid != sid } } }
    else s)

end Sys2Proof.Machine
end

