-- ==== Sys2Proof/Machine/Sym.lean ====
section
/-! DEFINITION. The symmetric opcodes: their modes, the layouts of their inputs and outputs, and hold-until-verify (06
R184-R199). Nonces and counters belong to the commit point. -/

namespace Sys2Proof.Machine

/-- Blocks of 128 bits, or of 64 bits for TDEA, that an entry processes are counted for its lane (06 R207, 16
R488). -/
def countBlocks (j : Job) (n : Nat) (s : State) : State :=
  let k := ceilDiv n (if 0x150 ≤ j.hdr.opcode ∧ j.hdr.opcode < 0x160 then 8 else 16)
  match j.unit with
  | some u => evcAdd (0x14 + u) k (bump 10 u k s)
  | none => s

/-- Blocks of a symmetric entry: those of its data and additional data together, or of a wrapping's input, once for
each run (DESIGN CHOICE, log 88). -/
def countSym (j : Job) (s : State) : State := countBlocks j ((paddedData j).length + (entryAad j).length) s

/-! ### The shapes of the operations (06 R188, R196-R199) -/

/-- Encryption without a tag: IV on the first entry, then the ciphertext. -/
def symEncrypt (j : Job) (s : State) : State × Res :=
  let head := if j.hdr.isFirst then j.nonce.getD [] else []
  (countSym j s, { out := head ++ cipherOut j.hdr (symIn s j) })

/-- Decryption without a tag: the plaintext, padding intact. -/
def symDecrypt (j : Job) (s : State) : State × Res := (countSym j s, { out := cipherOut j.hdr (symIn s j) })

/-- Authenticated encryption: nonce on the first entry, ciphertext, tag on the last. -/
def symSeal (j : Job) (s : State) : State × Res :=
  let x := symIn s j
  let head := if j.hdr.isFirst then j.nonce.getD [] else []
  let tail := if j.hdr.isLast then tagOut j.hdr x else []
  (countSym j s, { out := head ++ cipherOut j.hdr x ++ tail })

/-- Authenticated decryption: nothing before the tag has verified; then the plaintext of the whole stream. -/
def symOpen (j : Job) (s : State) : State × Res :=
  let x := symIn s j
  let s1 := countSym j s
  if !j.hdr.isLast then (s1, {})
  else if tagOk j.hdr x (inputTag j) then (s1, { out := cipherWhole j.hdr x })
  else (s1, { status := stAuthFail })

/-- GMAC generation: nonce and tag on the last entry. -/
def symMac (j : Job) (s : State) : State × Res :=
  let x := symIn s j
  let s1 := countSym j s
  if j.hdr.isLast then (s1, { out := x.iv ++ tagOut j.hdr x }) else (s1, {})

/-- GMAC verification: a status. -/
def symVerify (j : Job) (s : State) : State × Res :=
  let s1 := countSym j s
  if !j.hdr.isLast || tagOk j.hdr (symIn s j) (inputTag j) then (s1, {}) else (s1, { status := stAuthFail })

/-- KW and KWP wrap: one invocation of the key. -/
def symWrap (alg : Nat) (j : Job) (s : State) : State × Res :=
  (countSym j s, { out := if alg = 0 then kwSeal (keyMat j) kwIcv j.input else kwpWrap (keyMat j) j.input })

/-- KW and KWP unwrap: the data once its ICV has verified. -/
def symUnwrap (alg : Nat) (j : Job) (s : State) : State × Res :=
  let kek := keyMat j
  if !unwrapOk alg kek j.input then (countSym j s, { status := stAuthFail })
  else (countSym j s, { out := if alg = 0 then (kwOpen kek j.input).2 else kwpUnwrap kek j.input })

/-! ### Meanings -/

/-- Opcode 0x100 (06 R184). -/
def execAesEcbEncrypt (ctx : Nat) (s : State) : Host.Outcome State Fault Refusal :=
  .next (runOp 0x100 ctx symEncrypt s)

/-- Opcode 0x101 (06 R184). -/
def execAesEcbDecrypt (ctx : Nat) (s : State) : Host.Outcome State Fault Refusal :=
  .next (runOp 0x101 ctx symDecrypt s)

/-- Opcode 0x104 (06 R184). -/
def execAesCbcEncrypt (ctx : Nat) (s : State) : Host.Outcome State Fault Refusal :=
  .next (runOp 0x104 ctx symEncrypt s)

/-- Opcode 0x105 (06 R184). -/
def execAesCbcDecrypt (ctx : Nat) (s : State) : Host.Outcome State Fault Refusal :=
  .next (runOp 0x105 ctx symDecrypt s)

/-- Opcode 0x108 (06 R184). -/
def execAesCfbEncrypt (ctx : Nat) (s : State) : Host.Outcome State Fault Refusal :=
  .next (runOp 0x108 ctx symEncrypt s)

/-- Opcode 0x109 (06 R184). -/
def execAesCfbDecrypt (ctx : Nat) (s : State) : Host.Outcome State Fault Refusal :=
  .next (runOp 0x109 ctx symDecrypt s)

/-- Opcode 0x10C (06 R184). -/
def execAesOfbEncrypt (ctx : Nat) (s : State) : Host.Outcome State Fault Refusal :=
  .next (runOp 0x10C ctx symEncrypt s)

/-- Opcode 0x10D (06 R184). -/
def execAesOfbDecrypt (ctx : Nat) (s : State) : Host.Outcome State Fault Refusal :=
  .next (runOp 0x10D ctx symDecrypt s)

/-- Opcode 0x110 (06 R184). -/
def execAesCtrEncrypt (ctx : Nat) (s : State) : Host.Outcome State Fault Refusal :=
  .next (runOp 0x110 ctx symEncrypt s)

/-- Opcode 0x111 (06 R184). -/
def execAesCtrDecrypt (ctx : Nat) (s : State) : Host.Outcome State Fault Refusal :=
  .next (runOp 0x111 ctx symDecrypt s)

/-- Opcode 0x118 (06 R184). -/
def execXtsAesEncrypt (ctx : Nat) (s : State) : Host.Outcome State Fault Refusal :=
  .next (runOp 0x118 ctx symEncrypt s)

/-- Opcode 0x119 (06 R184). -/
def execXtsAesDecrypt (ctx : Nat) (s : State) : Host.Outcome State Fault Refusal :=
  .next (runOp 0x119 ctx symDecrypt s)

/-- Opcode 0x120 (06 R184). -/
def execAesGcmEncrypt (ctx : Nat) (s : State) : Host.Outcome State Fault Refusal :=
  .next (runOp 0x120 ctx symSeal s)

/-- Opcode 0x121 (06 R184). -/
def execAesGcmDecrypt (ctx : Nat) (s : State) : Host.Outcome State Fault Refusal :=
  .next (runOp 0x121 ctx symOpen s)

/-- Opcode 0x124 (06 R184). -/
def execAesGmacGenerate (ctx : Nat) (s : State) : Host.Outcome State Fault Refusal :=
  .next (runOp 0x124 ctx symMac s)

/-- Opcode 0x125 (06 R184). -/
def execAesGmacVerify (ctx : Nat) (s : State) : Host.Outcome State Fault Refusal :=
  .next (runOp 0x125 ctx symVerify s)

/-- Opcode 0x128 (06 R184). -/
def execAesCcmEncrypt (ctx : Nat) (s : State) : Host.Outcome State Fault Refusal :=
  .next (runOp 0x128 ctx symSeal s)

/-- Opcode 0x129 (06 R184). -/
def execAesCcmDecrypt (ctx : Nat) (s : State) : Host.Outcome State Fault Refusal :=
  .next (runOp 0x129 ctx symOpen s)

/-- Opcode 0x12C (06 R184). -/
def execAesGcmSivEncrypt (ctx : Nat) (s : State) : Host.Outcome State Fault Refusal :=
  .next (runOp 0x12C ctx symSeal s)

/-- Opcode 0x12D (06 R184). -/
def execAesGcmSivDecrypt (ctx : Nat) (s : State) : Host.Outcome State Fault Refusal :=
  .next (runOp 0x12D ctx symOpen s)

/-- Opcode 0x130 (06 R184). -/
def execAesKwWrap (ctx : Nat) (s : State) : Host.Outcome State Fault Refusal :=
  .next (runOp 0x130 ctx (symWrap 0) s)

/-- Opcode 0x131 (06 R184). -/
def execAesKwUnwrap (ctx : Nat) (s : State) : Host.Outcome State Fault Refusal :=
  .next (runOp 0x131 ctx (symUnwrap 0) s)

/-- Opcode 0x132 (06 R184). -/
def execAesKwpWrap (ctx : Nat) (s : State) : Host.Outcome State Fault Refusal :=
  .next (runOp 0x132 ctx (symWrap 1) s)

/-- Opcode 0x133 (06 R184). -/
def execAesKwpUnwrap (ctx : Nat) (s : State) : Host.Outcome State Fault Refusal :=
  .next (runOp 0x133 ctx (symUnwrap 1) s)

/-- Opcode 0x140 (06 R184). -/
def execChacha20Poly1305Encrypt (ctx : Nat) (s : State) : Host.Outcome State Fault Refusal :=
  .next (runOp 0x140 ctx symSeal s)

/-- Opcode 0x141 (06 R184). -/
def execChacha20Poly1305Decrypt (ctx : Nat) (s : State) : Host.Outcome State Fault Refusal :=
  .next (runOp 0x141 ctx symOpen s)

/-- Opcode 0x150 (06 R184). -/
def execTdeaEcbEncrypt (ctx : Nat) (s : State) : Host.Outcome State Fault Refusal :=
  .next (runOp 0x150 ctx symEncrypt s)

/-- Opcode 0x151 (06 R184). -/
def execTdeaEcbDecrypt (ctx : Nat) (s : State) : Host.Outcome State Fault Refusal :=
  .next (runOp 0x151 ctx symDecrypt s)

/-- Opcode 0x154 (06 R184). -/
def execTdeaCbcEncrypt (ctx : Nat) (s : State) : Host.Outcome State Fault Refusal :=
  .next (runOp 0x154 ctx symEncrypt s)

/-- Opcode 0x155 (06 R184). -/
def execTdeaCbcDecrypt (ctx : Nat) (s : State) : Host.Outcome State Fault Refusal :=
  .next (runOp 0x155 ctx symDecrypt s)

end Sys2Proof.Machine
end

