-- ==== Sys2Proof/Machine/Make.lean ====
section
/-! DEFINITION. Keys that a job creates: objects planned from its template and material, made once and
mirrored with their handles (07 R219, R221, 11 R317-R325). -/

namespace Sys2Proof.Machine

/-- The template of a job's entry. -/
def jobTemplate (j : Job) : Template := entryTemplate j.hdr j.input

/-- One object of a template. -/
def planOf (t : Template) (cls param bits : Nat) (mat : List Byte) : Plan :=
  { fam := t.fam, cls, param, policy := t.policy + bits, cap := t.cap, label := t.label, mat }

/-- Objects of a symmetric or SECRET template over one material: one, or the complementary pair. -/
def symPlans (t : Template) (dest bits : Nat) (mat : List Byte) : List Plan :=
  if dest = 2 then [planOf t t.cls 0 bits mat, planOf t t.cls2 0 bits mat] else [planOf t t.cls 0 bits mat]

/-- XTS material whose halves are equal (11 R317). -/
def equalHalves (p : Plan) : Bool := p.fam == 2 && p.mat.take (p.mat.length / 2) == p.mat.drop (p.mat.length / 2)

/-- Creates the planned objects in the slots reserved at fetch; the output is the handles between `pre` and
`pub`. -/
def makeKeys (j : Job) (plans : List Plan) (pre pub : List Byte) (s : State) : State × Res :=
  if plans.any equalHalves then fail stBadParam s
  else
    let r := createPlanned j.resSlots j.hdr.part plans s
    let out := pre ++ r.2 ++ pub
    (r.1, { out := out })

/-- A derivation from vault keys: bytes, or keys of the template with DERIVED set where it has parents. -/
def deriveOut (j : Job) (bits : Nat) (derived : List Byte) (s : State) : State × Res :=
  if destOf j.hdr = 0 then (s, { out := derived })
  else makeKeys j (symPlans (jobTemplate j) (destOf j.hdr) bits derived) [] [] s

/-- Bytes that a derivation makes: OUT_LEN, or KEY_LEN of the template. -/
def deriveLen (j : Job) : Nat := if destOf j.hdr = 0 then j.hdr.p0 16 16 else (jobTemplate j).keyLen

/-- Objects of a key pair: the private one, and the public one for DEST 2. -/
def pairPlans (t : Template) (dest param bits : Nat) (priv pub : List Byte) : List Plan :=
  let a := planOf t t.cls param bits priv
  if dest = 2 then [a, planOf t t.cls2 param polPublic pub] else [a]

end Sys2Proof.Machine
end

