-- ==== Sys2Proof/Machine/Hash.lean ====
section
/-! DEFINITION. The hash, MAC and key derivation opcodes (07 R208-R222). -/

namespace Sys2Proof.Machine

/-! ### The functions (07 R208, R217) -/

/-- A digest. -/
def digest (alg : Nat) (m : List Byte) : List Byte := crypto .hash [alg] [m] (algLen alg)

/-- HMAC with a hash. -/
def hmac (alg : Nat) (key m : List Byte) : List Byte := crypto .hmac [alg] [key, m] (algLen alg)

/-- KMAC128 (12) or KMAC256 (13) with `n` output bytes. -/
def kmac (alg : Nat) (key m custom : List Byte) (n : Nat) : List Byte := crypto .kmac [alg, n] [key, m, custom] n

/-- [i]_32. -/
def be32 (i : Nat) : List Byte := beBytes 4 i

/-- The first `n` bytes of the blocks K(1), K(2), ... of `f`. -/
def kdfBlocks (f : Nat → List Byte) (len n : Nat) : List Byte :=
  (((List.range (ceilDiv n len)).map fun i => f (i + 1)).flatten).take n

/-- The i-th value of a chain x(i) = f(i, x(i - 1)). -/
def chainAt (f : Nat → List Byte → List Byte) (x0 : List Byte) : Nat → List Byte
  | 0 => x0
  | i + 1 => f (i + 1) (chainAt f x0 i)

/-- SP 800-108 counter mode. -/
def kdfCtr (alg : Nat) (k fixed : List Byte) (n : Nat) : List Byte :=
  kdfBlocks (fun i => hmac alg k (be32 i ++ fixed)) (algLen alg) n

/-- SP 800-108 feedback mode: K(0) is the IV. -/
def kdfFb (alg : Nat) (k iv fixed : List Byte) (n : Nat) : List Byte :=
  kdfBlocks (chainAt (fun i x => hmac alg k (x ++ be32 i ++ fixed)) iv) (algLen alg) n

/-- SP 800-108 double pipeline: A(0) is the fixed input. -/
def kdfDp (alg : Nat) (k fixed : List Byte) (n : Nat) : List Byte :=
  kdfBlocks (fun i => hmac alg k (chainAt (fun _ a => hmac alg k a) fixed i ++ be32 i ++ fixed)) (algLen alg) n

/-- HKDF-Extract; the default salt is a hash length of zeros (RFC 5869). -/
def hkdfExtract (alg : Nat) (salt ikm : List Byte) : List Byte :=
  hmac alg (if salt = [] then List.replicate (algLen alg) 0 else salt) ikm

/-- HKDF-Expand. -/
def hkdfExpand (alg : Nat) (prk info : List Byte) (n : Nat) : List Byte :=
  kdfBlocks (chainAt (fun i t => hmac alg prk (t ++ info ++ [BitVec.ofNat 8 i])) []) (algLen alg) n

/-- Input block of a hash: the length of its default salt in SP 800-56C (PRESUMED, log 17). -/
def algBlock (alg : Nat) : Nat := ([64, 64, 64, 128, 128, 128, 128, 0, 144, 136, 104, 72] : List Nat).getD alg 0

/-- SP 800-56C one-step: OPTION 0 hash, 1 HMAC, 2 KMAC. The default salts are those of the standard
(PRESUMED, log 17). -/
def oneStep (opt alg : Nat) (salt k info : List Byte) (n : Nat) : List Byte :=
  let s1 := if salt = [] then List.replicate (if opt = 1 then algBlock alg else if alg = 12 then 164 else 132) 0 else salt
  if opt = 0 then kdfBlocks (fun i => digest alg (be32 i ++ k ++ info)) (algLen alg) n
  else if opt = 1 then kdfBlocks (fun i => hmac alg s1 (be32 i ++ k ++ info)) (algLen alg) n
  else kmac alg s1 (be32 1 ++ k ++ info) (ascii "KDF") n

/-! ### What an entry absorbs -/

/-- Bytes absorbed by a core are counted (07 R227, 16 R488). -/
def countHash (j : Job) (n : Nat) (s : State) : State :=
  match j.unit with
  | some u => if 4 ≤ u ∧ u < 20 then evcAdd 0x1A n (bump 11 (u - 4) n s) else s
  | none => s

/-- The whole message of a stream or a single entry, and the strings that precede it. -/
def message (s : State) (j : Job) : List Byte := (streamOf s j).data ++ entryData j
def messagePre (s : State) (j : Job) : List Byte := if j.hdr.isFirst then entryAad j else (streamOf s j).aad

/-- N and S of a message. -/
def nameString (s : State) (j : Job) : List Byte := (messagePre s j).take (hashN j.hdr)
def customString (s : State) (j : Job) : List Byte := (messagePre s j).drop (hashN j.hdr)

/-- ALG of an entry. -/
def algOf (j : Job) : Nat := j.hdr.p0 0 4

/-- A generate opcode: nothing until the last entry. -/
def hashGen (f : State → Job → List Byte) (j : Job) (s : State) : State × Res :=
  let s1 := countHash j ((entryPre j).length + (entryData j).length) s
  if j.hdr.isLast then (s1, { out := (f s j).take (hashOutLen j.hdr) }) else (s1, {})

/-- The expected value at the end of a last verify entry. -/
def expected (j : Job) : List Byte := j.input.drop (j.input.length - hashOutLen j.hdr)

/-- A verify opcode: a status, after the whole message (07 R222). -/
def hashCheck (f : State → Job → List Byte) (bad : Nat) (j : Job) (s : State) : State × Res :=
  let s1 := countHash j ((entryPre j).length + (entryData j).length) s
  if !j.hdr.isLast || (f s j).take (hashOutLen j.hdr) == expected j then (s1, {}) else (s1, { status := bad })

def hashOf (s : State) (j : Job) : List Byte := digest (algOf j) (message s j)

def xofOf (s : State) (j : Job) : List Byte :=
  crypto .xof [algOf j] [nameString s j, customString s j, message s j] (hashOutLen j.hdr)

def hmacOf (s : State) (j : Job) : List Byte := hmac (algOf j) (keyMat j) (message s j)

def kmacOf (s : State) (j : Job) : List Byte :=
  kmac (algOf j) (keyMat j) (message s j) (customString s j) (hashOutLen j.hdr)

def cmacOf (s : State) (j : Job) : List Byte := cmac (keyMat j) (message s j)

/-- Blocks of a CMAC entry on its lane. -/
def onLane (f : Job → State → State × Res) (j : Job) (s : State) : State × Res :=
  f j (countBlocks j (entryData j).length s)

/-! ### Derivations -/

/-- The label, IV or salt of a derivation, and what follows it. -/
def kdfPre (j : Job) : List Byte := sliceB j.input (if destOf j.hdr = 0 then 0 else 64) (hashS j.hdr + hashSalt j.hdr)
def kdfRest (j : Job) : List Byte := j.input.drop ((if destOf j.hdr = 0 then 0 else 64) + hashS j.hdr + hashSalt j.hdr)

/-- A KDF from KEY_A. Its whole input counts as absorbed, a template among it (DESIGN CHOICE, log 102). -/
def kdfJob (f : Job → List Byte → Nat → List Byte) (j : Job) (s : State) : State × Res :=
  deriveOut j polDerived (f j (keyMat j) (deriveLen j)) (countHash j j.input.length s)

def ctrOf (j : Job) (k : List Byte) (n : Nat) : List Byte :=
  if algOf j = 12 ∨ algOf j = 13 then kmac (algOf j) k (kdfRest j) (kdfPre j) n else kdfCtr (algOf j) k (kdfRest j) n

def hkdfOf (j : Job) (k : List Byte) (n : Nat) : List Byte :=
  hkdfExpand (algOf j) (if j.hdr.p1 16 1 = 1 then k else hkdfExtract (algOf j) (kdfPre j) k) (kdfRest j) n

/-- PBKDF2 with exactly ITER iterations (07 R213, R217). -/
def pbkdfJob (alg : Nat) (j : Job) (s : State) : State × Res :=
  deriveOut j 0 (crypto .pbkdf2 [alg, j.hdr.p1 0 32] [kdfRest j, kdfPre j] (deriveLen j)) (countHash j j.input.length s)

/-! ### Meanings -/

/-- Opcode 0x200 (07 R212). -/
def execHash (ctx : Nat) (s : State) : Host.Outcome State Fault Refusal :=
  .next (runOp 0x200 ctx (hashGen hashOf) s)

/-- Opcode 0x201 (07 R212). -/
def execHashVerify (ctx : Nat) (s : State) : Host.Outcome State Fault Refusal :=
  .next (runOp 0x201 ctx (hashCheck hashOf stVerifyFail) s)

/-- Opcode 0x204 (07 R212). -/
def execXof (ctx : Nat) (s : State) : Host.Outcome State Fault Refusal :=
  .next (runOp 0x204 ctx (hashGen xofOf) s)

/-- Opcode 0x210 (07 R212). -/
def execHmacGen (ctx : Nat) (s : State) : Host.Outcome State Fault Refusal :=
  .next (runOp 0x210 ctx (hashGen hmacOf) s)

/-- Opcode 0x211 (07 R212). -/
def execHmacVerify (ctx : Nat) (s : State) : Host.Outcome State Fault Refusal :=
  .next (runOp 0x211 ctx (hashCheck hmacOf stAuthFail) s)

/-- Opcode 0x214 (07 R212). -/
def execKmacGen (ctx : Nat) (s : State) : Host.Outcome State Fault Refusal :=
  .next (runOp 0x214 ctx (hashGen kmacOf) s)

/-- Opcode 0x215 (07 R212). -/
def execKmacVerify (ctx : Nat) (s : State) : Host.Outcome State Fault Refusal :=
  .next (runOp 0x215 ctx (hashCheck kmacOf stAuthFail) s)

/-- Opcode 0x218 (07 R212). -/
def execCmacGen (ctx : Nat) (s : State) : Host.Outcome State Fault Refusal :=
  .next (runOp 0x218 ctx (onLane (hashGen cmacOf)) s)

/-- Opcode 0x219 (07 R212). -/
def execCmacVerify (ctx : Nat) (s : State) : Host.Outcome State Fault Refusal :=
  .next (runOp 0x219 ctx (onLane (hashCheck cmacOf stAuthFail)) s)

/-- Opcode 0x220 (07 R212). -/
def execKdfCtr (ctx : Nat) (s : State) : Host.Outcome State Fault Refusal :=
  .next (runOp 0x220 ctx (kdfJob ctrOf) s)

/-- Opcode 0x221 (07 R212). -/
def execKdfFb (ctx : Nat) (s : State) : Host.Outcome State Fault Refusal :=
  .next (runOp 0x221 ctx (kdfJob fun j k n => kdfFb (algOf j) k (kdfPre j) (kdfRest j) n) s)

/-- Opcode 0x222 (07 R212). -/
def execKdfDp (ctx : Nat) (s : State) : Host.Outcome State Fault Refusal :=
  .next (runOp 0x222 ctx (kdfJob fun j k n => kdfDp (algOf j) k (kdfRest j) n) s)

/-- Opcode 0x224 (07 R212). -/
def execHkdf (ctx : Nat) (s : State) : Host.Outcome State Fault Refusal :=
  .next (runOp 0x224 ctx (kdfJob hkdfOf) s)

/-- Opcode 0x226 (07 R212). -/
def execKdfOnestep (ctx : Nat) (s : State) : Host.Outcome State Fault Refusal :=
  .next (runOp 0x226 ctx (kdfJob fun j k n => oneStep (j.hdr.p0 4 2) (algOf j) (kdfPre j) k (kdfRest j) n) s)

/-- Opcode 0x228 (07 R212). -/
def execPbkdf2HmacSha256 (ctx : Nat) (s : State) : Host.Outcome State Fault Refusal :=
  .next (runOp 0x228 ctx (pbkdfJob 2) s)

/-- Opcode 0x229 (07 R212). -/
def execPbkdf2HmacSha512 (ctx : Nat) (s : State) : Host.Outcome State Fault Refusal :=
  .next (runOp 0x229 ctx (pbkdfJob 4) s)

end Sys2Proof.Machine
end

