-- ==== Sys2Proof/Machine/Pke.lean ====
section
/-! DEFINITION. The public-key opcodes: RSA and elliptic curves (08 R232-R246). -/

namespace Sys2Proof.Machine

/-! ### Values -/

/-- The bytes that a job draws, in the order of 08 R242, and the state after the draw. -/
def jobDraw (j : Job) : List Byte := j.rnd.take j.draw

/-- Bytes of an inline public key. -/
def inlineLen (h : Header) : Nat :=
  if !isInline h then 0
  else if h.opcode < 0x308 then h.p1 0 16 / 8 + 4
  else pubLen (curveFam (h.p0 0 8)) (h.p0 0 8)

/-- The public key of an entry: inline, or that of KEY_A. -/
def pubKey (j : Job) : List Byte :=
  if isInline j.hdr then j.input.take (inlineLen j.hdr) else (j.keyA.map objPublic).getD []

/-- The input after an inline key. -/
def afterKey (j : Job) : List Byte := j.input.drop (inlineLen j.hdr)

/-- k of the entry: from MOD_BITS or from the key. -/
def modBytes (j : Job) : Nat :=
  if isInline j.hdr then j.hdr.p1 0 16 / 8 else (j.keyA.map fun o => o.param / 8).getD 0

/-- n of a public key, and an inline key passes the checks of 08 R240. -/
def rsaN (k : Nat) (pub : List Byte) : Nat := beNat (pub.take k)
def rsaInlineOk (h : Header) (k : Nat) (pub : List Byte) : Bool :=
  let n := rsaN k pub
  let e := beNat (sliceB pub k 4)
  !isInline h || (n % 2 == 1 && bitAt n (h.p1 0 16 - 1) && e % 2 == 1 && decide (3 ≤ e))

/-- HALG and h. -/
def halgOf (j : Job) : Nat := j.hdr.p0 8 4
def halgLen (j : Job) : Nat := algLen (halgOf j)

/-! ### RSA -/

/-- A signature over a digest; PSS takes its salt from the draw, after the blinding bytes. -/
def rsaSign (j : Job) (s : State) : State × Res :=
  let k := modBytes j
  let salt := if j.hdr.opcode = 0x302 then (jobDraw j).drop (k + 24) else []
  (s, { out := crypto .rsa [j.hdr.opcode, halgOf j] [keyMat j, j.input, salt] k })

/-- A verification (08 R240). -/
def rsaVerify (j : Job) (s : State) : State × Res :=
  let k := modBytes j
  let pub := pubKey j
  let r := afterKey j
  let sig := r.drop (halgLen j)
  if rsaInlineOk j.hdr k pub && decide (beNat sig < rsaN k pub)
      && Config.cryptoOk .rsa [j.hdr.opcode, halgOf j, j.hdr.p0 16 8] [pub, r.take (halgLen j), sig]
  then (s, {}) else fail stVerifyFail s

/-- OAEP encryption with a seed of h drawn bytes. -/
def oaepEncrypt (j : Job) (s : State) : State × Res :=
  let k := modBytes j
  let pub := pubKey j
  let r := afterKey j
  let l := j.hdr.p0 40 8
  if !rsaInlineOk j.hdr k pub then (s, { status := stDecapReject })
  else (s, { out := crypto .rsa [0x304, halgOf j] [pub, r.take l, r.drop l, jobDraw j] k })

/-- Length of the message that an OAEP ciphertext holds: at most k - 2h - 2. -/
def oaepLen (k h : Nat) (mat label ct : List Byte) : Nat := Config.cryptoLen .rsa [0x305] [mat, label, ct] % (k - 2 * h - 1)

/-- OAEP decryption: every failure is one status (08 R240, R241). -/
def oaepDecrypt (j : Job) (s : State) : State × Res :=
  let k := modBytes j
  let mat := keyMat j
  let l := j.hdr.p0 40 8
  let label := j.input.take l
  let ct := j.input.drop l
  let h := halgLen j
  if decide (beNat ct < rsaN k mat) && decide (2 * h + 2 ≤ k) && Config.cryptoOk .rsa [0x305, halgOf j] [mat, label, ct]
  then (s, { out := crypto .rsa [0x305, halgOf j] [mat, label, ct] (oaepLen k h mat label ct) })
  else (s, { status := stAuthFail })

/-- PUB_EXP; 0 stands for 65,537. -/
def pubExp (h : Header) : Nat := if h.p1 32 32 = 0 then 65537 else h.p1 32 32

/-- Euclid's algorithm on `a` and `b`, where `x` and `y` are their multipliers of the first number. -/
def euclid : Nat → Nat → Nat → Int → Int → Int
  | 0, _, _, x, _ => x
  | _, _, 0, x, _ => x
  | f + 1, a, b + 1, x, y => euclid f (b + 1) (a % (b + 1)) y (x - (a / (b + 1) : Nat) * y)

/-- The inverse of `a` modulo `m`. -/
def invMod (a m : Nat) : Nat := (euclid (2 * m.log2 + 3) a m 1 0 % (m : Int)).toNat

/-- The primes p and q that the search of FIPS 186-5 finds among the candidates drawn (08 R245; log 1). -/
def rsaPrimes (j : Job) : Nat × Nat :=
  let bits := j.hdr.p1 0 16
  let prime (i : Nat) : Nat := beNat (crypto .privateKey [7, bits, pubExp j.hdr, i] [j.rnd] (bits / 16))
  (prime 0, prime 1)

/-- d, the inverse of the public exponent modulo lcm(p - 1, q - 1). -/
def rsaD (j : Job) : Nat :=
  let pq := rsaPrimes j
  invMod (pubExp j.hdr) ((pq.1 - 1).lcm (pq.2 - 1))

/-- The bounds that a pair of primes must keep: |p - q| > 2^(MOD_BITS/2 - 100) and d > 2^(MOD_BITS/2) (08 R245). -/
def rsaAccepts (j : Job) : Bool :=
  let h := j.hdr.p1 0 16 / 2
  let pq := rsaPrimes j
  decide (2 ^ (h - 100) < max pq.1 pq.2 - min pq.1 pq.2) && decide (2 ^ h < rsaD j)

/-- RSA key generation: n, e, d, p, q, dP, dQ and qInv from the primes found (08 R245, 11 R317). -/
def rsaKeygen (j : Job) (s : State) : State × Res :=
  let bits := j.hdr.p1 0 16
  let k := bits / 8
  let p := (rsaPrimes j).1
  let q := (rsaPrimes j).2
  let d := rsaD j
  let pub := beBytes k (p * q) ++ beBytes 4 (pubExp j.hdr)
  let parts := [p, q, d % (p - 1), d % (q - 1), invMod q p].map fun v => beBytes (k / 2) v
  let priv := pub ++ beBytes k d ++ parts.flatten
  makeKeys j (pairPlans (jobTemplate j) (destOf j.hdr) bits 0 priv pub) [] pub s

/-! ### Curves -/

/-- PSET of a curve opcode, and its lengths. -/
def psetOf (j : Job) : Nat := j.hdr.p0 0 8
def curveLens (j : Job) : Nat × Nat := ((curveOf (psetOf j)).map fun c => (c.fb, c.ob)).getD (0, 0)

/-- An uncompressed SEC 1 point on the curve, in range and not the identity (08 R240). -/
def pointOk (pset : Nat) (p : List Byte) : Bool := p.head? == some 4 && Config.cryptoOk .ecc [0, pset] [p]

/-- ECDSA with a nonce of ob + 8 drawn bytes. -/
def ecdsaSign (j : Job) (s : State) : State × Res :=
  let ob := (curveLens j).2
  (s, { out := crypto .ecc [0x310, psetOf j] [keyMat j, j.input, (jobDraw j).take (ob + 8)] (2 * ob) })

def ecdsaVerify (j : Job) (s : State) : State × Res :=
  let r := afterKey j
  let n := j.hdr.p0 24 8
  if (!isInline j.hdr || pointOk (psetOf j) (pubKey j))
      && Config.cryptoOk .ecc [0x311, psetOf j] [pubKey j, r.take n, r.drop n]
  then (s, {}) else fail stVerifyFail s

/-- Context and message of an EdDSA entry. -/
def edCtx (j : Job) : Nat := j.hdr.p0 32 8
def edPs (op : Nat) (j : Job) : List Nat := [op, psetOf j, j.hdr.p0 13 1]

def eddsaSign (j : Job) (s : State) : State × Res :=
  let n := if psetOf j = 10 then 64 else 114
  let m := j.input
  (s, { out := crypto .ecc (edPs 0x314 j) [keyMat j, m.take (edCtx j), m.drop (edCtx j)] n })

def eddsaVerify (j : Job) (s : State) : State × Res :=
  let n := if psetOf j = 10 then 64 else 114
  let r := afterKey j
  let m := r.take (r.length - n)
  if Config.cryptoOk .ecc (edPs 0x315 j) [pubKey j, m.take (edCtx j), m.drop (edCtx j), r.drop (r.length - n)]
  then (s, {}) else fail stVerifyFail s

/-- The peer's value after an optional template. -/
def peerValue (j : Job) : List Byte := j.input.drop (if destOf j.hdr = 1 then 64 else 0)

/-- ECDH: the x-coordinate. -/
def ecdhJob (j : Job) (s : State) : State × Res :=
  let p := peerValue j
  if !pointOk (psetOf j) p then fail stDecapReject s
  else deriveOut j polDerived (crypto .ecc [0x318, psetOf j] [keyMat j, p] (curveLens j).1) s

/-- X25519 and X448: a secret of zeros is rejected. -/
def xdhJob (j : Job) (s : State) : State × Res :=
  let z := crypto .ecc [0x319, psetOf j] [keyMat j, peerValue j] (curveLens j).1
  if z.all (· == 0) then fail stDecapReject s else deriveOut j polDerived z s

/-- The private part that drawn bytes give: a scalar for ECC and XDH, the seed itself for EDDSA. -/
def privatePart (pset : Nat) (c : Nat × Nat) (d : List Byte) : List Byte :=
  if curveFam pset = 10 then d.take c.1
  else if curveFam pset = 8 then crypto .privateKey [8, pset] [d.take (c.2 + 8)] c.2
  else crypto .privateKey [9, pset] [d.take c.1] c.1

/-- The public key of a private part: an uncompressed point, A or u. -/
def publicPart (pset : Nat) (x : List Byte) : List Byte :=
  let n := pubLen (curveFam pset) pset
  if curveFam pset = 8 then 4 :: crypto .publicKey [8, pset] [x] (n - 1) else crypto .publicKey [curveFam pset, pset] [x] n

/-- EC_KEYGEN. -/
def ecKeygen (j : Job) (s : State) : State × Res :=
  let ps := psetOf j
  let x := privatePart ps (curveLens j) (jobDraw j)
  let pub := publicPart ps x
  makeKeys j (pairPlans (jobTemplate j) (destOf j.hdr) ps 0 (x ++ pub) pub) [] pub s

/-! ### Meanings -/

/-- Opcode 0x300 (08 R233). -/
def execRsaSignPkcs1 (ctx : Nat) (s : State) : Host.Outcome State Fault Refusal :=
  .next (runOp 0x300 ctx rsaSign s)

/-- Opcode 0x301 (08 R233). -/
def execRsaVerifyPkcs1 (ctx : Nat) (s : State) : Host.Outcome State Fault Refusal :=
  .next (runOp 0x301 ctx rsaVerify s)

/-- Opcode 0x302 (08 R233). -/
def execRsaSignPss (ctx : Nat) (s : State) : Host.Outcome State Fault Refusal :=
  .next (runOp 0x302 ctx rsaSign s)

/-- Opcode 0x303 (08 R233). -/
def execRsaVerifyPss (ctx : Nat) (s : State) : Host.Outcome State Fault Refusal :=
  .next (runOp 0x303 ctx rsaVerify s)

/-- Opcode 0x304 (08 R233). -/
def execRsaEncryptOaep (ctx : Nat) (s : State) : Host.Outcome State Fault Refusal :=
  .next (runOp 0x304 ctx oaepEncrypt s)

/-- Opcode 0x305 (08 R233). -/
def execRsaDecryptOaep (ctx : Nat) (s : State) : Host.Outcome State Fault Refusal :=
  .next (runOp 0x305 ctx oaepDecrypt s)

/-- Opcode 0x308 (08 R233). Primes out of their bounds are rejected like any candidate: the job is held for the
next 4,096 bytes (08 R245). -/
def execRsaKeygen (ctx : Nat) (s : State) : Host.Outcome State Fault Refusal :=
  .next (
    match jobFor s ctx 0x308 with
    | none => s
    | some j =>
      if rsaAccepts j then runOp 0x308 ctx rsaKeygen s
      else match j.unit with
        | some u => segmentRejected u 1 ctx j s
        | none => s)

/-- Opcode 0x310 (08 R233). -/
def execEcdsaSign (ctx : Nat) (s : State) : Host.Outcome State Fault Refusal :=
  .next (runOp 0x310 ctx ecdsaSign s)

/-- Opcode 0x311 (08 R233). -/
def execEcdsaVerify (ctx : Nat) (s : State) : Host.Outcome State Fault Refusal :=
  .next (runOp 0x311 ctx ecdsaVerify s)

/-- Opcode 0x314 (08 R233). -/
def execEddsaSign (ctx : Nat) (s : State) : Host.Outcome State Fault Refusal :=
  .next (runOp 0x314 ctx eddsaSign s)

/-- Opcode 0x315 (08 R233). -/
def execEddsaVerify (ctx : Nat) (s : State) : Host.Outcome State Fault Refusal :=
  .next (runOp 0x315 ctx eddsaVerify s)

/-- Opcode 0x318 (08 R233). -/
def execEcdh (ctx : Nat) (s : State) : Host.Outcome State Fault Refusal :=
  .next (runOp 0x318 ctx ecdhJob s)

/-- Opcode 0x319 (08 R233). -/
def execXdh (ctx : Nat) (s : State) : Host.Outcome State Fault Refusal :=
  .next (runOp 0x319 ctx xdhJob s)

/-- Opcode 0x31C (08 R233). -/
def execEcKeygen (ctx : Nat) (s : State) : Host.Outcome State Fault Refusal :=
  .next (runOp 0x31C ctx ecKeygen s)

end Sys2Proof.Machine
end

