-- ==== Sys2Proof/Machine/Lattice.lean ====
section
/-! DEFINITION. The lattice and hash-based opcodes: ML-KEM, ML-DSA, SLH-DSA, LMS, XMSS and the hybrid
combination (09 R255-R276). -/

namespace Sys2Proof.Machine

/-! ### Inputs -/

/-- The input after the template of DEST 1 or 2. -/
def afterTemplate (j : Job) : List Byte := j.input.drop (if destOf j.hdr = 0 then 0 else 64)

/-- Length of the public key of a verify opcode. -/
def latPub (j : Job) : Nat :=
  match j.hdr.opcode with
  | 0x412 => pubLen 12 (psetOf j)
  | 0x422 => pubLen 13 (psetOf j)
  | 0x432 => pubLen 14 (psetOf j)
  | _ => pubLen 15 (psetOf j)

/-- Public key, then context, message and signature of a verify entry. -/
def latKey (j : Job) : List Byte := if isInline j.hdr then j.input.take (latPub j) else (j.keyA.map objPublic).getD []
def latBody (j : Job) : List Byte := if isInline j.hdr then j.input.drop (latPub j) else j.input

/-- CTX_LEN, and the numeric parameters of a signature. -/
def ctxLen (j : Job) : Nat := j.hdr.p0 24 8
def sigPs (op : Nat) (j : Job) : List Nat := [op, psetOf j, msgMode j.hdr, j.hdr.p0 16 4]

/-! ### ML-KEM (09 R255, R262, R264) -/

/-- Bytes of ek, dk and ciphertext. -/
def kemLens (j : Job) : Nat × Nat × Nat := ((mlkemSet (psetOf j)).map fun t => (t.1, t.2.1, t.2.2.1)).getD (0, 0, 0)

/-- ek and dk of FIPS 203 from d and z: dk ends in ek, H(ek) and z. -/
def kemEk (ps n : Nat) (d : List Byte) : List Byte := crypto .publicKey [11, ps] [d.take 32] n
def kemDk (ps n : Nat) (d ek : List Byte) : List Byte :=
  crypto .privateKey [11, ps] [d.take 32] (n - ek.length - 64) ++ ek ++ digest algSha3x256 ek ++ sliceB d 32 32

/-- The dk pack of DEST 0: slot and generation 0, OUT_DATA set, zero counters and SALT. Its PACK_SALT is the
last 32 of the 96 bytes drawn (DEDUCED, log 18). -/
def dkPack (s : State) (j : Job) (dk salt : List Byte) : List Byte :=
  keyPack s 0 { gen := 0, part := j.hdr.part, cls := 12, fam := 11, mat := dk, param := psetOf j, policy := 2, invSecond := 0 } salt

/-- MLKEM_KEYGEN. -/
def mlkemKeygen (j : Job) (s : State) : State × Res :=
  let d := jobDraw j
  let ek := kemEk (psetOf j) (kemLens j).1 d
  let dk := kemDk (psetOf j) (kemLens j).2.1 d ek
  if destOf j.hdr = 0 then (s, { out := ek ++ dkPack s j dk (d.drop 64) })
  else makeKeys j (pairPlans (jobTemplate j) (destOf j.hdr) (psetOf j) 0 dk ek) [] ek s

/-- DERIVED is set on a secret that comes from a key of the vault. -/
def fromVault (j : Job) : Nat := if j.hdr.keyA = 0 then 0 else polDerived

/-- MLKEM_ENCAPS: ciphertext, then the secret or its handle. -/
def mlkemEncaps (j : Job) (s : State) : State × Res :=
  let ek := if isInline j.hdr then afterTemplate j else keyMat j
  let n := (kemLens j).2.2
  let r := crypto .lattice [0x401, psetOf j] [ek, jobDraw j] (n + 32)
  if isInline j.hdr && !Config.cryptoOk .lattice [0x401, psetOf j] [ek] then fail stDecapReject s
  else if destOf j.hdr = 0 then (s, { out := r })
  else makeKeys j (symPlans (jobTemplate j) 1 (fromVault j) (r.drop n)) (r.take n) [] s

/-- MLKEM_DECAPS: the secret, by implicit rejection where the re-encryption differs. -/
def mlkemDecaps (j : Job) (s : State) : State × Res :=
  let ct := (afterTemplate j).drop (if carriesPack j.hdr then (packBytes j.hdr j.input).length else 0)
  if ct.length ≠ (kemLens j).2.2 then fail stDecapReject s
  else deriveOut j (if carriesPack j.hdr then 0 else polDerived) (crypto .lattice [0x402, psetOf j] [keyMat j, ct] 32) s

/-! ### ML-DSA and SLH-DSA (09 R256, R257, R262) -/

/-- MLDSA_KEYGEN: sk and pk from 32 bytes. -/
def mldsaKeygen (j : Job) (s : State) : State × Res :=
  let d := (jobDraw j).take 32
  let pk := crypto .publicKey [12, psetOf j] [d] (pubLen 12 (psetOf j))
  let sk := crypto .privateKey [12, psetOf j] [d] (privLen 12 (psetOf j) - pk.length)
  makeKeys j (pairPlans (jobTemplate j) (destOf j.hdr) (psetOf j) 0 (sk ++ pk) pk) [] pk s

/-- SLHDSA_KEYGEN: SK.seed, SK.prf and PK.seed are drawn; PK is PK.seed and the root. -/
def slhdsaKeygen (j : Job) (s : State) : State × Res :=
  let n := ((slhSet (psetOf j)).map fun t => t.1).getD 0
  let d := jobDraw j
  let pk := d.drop (2 * n) ++ crypto .publicKey [13, psetOf j] [d] n
  makeKeys j (pairPlans (jobTemplate j) (destOf j.hdr) (psetOf j) 0 (d.take (2 * n) ++ pk ++ pk) pk) [] pk s

/-- A signature over context and message; the draw is empty when DET = 1. -/
def latSign (f : CryptoFn) (j : Job) (s : State) : State × Res :=
  (s, { out := crypto f (sigPs j.hdr.opcode j) [keyMat j, j.input.take (ctxLen j), j.input.drop (ctxLen j), jobDraw j] (latOut j.hdr) })

/-- A verification: the signature has its length and verifies under a key of the parameter set. -/
def latVerify (f : CryptoFn) (sigLen : Nat) (j : Job) (s : State) : State × Res :=
  let m := (latBody j).drop (ctxLen j)
  let sig := m.drop (j.hdr.p1 0 16)
  if sig.length == sigLen
      && Config.cryptoOk f (sigPs j.hdr.opcode j) [latKey j, (latBody j).take (ctxLen j), m.take (j.hdr.p1 0 16), sig]
  then (s, {}) else fail stVerifyFail s

def mldsaSig (j : Job) : Nat := ((mldsaSet (psetOf j)).map fun t => t.2.2.1).getD 0
def slhSig (j : Job) : Nat := ((slhSet (psetOf j)).map fun t => t.2.1).getD 0
def statefulSig (j : Job) : Nat := ((stSet j.hdr.opcode (psetOf j)).map (stSig j.hdr.opcode)).getD 0

/-! ### Stateful keys (09 R269-R275) -/

/-- The public key that seeds and leaf hashes give: the HSS key, or OID, root and PUB_SEED. -/
def statefulPub (fam ps : Nat) (seed leaves : List Byte) : List Byte :=
  let n := pubLen fam ps
  if fam = 14 then crypto .publicKey [14, ps] [seed, leaves] n
  else
    let k := seed.length / 3
    crypto .publicKey [15, ps] [seed, leaves] (n - k) ++ seed.drop (2 * k)

/-- The private material (11 R588): the seeds and the public key. -/
def statefulPriv (fam : Nat) (seed pub : List Byte) : List Byte :=
  (if fam = 14 then seed else seed.take (2 * (seed.length / 3))) ++ pub

/-- The keys of a build stream whose last entry this is. -/
def buildKeys (fam : Nat) (j : Job) (seed template leaves : List Byte) (s : State) : State × Res :=
  let pub := statefulPub fam (psetOf j) seed leaves
  makeKeys j (pairPlans (templateOf template) (destOf j.hdr) (psetOf j) polStateful (statefulPriv fam seed pub) pub) [] pub s

/-- One entry of a build stream: a first or single entry draws the seeds, a last or single one creates the
keys. -/
def buildEntry (fam ctx : Nat) (j : Job) (s : State) : State × Res :=
  let t := streamOf s j
  let seed := if j.hdr.isFirst then jobDraw j else t.seed
  let template := if j.hdr.isFirst then j.input.take 64 else t.template
  let s1 := if j.hdr.isFirst then setJob ctx { j with partialOut := seed } s else s
  if j.hdr.isLast then buildKeys fam j seed template (t.leaves ++ leafHashes j.hdr t.done seed) s1 else (s1, {})

/-- LEAF_ASSIGN: a sign job of the holder takes leaf NEXT, which advances; its start waits for the partner
(09 R270). -/
def assignLeaf (ctx : Nat) (j : Job) (s : State) : State :=
  let slot := handleSlot j.hdr.keyA
  match keyAt s j.hdr.keyA with
  | none => refuseJob ctx j stBadHandle (nextBoundary s) s
  | some o =>
    if leafCount o ≤ o.next then refuseJob ctx j stKeyExhausted (nextBoundary s) (bump 13 24 1 s)
    else
      let o1 := { o with next := o.next + 1 }
      let n := entryName s j
      let s1 := mirror (.leaf n.1 n.2.1 n.2.2 o.next slot o1) (putObj slot o1 s)
      setJob ctx { j with leaf := some o.next, ackNeed := max j.ackNeed (gate1 s1) } s1

/-- The signature with the leaf assigned; the leaf use and the traversal state are mirrored as one change. -/
def leafSign (j : Job) (s : State) : State × Res :=
  let leaf := j.leaf.getD 0
  let o := j.keyA.getD {}
  let sig := crypto .hashSig [j.hdr.opcode, psetOf j, leaf] [o.mat, j.input, jobDraw j] (statefulSig j)
  let s2 := match keyAt s j.hdr.keyA with
    | some k => updateObj (handleSlot j.hdr.keyA) (traversed k (leaf + 1)) s
    | none => s
  (s2, { out := sig ++ leBytes 8 (leafCount o - (leaf + 1)) })

/-- LMS_SIGN and XMSS_SIGN: the leaf is taken first; once the job runs, it signs. -/
def leafRow (op ctx : Nat) (s : State) : State :=
  match getJob s ctx with
  | none => s
  | some j =>
    if j.phase == .ready && j.hdr.opcode == op && j.leaf.isNone && leafHolder s then assignLeaf ctx j s
    else runOp op ctx leafSign s

/-! ### Hybrid (09 R276) -/

/-- HYBRID_COMBINE. -/
def hybridCombine (j : Job) (s : State) : State × Res :=
  let n := if destOf j.hdr = 0 then j.hdr.p1 0 16 else (jobTemplate j).keyLen
  let secret := keyMat j ++ (j.keyB.map fun o => o.mat).getD []
  deriveOut j polDerived (kmac algKmac256 secret (afterTemplate j) (ascii "Yalzia hybrid 1") n) s

/-! ### Meanings -/

/-- Opcode 0x400 (09 R260). -/
def execMlkemKeygen (ctx : Nat) (s : State) : Host.Outcome State Fault Refusal :=
  .next (runOp 0x400 ctx mlkemKeygen s)

/-- Opcode 0x401 (09 R260). -/
def execMlkemEncaps (ctx : Nat) (s : State) : Host.Outcome State Fault Refusal :=
  .next (runOp 0x401 ctx mlkemEncaps s)

/-- Opcode 0x402 (09 R260). -/
def execMlkemDecaps (ctx : Nat) (s : State) : Host.Outcome State Fault Refusal :=
  .next (runOp 0x402 ctx mlkemDecaps s)

/-- Opcode 0x410 (09 R260). -/
def execMldsaKeygen (ctx : Nat) (s : State) : Host.Outcome State Fault Refusal :=
  .next (runOp 0x410 ctx mldsaKeygen s)

/-- Opcode 0x411 (09 R260). -/
def execMldsaSign (ctx : Nat) (s : State) : Host.Outcome State Fault Refusal :=
  .next (runOp 0x411 ctx (latSign .lattice) s)

/-- Opcode 0x412 (09 R260). -/
def execMldsaVerify (ctx : Nat) (s : State) : Host.Outcome State Fault Refusal :=
  .next (runOp 0x412 ctx (fun j => latVerify .lattice (mldsaSig j) j) s)

/-- Opcode 0x420 (09 R260). -/
def execSlhdsaKeygen (ctx : Nat) (s : State) : Host.Outcome State Fault Refusal :=
  .next (runOp 0x420 ctx slhdsaKeygen s)

/-- Opcode 0x421 (09 R260). -/
def execSlhdsaSign (ctx : Nat) (s : State) : Host.Outcome State Fault Refusal :=
  .next (runOp 0x421 ctx (latSign .hashSig) s)

/-- Opcode 0x422 (09 R260). -/
def execSlhdsaVerify (ctx : Nat) (s : State) : Host.Outcome State Fault Refusal :=
  .next (runOp 0x422 ctx (fun j => latVerify .hashSig (slhSig j) j) s)

/-- Opcode 0x430 (09 R260). -/
def execLmsBuild (ctx : Nat) (s : State) : Host.Outcome State Fault Refusal :=
  .next (runOp 0x430 ctx (buildEntry 14 ctx) s)

/-- Opcode 0x431 (09 R260). -/
def execLmsSign (ctx : Nat) (s : State) : Host.Outcome State Fault Refusal :=
  .next (leafRow 0x431 ctx s)

/-- Opcode 0x432 (09 R260). -/
def execLmsVerify (ctx : Nat) (s : State) : Host.Outcome State Fault Refusal :=
  .next (runOp 0x432 ctx (fun j => latVerify .hashSig (statefulSig j) j) s)

/-- Opcode 0x434 (09 R260). -/
def execXmssBuild (ctx : Nat) (s : State) : Host.Outcome State Fault Refusal :=
  .next (runOp 0x434 ctx (buildEntry 15 ctx) s)

/-- Opcode 0x435 (09 R260). -/
def execXmssSign (ctx : Nat) (s : State) : Host.Outcome State Fault Refusal :=
  .next (leafRow 0x435 ctx s)

/-- Opcode 0x436 (09 R260). -/
def execXmssVerify (ctx : Nat) (s : State) : Host.Outcome State Fault Refusal :=
  .next (runOp 0x436 ctx (fun j => latVerify .hashSig (statefulSig j) j) s)

/-- Opcode 0x440 (09 R260). -/
def execHybridCombine (ctx : Nat) (s : State) : Host.Outcome State Fault Refusal :=
  .next (runOp 0x440 ctx hybridCombine s)

end Sys2Proof.Machine
end

