-- ==== Sys2Proof/Machine/Keys.lean ====
section
/-! DEFINITION. The key-management opcodes (11 R321, R330-R342). -/

namespace Sys2Proof.Machine

/-- The input after an optional token. -/
def afterToken (j : Job) : List Byte := j.input.drop (tokLen j.hdr)

/-- KEY_GENERATE: KEY_LEN drawn bytes. -/
def keyGenerate (j : Job) (s : State) : State × Res :=
  makeKeys j (symPlans (jobTemplate j) (destOf j.hdr) 0 (jobDraw j)) [] [] s

/-- A row that reads the object of KEY_A: destroyed since its commit point, it finishes with the key loaded then
(11 R334). -/
def ofKey (f : Nat → KeyObj → State → State × Res) (j : Job) (s : State) : State × Res :=
  match (keyAt s j.hdr.keyA).or j.keyA with
  | some o => f (handleSlot j.hdr.keyA) o s
  | none => fail stBadHandle s

/-- A row that changes the object of KEY_A as it stands; destroyed meanwhile, it is BAD_HANDLE (11 R342). -/
def onKey (f : Nat → KeyObj → State → State × Res) (j : Job) (s : State) : State × Res :=
  match keyAt s j.hdr.keyA with
  | some o => f (handleSlot j.hdr.keyA) o s
  | none => fail stBadHandle s

/-- The effective value of a CAP field (11 R321). -/
def capValue (c : Nat) : Nat := if c = 0 ∨ 2 ^ 48 < c then 2 ^ 48 else c

/-- KEY_SET_ATTR may only tighten. -/
def setAttr (b : List Byte) (slot : Nat) (o : KeyObj) (s : State) : State × Res :=
  let pol := leAt b 0 4
  let cap := leAt b 8 8
  let want := pol % 16
  let have_ := o.policy % 16
  if leAt b 4 4 ≠ 0 ∨ pol % 256 ≥ 16 ∨ pol / 4096 ≠ 0 then fail stBadParam s
  else if (want &&& 3) &&& (have_ &&& 3) ≠ want &&& 3 ∨ (want &&& 12) &&& (have_ &&& 12) ≠ have_ &&& 12
      ∨ capValue o.cap < capValue cap then fail stUsageDenied s
  else
    let o1 := { o with
      policy := o.policy - have_ + want, label := BitVec.ofNat 64 (leAt b 16 8)
      cap := if capValue cap = capValue o.cap then o.cap else cap }
    (updateObj slot o1 s, {})

/-- KEY_EXPORT_PACK. -/
def exportPack (j : Job) (slot : Nat) (o : KeyObj) (s : State) : State × Res :=
  let s1 := bump 15 4 1 s
  (s1, { out := keyPack s slot o (jobDraw j) })

/-- KEY_RESTORE_PACK: the material opened before the first segment becomes a new object (11 R331). -/
def restorePack (j : Job) (s : State) : State × Res :=
  let o := j.keyA.getD {}
  let p : Plan := {
    fam := o.fam, cls := o.cls, param := o.param, policy := (o.policy % 2048) + polImported, cap := o.cap
    label := o.label, mat := o.mat, invLead := o.invLead, invSecond := o.invSecond }
  makeKeys j [p] [] [] (bump 15 5 1 s)

/-- KEY_WRAP_EXPORT: material of 16 to 8,192 bytes under KEY_B, one of whose invocations it is not: the
opcode is no encrypt-direction opcode of the symmetric class. -/
def wrapExport (j : Job) (s : State) : State × Res :=
  (s, { out := kwpWrap ((j.keyB.map fun o => o.mat).getD []) (keyMat j) })

/-- Modulus bits that RSA material of `n` bytes has, private or public. -/
def rsaBits (fam cls n : Nat) : Nat := if isPublicObj fam cls then (n - 4) * 8 else (n - 4) * 2 / 9 * 8

/-- The parameter set of imported material of an asymmetric family: the one of the family whose length it
has. Where several curves share a length the spec does not say which (DESIGN CHOICE, log 19): a free choice
among them. -/
def importParam (fam cls : Nat) (mat : List Byte) : Option Nat :=
  let len (p : Nat) : Nat := if isPublicObj fam cls then pubLen fam p else privLen fam p
  if fam = 7 then
    (let b := rsaBits fam cls mat.length; if rsaClass b ≠ 0 ∧ len b = mat.length then some b else none)
  else
    let l := (List.range 128).filter fun p => len p == mat.length && curveFits fam p
    l[Config.cryptoLen .keyWrap [fam, cls] [mat] % l.length]?
where
  /-- A curve code belongs to its family. -/
  curveFits (fam p : Nat) : Bool := !(fam == 8 || fam == 9 || fam == 10) || curveFam p == fam

/-- KEY_UNWRAP_IMPORT. -/
def unwrapImport (j : Job) (s : State) : State × Res :=
  let t := jobTemplate j
  let w := (afterToken j).drop 64
  let kek := keyMat j
  let mat := kwpUnwrap kek w
  if !unwrapOk 1 kek w then fail stAuthFail s
  else if mat.length < 16 ∨ 8192 < mat.length then fail stBadParam s
  else if t.fam < 7 then
    (if mat.length = t.keyLen then makeKeys j [planOf t t.cls 0 polImported mat] [] [] s else fail stBadParam s)
  else match importParam t.fam t.cls mat with
    | some p =>
      let bits := polImported + (if isPublicObj t.fam t.cls then polPublic else 0)
      makeKeys j [planOf t t.cls p bits mat] [] [] s
    | none => fail stBadParam s

/-- KEY_ROOT_DERIVE. -/
def rootDerive (j : Job) (s : State) : State × Res :=
  let n := j.hdr.p0 0 6
  let t := jobTemplate j
  let ctx := (afterToken j).drop 64
  if tget s.vault.binds n ≠ some j.hdr.part then fail stPartitionDenied s
  else
    let mat := kmac256 (rootVal s n) (BitVec.ofNat 8 j.hdr.part :: ctx) t.keyLen "Yalzia persistent"
    makeKeys j [planOf t t.cls 0 0 mat] [] [] s

/-- ROOT_INIT: root_0 and seed_0 of a new domain. -/
def rootInit (j : Job) (s : State) : State × Res :=
  if !s.sys.unkeyed then fail stUsageDenied s
  else
    let d := jobDraw j
    let s1 := setRoots [(0, d.take 32)] [] [(0, sliceB d 32 16)] s
    (s1, { out := domainId s1 })

/-- ROOT_ASSIGN: assigns a persistent root to a partition, or clears the slot. -/
def rootAssign (j : Job) (s : State) : State × Res :=
  let n := j.hdr.p0 0 6
  let v := s.vault
  if j.hdr.p0 16 1 = 1 then (setRoots (tdel v.roots n) (tdel v.binds n) v.seeds s, {})
  else if (tget v.roots n).isSome then fail stBadParam s
  else (setRoots (tput v.roots n (jobDraw j)) (tput v.binds n (j.hdr.p0 8 8)) v.seeds s, {})

/-- ROOT_BACKUP. -/
def rootBackup (j : Job) (s : State) : State × Res := (s, { out := rootPack s (jobDraw j) })

/-- ROOT_RESTORE: this device's own pack, sealed under the life-cycle state it has now (11 R333). -/
def rootRestore (j : Job) (s : State) : State × Res :=
  let pack := afterToken j
  if !s.sys.unkeyed then fail stUsageDenied s
  else if pack.take 4 != packMagic || leAt pack 4 4 != 1 || sliceB pack 8 8 != leBytes 8 s.life.devId.toNat then
    fail stBadHandle (bump 15 6 1 s)
  else match openPack (backupKey s) pack with
    | none => fail stBadHandle (bump 15 6 1 s)
    | some m =>
      let r := rootsOf pack m
      let s1 := setRoots r.1 r.2.1 r.2.2 s
      (s1, { out := domainId s1 })

/-! ### Meanings -/

/-- Opcode 0x500 (11 R337). -/
def execKeyGenerate (ctx : Nat) (s : State) : Host.Outcome State Fault Refusal :=
  .next (runOp 0x500 ctx keyGenerate s)

/-- Opcode 0x504 (11 R337). -/
def execKeyDestroy (ctx : Nat) (s : State) : Host.Outcome State Fault Refusal :=
  .next (runOp 0x504 ctx (onKey fun n _ t => (destroyObj n t, {})) s)

/-- Opcode 0x505 (11 R337). -/
def execKeySetAttr (ctx : Nat) (s : State) : Host.Outcome State Fault Refusal :=
  .next (runOp 0x505 ctx (fun j => onKey (setAttr (afterToken j)) j) s)

/-- Opcode 0x508 (11 R337). -/
def execKeyQuery (ctx : Nat) (s : State) : Host.Outcome State Fault Refusal :=
  .next (runOp 0x508 ctx (ofKey fun n o t => (t, { out := objHeader n o })) s)

/-- Opcode 0x509 (11 R337). -/
def execKeyGetPublic (ctx : Nat) (s : State) : Host.Outcome State Fault Refusal :=
  .next (runOp 0x509 ctx (ofKey fun _ o t => (t, { out := objPublic o })) s)

/-- Opcode 0x510 (11 R337). -/
def execKeyExportPack (ctx : Nat) (s : State) : Host.Outcome State Fault Refusal :=
  .next (runOp 0x510 ctx (fun j => ofKey (exportPack j) j) s)

/-- Opcode 0x511 (11 R337). -/
def execKeyRestorePack (ctx : Nat) (s : State) : Host.Outcome State Fault Refusal :=
  .next (runOp 0x511 ctx restorePack s)

/-- Opcode 0x520 (11 R337). -/
def execKeyWrapExport (ctx : Nat) (s : State) : Host.Outcome State Fault Refusal :=
  .next (runOp 0x520 ctx wrapExport s)

/-- Opcode 0x521 (11 R337). -/
def execKeyUnwrapImport (ctx : Nat) (s : State) : Host.Outcome State Fault Refusal :=
  .next (runOp 0x521 ctx unwrapImport s)

/-- Opcode 0x530 (11 R337). -/
def execKeyRootDerive (ctx : Nat) (s : State) : Host.Outcome State Fault Refusal :=
  .next (runOp 0x530 ctx rootDerive s)

/-- Opcode 0x5F0 (11 R337). -/
def execRootInit (ctx : Nat) (s : State) : Host.Outcome State Fault Refusal :=
  .next (runOp 0x5F0 ctx rootInit s)

/-- Opcode 0x5F1 (11 R337). -/
def execRootAssign (ctx : Nat) (s : State) : Host.Outcome State Fault Refusal :=
  .next (runOp 0x5F1 ctx rootAssign s)

/-- Opcode 0x5F2 (11 R337). -/
def execRootBackup (ctx : Nat) (s : State) : Host.Outcome State Fault Refusal :=
  .next (runOp 0x5F2 ctx rootBackup s)

/-- Opcode 0x5F3 (11 R337). -/
def execRootRestore (ctx : Nat) (s : State) : Host.Outcome State Fault Refusal :=
  .next (runOp 0x5F3 ctx rootRestore s)

end Sys2Proof.Machine
end

