-- ==== Sys2Proof/Machine/Queues.lean ====
section
/-! DEFINITION. The queue commands of the admin queues (04 R136-R142). -/

namespace Sys2Proof.Machine

/-- QNUM and SIZE_LOG2. -/
def qnumOf (j : Job) : Nat := j.hdr.p0 0 16
def sizeOf (j : Job) : Nat := j.hdr.p0 16 5

/-- QSTATE of QM_QCFG. -/
def QState.code : QState → Nat
  | .active => 1 | .resetting => 2 | .tearing => 3

/-- QID and SIZE_UNITS. -/
def ringOut (slot lg : Nat) : Res := { out := leBytes 2 slot ++ [0, 0] ++ leBytes 4 (2 ^ (lg - 6)) }

/-- The partner learns of a queue. -/
def mirrorQueue (q : Queue) (s : State) : State :=
  mirror (.queuePut q.session q.qnum q.sizeLog2 q.applied q.cidx q.chead) s

/-- A replayed CREATE_QUEUE or RESIZE_QUEUE answers the slot that the queue has on this device. -/
def replayRing (j : Job) (s : State) : State × Res :=
  match queueOf s (jobSession s j) (qnumOf j) with
  | some (slot, _) => (s, ringOut slot (sizeOf j))
  | none => fail stBadQueue s

/-- CREATE_QUEUE. -/
def createQueue (j : Job) (s : State) : State × Res :=
  let i := jobSession s j
  let idx : W32 := BitVec.ofNat 32 (j.hdr.p1 0 32)
  if j.result.isSome then replayRing j s
  else if qnumOf j = 0 then fail stBadQueue s
  else match queueOf s i (qnumOf j) with
    | some (_, q) => fail (if q.st = .active ∧ q.tearAsk = 0 then stBadQueue else stQueueBusy) s
    | none => match freeQueueSlot s, allocRing s (sizeOf j) with
      | some slot, some base =>
        let q : Queue := {
          sizeLog2 := sizeOf j, qnum := qnumOf j, session := i, part := (jobSender s j).part, base := base
          applied := idx, visible := idx, cidx := idx, chead := idx, rhead := idx }
        (mirrorQueue q (setQueue slot q s), ringOut slot (sizeOf j))
      | _, _ => fail stQueueBusy s

/-- RESIZE_QUEUE: only an idle queue; the indices keep their values. -/
def resizeQueue (j : Job) (s : State) : State × Res :=
  if j.result.isSome then replayRing j s
  else if qnumOf j = 0 then fail stBadQueue s
  else match queueOf s (jobSession s j) (qnumOf j) with
    | none => fail stBadQueue s
    | some (slot, q) =>
      if q.applied ≠ q.chead then fail stQueueBusy s
      else match allocRing s (sizeOf j) with
        | some base =>
          let q1 := { q with sizeLog2 := sizeOf j, base := base, ahead := [] }
          (mirrorQueue q1 (setQueue slot q1 s), ringOut slot (sizeOf j))
        | none => fail stQueueBusy s

/-- RESET_QUEUE (1) and DESTROY_QUEUE (2): the teardown takes effect at the first boundary to come and ends
the command (04 R142). One that the failed partner had begun goes on, and ends the replayed command; where it has
ended already, the command gets the result kept of it (R146). -/
def tearQueue (op kind ctx : Nat) (s : State) : State :=
  asAdmin op ctx (fun j =>
    let i := jobSession s j
    let kept (e : Nat × Bool × Res) : Bool := e.1 == qnumOf j && e.2.1 == decide (kind = 2)
    match (getSess s i).bind fun x => (x.torn.find? kept).map fun e => (x, e.2.2) with
    | some (x, r) => stageDone ctx j r (setSess i { x with torn := x.torn.filter fun e => !kept e } s)
    | none =>
    match (queueOf s (jobSession s j) (qnumOf j)).filter fun _ => qnumOf j != 0 with
    | none => stageDone ctx j { status := stBadQueue } s
    | some (slot, q) =>
      let ask := if q.st = .active then kind else q.tearAsk
      setJob ctx j (setQueue slot { q with tearAsk := ask, tearJob := some ctx } s)) s

/-- Entries of a queue that hold a context. -/
def inflight (s : State) (slot : Nat) : Nat := ((jobsOf s slot).filter fun p => decide (p.1 < ctxLimit)).length

/-- QUERY_QUEUE. -/
def queryQueue (j : Job) (s : State) : State × Res :=
  match queueOf s (jobSession s j) (qnumOf j) with
  | none => fail stBadQueue s
  | some (slot, q) =>
    (s, { out := leBytes 1 q.st.code ++ leBytes 1 q.sizeLog2 ++ leBytes 2 slot ++ leBytes 4 q.applied.toNat
      ++ leBytes 4 q.visible.toNat ++ leBytes 4 q.cidx.toNat ++ leBytes 4 q.chead.toNat
      ++ leBytes 2 (inflight s slot) ++ [0, 0] })

/-! ### Meanings -/

/-- CREATE_QUEUE. -/
def execCreateQueue (ctx : Nat) (s : State) : Host.Outcome State Fault Refusal := .next (runAdmin 1 ctx createQueue s)

/-- RESIZE_QUEUE. -/
def execResizeQueue (ctx : Nat) (s : State) : Host.Outcome State Fault Refusal := .next (runAdmin 2 ctx resizeQueue s)

/-- RESET_QUEUE. -/
def execResetQueue (ctx : Nat) (s : State) : Host.Outcome State Fault Refusal := .next (tearQueue 3 1 ctx s)

/-- DESTROY_QUEUE. -/
def execDestroyQueue (ctx : Nat) (s : State) : Host.Outcome State Fault Refusal := .next (tearQueue 4 2 ctx s)

/-- QUERY_QUEUE. -/
def execQueryQueue (ctx : Nat) (s : State) : Host.Outcome State Fault Refusal := .next (runAdmin 5 ctx queryQueue s)

end Sys2Proof.Machine
end

