-- ==== Sys2Proof/Machine/CairnLog.lean ====
section
/-! DEFINITION. The cairn log: records, the chain check, programming from the write buffer (15 R465-R471). -/

namespace Sys2Proof.Machine

/-! ### Records (15 R465-R467) -/

/-- A record without its CHECK. -/
def recordBits (e : CairnEnt) (seq : Nat) : Nat :=
  putF e.type 120 8 + putF e.rtc 72 48 + putF e.bitmap.toNat 40 32 + putF e.lcs 36 4 + putF (b2n e.trk) 35 1
    + putF e.mode 32 3 + putF seq 16 16

/-- SEQ and CHECK of a record. -/
def recSeq (r : BitVec 128) : Nat := fld r.toNat 16 16
def recCheck (r : BitVec 128) : Nat := fld r.toNat 0 16

/-- The record with a SEQ. -/
def recordAt (s : State) (n : Nat) : Option (BitVec 128) :=
  (s.cairn.log.find? fun p => recSeq p.2 == n).map fun p => p.2

/-- The device ID at the time of a record: none was programmed in a state before PROVISIONED, but for the record of the
transition that programs it (15 R467, 17 R500; DEDUCED, log 72). -/
def recordId (s : State) (bits : Nat) : Nat :=
  if fld bits 36 4 < 3 ∧ ¬(fld bits 120 8 = 0xE0 ∧ 3 ≤ fld bits 44 4) then 0 else s.life.devId.toNat

/-- CHECK of a record whose predecessor has `prev`. -/
def chainCheck (s : State) (prev bits : Nat) : Nat :=
  leNat ((digest algSha3x256 (ascii "Yalzia cairn" ++ leBytes 8 (recordId s bits) ++ leBytes 2 prev
    ++ (leBytes 16 bits).drop 2)).take 2)

/-- prev_check of the record with SEQ `n`. -/
def prevCheck (s : State) (n : Nat) : Nat := if n = 0 then 0 else ((recordAt s (n - 1)).map recCheck).getD 0

/-- Every record of the log has the CHECK that its predecessor gives. -/
def chainIntact (s : State) : Bool :=
  (List.range s.cairn.seq).all fun n =>
    match recordAt s n with
    | some r => recCheck r == chainCheck s (prevCheck s n) (r.toNat / 65536 * 65536)
    | none => false

/-- Writes one record at an index. Bits only go from 0 to 1: a record there that holds a bit which the value
lacks is left as it is, and CHAIN_ERR is set (15 R469). -/
def writeRecord (index : Nat) (e : CairnEnt) (s : State) : State :=
  let bits := recordBits e s.cairn.seq
  let r : BitVec 128 := BitVec.ofNat 128 (bits + chainCheck s (prevCheck s s.cairn.seq) bits)
  let spoilt := tgetD s.cairn.log index 0 &&& ~~~r != 0
  evcAdd 0x91 1 { s with cairn := { s.cairn with
    log := if spoilt then s.cairn.log else tput s.cairn.log index r
    seq := s.cairn.seq + 1, chainErr := s.cairn.chainErr || spoilt } }

/-- Writes a reserved record (15 R467). -/
def writeReserved (e : CairnEnt) (s : State) : State :=
  let s1 := writeRecord (8160 + s.cairn.resUsed) e s
  { s1 with cairn := { s1.cairn with resUsed := s1.cairn.resUsed + 1 } }

/-! ### The buffer (15 R468-R470) -/

/-- The oldest entry is freed, and the first operation that waits for room places its record. -/
def freeEntry (s : State) : State :=
  let c := s.cairn
  let rest := c.buf.drop 1
  match c.waiting with
  | w :: more => { s with
      cairn := { c with buf := rest ++ [w], waiting := more }
      quorum := { s.quorum with cmtWait := s.quorum.cmtWait - 1 } }
  | [] => { s with cairn := { c with buf := rest } }

/-- A general record that would go past index 8,159: the one log-full record, or only the count. -/
def logFull (e : CairnEnt) (s : State) : State :=
  let s1 := if s.cairn.full then s else writeReserved { e with type := 0xFF, bitmap := BitVec.ofNat 32 e.type } s
  { s1 with cairn := { s1.cairn with full := true, lost := satAdd 32 s1.cairn.lost 1 } }

/-- Programming of the oldest entry begins: it is marked with its SEQ, or the log is full. -/
def programOldest (s : State) : State :=
  match s.cairn.buf with
  | [] => s
  | e :: rest =>
    if e.target.isSome then s
    else if 8160 ≤ s.cairn.next then freeEntry (logFull e s)
    else { s with cairn := { s.cairn with buf := { e with target := some s.cairn.seq } :: rest } }

/-- Programming of the marked entry completes. -/
def completeRecord (s : State) : State :=
  match s.cairn.buf with
  | [] => s
  | e :: _ =>
    if e.target.isNone then s
    else
      let s1 := writeRecord s.cairn.next e s
      freeEntry { s1 with cairn := { s1.cairn with next := s1.cairn.next + 1 } }

/-- Every waiting entry is programmed, at most `fuel` of them. -/
def drainBuffer : Nat → State → State
  | 0, s => s
  | fuel + 1, s => if s.cairn.buf.isEmpty then s else drainBuffer fuel (completeRecord (programOldest s))

/-- What STARTUP does with the log: the chain is verified, waiting entries are programmed, then one record
of the overflow count. -/
def cairnStartup (s : State) : State :=
  let s1 := { s with cairn := { s.cairn with chainErr := s.cairn.chainErr || !chainIntact s } }
  let n := s1.cairn.buf.length + s1.cairn.waiting.length
  let s2 := drainBuffer n s1
  if s2.cairn.ovf = 0 then s2
  else
    let s3 := cairnPlace 0x70 (BitVec.ofNat 32 s2.cairn.ovf) s2
    drainBuffer 1 { s3 with cairn := { s3.cairn with ovf := 0 } }

/-- The life-cycle record of a transition, in the reserved area; a record being programmed is completed
first. -/
def transitionRecord (old new : Nat) (s : State) : State :=
  let s1 := completeRecord s
  let e := { cairnEnt s1 0xE0 (BitVec.ofNat 32 (old + 16 * new)) with lcs := old }
  let s2 := writeReserved e s1
  { s2 with cairn := { s2.cairn with lastLc := new } }

/-! ### Registers and reads (15 R471, R476) -/

def cairnStat (s : State) : Nat :=
  putF s.cairn.next 0 13 + putF s.cairn.seq 16 16 + putF (b2n s.cairn.full) 32 1 + putF (b2n s.cairn.chainErr) 33 1
    + putF s.cairn.resUsed 40 6

/-- The record at an index; zeros where nothing is written. -/
def cairnRec (s : State) (n : Nat) : Nat := (tgetD s.cairn.log n 0).toNat

/-- CAIRN_READ. -/
def cairnRead (j : Job) (s : State) : State × Res :=
  let first := j.hdr.p0 0 13
  let recs := (List.range (j.hdr.p0 16 10)).map fun i => leBytes 16 (cairnRec s (first + i))
  (s, { out := leBytes 8 (cairnStat s) ++ leBytes 4 s.cairn.lost ++ leBytes 4 0 ++ recs.flatten })

/-! ### Meanings -/

/-- CAIRN_READ. -/
def execCairnRead (ctx : Nat) (s : State) : Host.Outcome State Fault Refusal := .next (runAdmin 0x010 ctx cairnRead s)

end Sys2Proof.Machine
end

