-- ==== Sys2Proof/Machine/Life.lean ====
section
/-! DEFINITION. The life cycle: the antifuse word and fields, transitions and their programming steps, and
the opcodes that ask for them (17 R497-R508, R515). -/

namespace Sys2Proof.Machine

/-! ### The life-cycle word (17 R497, R498) -/

/-- Bits set in a stage field. -/
def setBits (f : BitVec 16) : Nat := ((List.range 16).filter fun i => f.getLsbD i).length

/-- Majority with a guard band: clear, set, or torn. -/
def stage3 (f : BitVec 16) : Option Bool :=
  if setBits f ≤ 3 then some false else if 13 ≤ setBits f then some true else none

/-- The state code that the word decodes to; 15 is INVALID. -/
def lifeCode (l : Life) : Nat :=
  match stage3 l.s1, stage3 l.s2, stage3 l.s3, stage3 l.s4, stage3 l.s5 with
  | some false, some false, some false, some false, some false => 1
  | some true, some false, some false, some false, some false => 2
  | some true, some true, some false, some false, some false => 3
  | some true, some true, some true, some false, some false => 4
  | some true, some true, some _, some true, some false => 5
  | some true, some _, some _, some _, some true => 6
  | _, _, _, _, _ => 15

/-- The state that transitions start from: the one programmed, while it waits for the next power-up. -/
def presentState (s : State) : Nat := if s.life.pendingPwr then s.life.nextSt else s.life.code

/-- The permitted transitions (17 R500). -/
def transitionOk (old new : Nat) : Bool :=
  (old == 1 && new == 2) || (old == 2 && new == 3) || (old == 3 && new == 4)
    || ((old == 3 || old == 4) && new == 5) || (decide (2 ≤ old ∧ old ≤ 5) && new == 6)

/-- SVN floor: the leading set bits of the thermometer (17 R518). -/
def svnFloor (l : Life) : Nat := ((List.range 64).find? fun i => !l.svn.getLsbD i).getD 64

/-! ### Hold-up (17 R502) -/

/-- VDD_GUARD within 3 % for 5 ms, 2,500 pitches, and VHOLD_OK asserted. -/
def holdReady (s : State) : Bool := s.board.vddGuard && decide (2500 ≤ s.life.stable) && s.life.holdOk

/-! ### Programming steps (17 R502, R503) -/

/-- Steps of the transition to a state. -/
def stepsOf (new : Nat) : Nat := match new with | 3 => 7 | 4 => 2 | 6 => 26 | _ => 1

/-- Antifuse bits only go from 0 to 1. -/
def burnByte (a b : Byte) : Byte := a ||| b

/-- Programs the bytes `v` of a field of `n` bytes from byte `off` on. -/
def burnField (n off : Nat) (v f : List Byte) : List Byte :=
  ((padTo n f).zip (List.replicate off 0 ++ v ++ List.replicate n 0)).map fun p => burnByte p.1 p.2

/-- Every bit of `f` is also set in `v` (17 R506). -/
def bitsWithin (f v : List Byte) : Bool := (f.zip (padTo f.length v)).all fun p => p.1 &&& ~~~ p.2 == 0

/-- The bytes of the trim fields, 1,024 of them, and the trim fields that bytes spell. -/
def trimBytes (t : Tab W32) : List Byte := ((List.range 256).map fun i => leBytes 4 (tgetD t i 0).toNat).flatten
def trimsOf (b : List Byte) : Tab W32 :=
  (List.range 256).filterMap fun i =>
    let v := leAt b (4 * i) 4
    if v = 0 then none else some (i, BitVec.ofNat 32 v)

/-- Overwrite step `k` of a transition to SCRAPPED: the next 400 bits of seed, helper data and trims are
set. -/
def overwriteStep (k : Nat) (l : Life) : Life :=
  let all := padTo 32 l.otpSeed ++ padTo 192 l.helper ++ trimBytes l.trims
  let now := burnField 1248 (50 * k) (List.replicate 50 0xFF) all
  { l with otpSeed := now.take 32, helper := sliceB now 32 192, trims := trimsOf (now.drop 224) }

/-- The overwrite has reached every bit. -/
def overwritten (l : Life) : Bool :=
  (padTo 32 l.otpSeed ++ padTo 192 l.helper ++ trimBytes l.trims).all fun b => b == 0xFF

/-- The stage field of a state, all bits set. -/
def burnStage (new : Nat) (l : Life) : Life :=
  match new with
  | 2 => { l with s1 := 0xFFFF }
  | 3 => { l with s2 := 0xFFFF }
  | 4 => { l with s3 := 0xFFFF }
  | 5 => { l with s4 := 0xFFFF }
  | _ => { l with s5 := 0xFFFF }

/-- Step `k` of a transition, as far as the bits of `mask` let it (all of them in a step that ends). -/
def burnStep (t : Transition) (k : Nat) (l : Life) : Life :=
  match t.target with
  | 3 =>
    match k with
    | 0 => { l with devId := l.devId ||| t.devId }
    | 1 => { l with otpSeed := burnField 32 0 t.seed l.otpSeed }
    | 6 => burnStage 3 l
    | _ => { l with helper := burnField 192 (48 * (k - 2)) (sliceB t.helper (48 * (k - 2)) 48) l.helper }
  | 4 => if k = 0 then { l with owner := burnField 48 0 t.owner l.owner } else burnStage 4 l
  | 6 => if k = 0 then burnStage 6 l else overwriteStep (k - 1) l
  | n => burnStage n l

/-- The step that programs the stage field. -/
def stageStep (t : Transition) : Nat := match t.target with | 3 => 6 | 4 => 1 | _ => 0

/-- The result of a transition to PROVISIONED (17 R504). -/
def provisionedOut (s : State) : List Byte :=
  leBytes 8 s.life.devId.toNat ++ identityKeys (drkFor s 3 0) ++ identityKeys (drkFor s 4 0)

/-- The transition has ended: PENDING_PWR, and the result of the job that waits for it (17 R505). -/
def endTransition (t : Transition) (s : State) : State :=
  let s1 := { s with life := { s.life with trans := none } }
  if 5 ≤ t.target then s1
  else
    let s2 := { s1 with life := { s1.life with pendingPwr := true, nextSt := t.target } }
    match t.ctx.bind (fun c => (getJob s2 c).map fun j => (c, j)) with
    | some (c, j) => stageOwn s c j { out := if t.target = 3 then provisionedOut s2 else [] } s2
    | none => s2

/-- One step has been programmed: after the stage field follows the cairn record, and before every later
step the hold-up conditions are checked again. -/
def stepDone (t : Transition) (s : State) : State :=
  let k := stepsOf t.target - t.left
  let s1 := { s with life := burnStep t k s.life }
  let s2 := if k = stageStep t then transitionRecord t.old t.target s1 else s1
  let t1 := { t with left := t.left - 1, paused := !holdReady s2 }
  if t.left ≤ 1 then endTransition t1 s2 else { s2 with life := { s2.life with trans := some t1 } }

/-! ### Tokens of debug and RMA authorization (17 R522, R523) -/

/-- Enables that DBG_POLICY in force lets a signer grant in OWNED. -/
def ownedAllow (s : State) (signer : Nat) : Nat := fld (inForce s 0x180000) (if signer = 2 then 0 else 4) 4

/-- The signature block over a prefix verifies: the key reference and both signatures (17 R513). -/
def blockSigned (ref label : List Byte) (body blk : List Byte) : Bool :=
  let mk := blk.take 2592
  let ek := sliceB blk 2592 97
  crypto .hash [algSha3x384] [mk ++ ek] 48 == padTo 48 ref
    && Config.cryptoOk .lattice [0x412, 3] [mk, label ++ body, sliceB blk 2696 4627]
    && Config.cryptoOk .ecc [0x311, 2, algSha384] [ek, label ++ body, sliceB blk 7323 96]

/-- The first check of 17 R523 that a token fails; 0 when it passes. `kind` 0 is debug, 1 is RMA. -/
def tokenCheck (s : State) (kind : Nat) (chal : Option (List Byte × Nat)) (b : List Byte) : Nat :=
  let signer := leAt b 5 1
  let en := leAt b 6 1
  let code := s.life.code
  let fresh := chal.any fun c => c.1 == sliceB b 16 32 && decide (s.sched.pitch < c.2 + 60 * second)
  let owned := code == 4
  if s.sys.mode == .startup || s.sys.mode == .vault || code == 6 || code == 15 then 1
  else if b.length != 7483 || b.take 4 != [0x59, 0x44, 0x42, 0x47] || leAt b 4 1 != kind || leAt b 7 1 != 0
      || (kind == 0 && decide (16 ≤ en)) || !((sliceB b 48 16).all fun x => x == 0) || !((sliceB b 2753 7).all fun x => x == 0) then 2
  else if leAt b 8 8 != s.life.devId.toNat || !fresh then 3
  else if !(signer == 1 || (signer == 2 && owned)) then 4
  else if kind == 0 && owned && (en ||| ownedAllow s signer) != ownedAllow s signer then 5
  else if !blockSigned (if signer = 2 then s.life.owner else Config.vendorRef) (ascii "Yalzia token 1") (b.take 64) (b.drop 64) then 6
  else 0

/-! ### LC_TRANSITION (17 R500-R506) -/

/-- IN_BYTES of a transition to a state. -/
def transitionLen (new : Nat) : Nat := if new = 4 then 72 else if new = 5 then 24 + 7483 else 24

/-- A data field that is already partly programmed fits the value (17 R506). -/
def fieldsFit (l : Life) (t : Transition) : Bool :=
  match t.target with
  | 3 => l.devId &&& ~~~ t.devId == 0 && bitsWithin l.otpSeed t.seed && bitsWithin l.helper t.helper
  | 4 => bitsWithin l.owner t.owner
  | _ => true

/-- The transition that an entry asks for. A new device takes its ID and seed from the 38 bytes that the entry
reserved (01 R4, 02 R53), and enrols its PUF, whose helper data are free values. -/
def transitionOf (s : State) (ctx new : Nat) (j : Job) : Transition :=
  let h := freeBytes s 192
  { old := presentState s, target := new, left := stepsOf new, ctx := if new ≤ 4 then some ctx else none
    devId := if new = 3 then BitVec.ofNat 64 (leNat (j.rnd.take 6)) else 0
    seed := if new = 3 then sliceB j.rnd 6 32 else []
    helper := if new = 3 then h else []
    owner := if new = 4 then sliceB j.input 24 48 else [] }

/-- What comes before programming (17 R500): the root store is cleared, or the avalanche fires. -/
def beforeProgramming (new : Nat) (s : State) : State :=
  match new with
  | 4 => { s with vault := { s.vault with roots := [], binds := [], seeds := [] } }
  | 5 => avalanche .systemReset (sendFence 1 s)
  | 6 => lockdownMode (avalanche .lockdown (sendFence 0 s))
  | _ => s

/-- The status of an entry that does not reach its commit point, with whether its token is consumed. A
vendor token that fails a check gives AUTH_FAIL (log 20). -/
def transitionRefusal (s : State) (j : Job) : Option Nat :=
  let new := leAt j.input 16 1
  if s.sys.mode ≠ .maintenance then some stUsageDenied
  else if j.hdr.inBytes < 24 then some stBadLength
  else if transitionOk (presentState s) new = false ∨ s.life.trans.isSome then some stBadParam
  else if j.hdr.inBytes ≠ transitionLen new then some stBadLength
  else if ((sliceB j.input 17 7).all fun x => x == 0) = false then some stBadParam
  else if tokenValid s j = false then some stQuorumRequired
  else none

/-- The commit point and what it starts. -/
def commitTransition (ctx : Nat) (j : Job) (s : State) : State :=
  let new := leAt j.input 16 1
  let t := transitionOf s ctx new j
  let s0 := consumeToken (j.input.take 16) s
  let s1 := setJob ctx { j with ackNeed := ownAck s s0 j.ackNeed } s0
  if fieldsFit s.life t = false then stageDone ctx ((getJob s1 ctx).getD j) { status := stBadParam } s1
  else
    let s2 := { s1 with life := { s1.life with trans := some t } }
    beforeProgramming new (useBytes (if new = 3 then 192 else 0) s2)

/-- LC_TRANSITION begins to execute. A check of the vendor token consumes the challenge. -/
def lcTransition (ctx : Nat) (j : Job) (s : State) : State :=
  match transitionRefusal s j with
  | some st => stageDone ctx j { status := st } s
  | none =>
    let rma := decide (leAt j.input 16 1 = 5)
    let tok := j.input.drop 24
    let bad := rma && (leAt tok 5 1 != 1 || tokenCheck s 1 s.life.chal tok != 0)
    let s1 := if rma then { s with life := { s.life with chal := none } } else s
    if bad then stageDone ctx j { status := stAuthFail } s1
    else if holdReady s = false then stageDone ctx j { status := stUnitUnavailable } s1
    else commitTransition ctx j s1

/-- LC_TRANSITION. -/
def execLcTransition (ctx : Nat) (s : State) : Host.Outcome State Fault Refusal :=
  .next (
    match adminFor s ctx 0x030 with
    | none => s
    | some j => lcTransition ctx (beginAdmin j s) s)

/-- LC_CHALLENGE. -/
def execLcChallenge (ctx : Nat) (s : State) : Host.Outcome State Fault Refusal :=
  .next (runDraw 0x031 ctx 32 (.lcChal ctx)
    (fun j t => (t, if j.hdr.inBytes ≠ 0 then some { status := stBadLength } else none))
    (fun _ b t => ({ t with life := { t.life with chal := some (b, t.sched.pitch) } }, { out := b })) s)

/-- A challenge is 60 s old. -/
def chalOld (s : State) (c : Option (List Byte × Nat)) : Bool := c.any fun x => decide (x.2 + 60 * second ≤ s.sched.pitch)

/-- LC_CHALLENGE_EXPIRY. -/
def execLcChallengeExpiry (s : State) : Host.Outcome State Fault Refusal :=
  .next (if chalOld s s.life.chal then { s with life := { s.life with chal := none } } else s)

/-- ANTIFUSE_STEP_COMPLETE: the guard die has programmed the step in progress. -/
def execAntifuseStepComplete (s : State) : Host.Outcome State Fault Refusal :=
  .next (
    match s.life.trans with
    | some t => if t.paused || !s.board.vddGuard then s else stepDone t s
    | none => s)

/-- HOLDUP_RESTORED: both conditions hold again, and programming continues with the next step. -/
def execHoldupRestored (s : State) : Host.Outcome State Fault Refusal :=
  .next (
    if s.board.vddGuard then
      { s with life := { s.life with
          holdOk := true, stable := max 2500 s.life.stable
          trans := s.life.trans.map fun t => { t with paused := false } } }
    else s)

/-- A write of LC_TRIM: only in TEST, and no longer once PROVISIONED is programmed (17 R500), with an invasive enable, for an existing field, under the hold-up
conditions. -/
def lcTrim (index : Nat) (v : W32) (s : State) : State :=
  let enabled := s.dbg.enabled.getLsbD 0 || s.dbg.enabled.getLsbD 2
  if presentState s = 2 ∧ s.life.code = 2 ∧ enabled = true ∧ index ≤ 255 ∧ holdReady s = true then
    { s with life := { s.life with trims := tput s.life.trims index (tgetD s.life.trims index 0 ||| v) } }
  else s

/-- LC_TRIM. -/
def execLcTrim (index : Nat) (v : W32) (s : State) : Host.Outcome State Fault Refusal := .next (lcTrim index v s)

end Sys2Proof.Machine
end

