-- ==== Sys2Proof/Machine/Debug.lean ====
section
/-! DEFINITION. The TAP, debug tokens and enables, and the Test Root Key (17 R521-R524, 11 R329), with the
programming of cairn records, which enables wait for. -/

namespace Sys2Proof.Machine

/-! ### The Test Root Key (11 R329) -/

/-- Slots that held an object go on to their next generation, so every earlier handle fails. -/
def nextGens (v : Vault) : Tab Nat := v.objs.foldl (fun t p => tput t p.1 (min 0xFFFFFF (p.2.gen + 1))) v.gens

/-- Every job in flight ends without a result (05 R172); a transition past its commit point goes on. -/
def endJobs (s : State) : State :=
  { s with
    sched := { s.sched with jobs := [], fwdIn := [] }
    units := tmap s.units fun _ r => { r with job := none, seg := false, mem := {} }
    strm := {}
    ent := { s.ent with jobQ := [] }
    life := { s.life with trans := s.life.trans.map fun t => { t with ctx := none } } }

/-- The partner takes this device's sessions and addresses over: they are gone from here (14 R425, R428). -/
def giveUpSessions (s : State) : State :=
  let s1 := s.tol.sess.foldl (fun t p => forgetSession p.1 t) s
  leavePair 0 { s1 with pair := { s1.pair with addrHeld := false, addrTaken := false } }

/-- The key engine substitutes trk at once; the cold store is empty, and the registry in it is lost (12 R352). -/
def substituteTrk (s : State) : State :=
  if s.vault.trk then s
  else
    let s1 := lostRegistry (endJobs (sendFence 2 s))
    let s2 := { s1 with vault := { emptyStore s1.vault with trk := true, gens := nextGens s1.vault } }
    if paired s then giveUpSessions s2 else s2

/-! ### Enables (17 R524, 13 R395) -/

/-- An enable takes effect: WORLD_MEAS3 is extended, and trk replaces drk for all but BASE_NONINVASIVE. The
spec does not say which bytes of an enable are extended: free values (log 2). -/
def enableNow (n : Nat) (s : State) : State :=
  let s1 := { s with dbg := { s.dbg with enabled := s.dbg.enabled ||| BitVec.ofNat 4 (2 ^ n) } }
  let s2 := useBytes 8 (extendMeas 3 (freeBytes s1 8) s1)
  if n < 3 then substituteTrk s2 else s2

/-- Enables whose cairn record is placed take effect. -/
def settleEnables (s : State) : State :=
  let waits (n : Nat) : Bool := s.cairn.waiting.any fun e => e.type == 0x50 && e.bitmap == BitVec.ofNat 32 (2 ^ n)
  let ready := (List.range 4).filter fun n => s.dbg.waitEn.getLsbD n && !waits n
  ready.foldl (fun t n => enableNow n { t with dbg := { t.dbg with waitEn := t.dbg.waitEn &&& ~~~ BitVec.ofNat 4 (2 ^ n) } }) s

/-- An accepted token: one cairn record for each enable newly set. -/
def acceptToken (en : Nat) (s : State) : State :=
  let new := (List.range 4).filter fun n => bitAt en n && !s.dbg.enabled.getLsbD n && !s.dbg.waitEn.getLsbD n
  let s1 := new.foldl (fun t n =>
    let t1 := cairnPlace 0x50 (BitVec.ofNat 32 (2 ^ n)) t
    { t1 with dbg := { t1.dbg with waitEn := t1.dbg.waitEn ||| BitVec.ofNat 4 (2 ^ n) } }) s
  settleEnables { s1 with dbg := { s1.dbg with refuse := 0, accepted := satAdd 16 s1.dbg.accepted 1 } }

/-! ### The TAP (17 R521) -/

/-- The TAP controller is powered. -/
def tapOn (s : State) : Bool := s.board.mainPower && dieOn s

/-- SCRAPPED and INVALID leave only BYPASS, IDCODE and SAMPLE/PRELOAD (17 R499). -/
def tapDead (s : State) : Bool := s.life.code == 6 || s.life.code == 15

/-- Loads the instruction register. -/
def loadIr (code : Byte) (s : State) : State := { s with dbg := { s.dbg with ir := code } }

/-- Any instruction that acts as BYPASS: the one-bit register shifts out 0. -/
def actBypass (code : Byte) (s : State) : State := emit (.tap [0]) (loadIr code s)

/-- EXTEST, CLAMP and HIGHZ are available. -/
def pinsAvailable (s : State) : Bool :=
  let c := s.life.code
  c == 1 || c == 2 || c == 5 || ((c == 3 || c == 4) && s.dbg.enabled.getLsbD 0)

/-- EXTEST, CLAMP or HIGHZ: it drives the boundary, or acts as BYPASS. -/
def boundary (code : Byte) (s : State) : State :=
  if !tapOn s then s else if pinsAvailable s then loadIr code s else actBypass code s

/-- The DBG_CHAL challenge is under 60 s old and unused. -/
def chalValid (s : State) : Bool := s.dbg.chal.isSome && !chalOld s s.dbg.chal

/-- DBG_STAT (17 R528). -/
def dbgStat (s : State) : Nat :=
  s.dbg.enabled.toNat + putF (b2n s.vault.trk) 4 1 + putF (b2n (chalValid s)) 5 1 + putF s.dbg.refuse 8 4
    + putF s.dbg.accepted 16 16

/-- A new challenge is shifted out after DEVICE_ID. -/
def newChallenge (b : List Byte) (s : State) : State :=
  emit (.tap (leBytes 8 s.life.devId.toNat ++ b)) { s with dbg := { s.dbg with chal := some (b, s.sched.pitch) } }

/-! ### Meanings: TAP -/

/-- BYPASS, and every code outside the table. -/
def execBypass (s : State) : Host.Outcome State Fault Refusal := .next (if tapOn s then actBypass 0xFF s else s)

/-- IDCODE. -/
def execIdcode (s : State) : Host.Outcome State Fault Refusal :=
  .next (if tapOn s then emit (.tap (leBytes 4 0x196408B3)) (loadIr 0x01 s) else s)

/-- SAMPLE/PRELOAD. -/
def execSamplePreload (s : State) : Host.Outcome State Fault Refusal := .next (if tapOn s then loadIr 0x02 s else s)

/-- EXTEST. -/
def execExtest (s : State) : Host.Outcome State Fault Refusal := .next (boundary 0x00 s)

/-- CLAMP. -/
def execClamp (s : State) : Host.Outcome State Fault Refusal := .next (boundary 0x04 s)

/-- HIGHZ. -/
def execHighz (s : State) : Host.Outcome State Fault Refusal := .next (boundary 0x05 s)

/-- DBG_CHAL: the challenge is drawn at once or by a later grant (10 R298). -/
def execDbgChal (s : State) : Host.Outcome State Fault Refusal :=
  .next (
    if !tapOn s then s
    else if tapDead s then actBypass 0x10 s
    else
      let s1 := loadIr 0x10 s
      if canDrawNow s1 32 then newChallenge (s1.ent.pool.take 32) (grantInternal 32 s1)
      else requestDraw .dbgChal 32 s1)

/-- DBG_CHALLENGE_EXPIRY. -/
def execDbgChallengeExpiry (s : State) : Host.Outcome State Fault Refusal :=
  .next (if chalOld s s.dbg.chal then { s with dbg := { s.dbg with chal := none } } else s)

/-- DBG_TOKEN: checked at Update-DR; the check consumes the challenge. -/
def execDbgToken (token : List Byte) (s : State) : Host.Outcome State Fault Refusal :=
  .next (
    if !tapOn s then s
    else if tapDead s then actBypass 0x11 s
    else
      let r := tokenCheck s 0 s.dbg.chal token
      let s1 := loadIr 0x11 { s with dbg := { s.dbg with chal := none } }
      if r = 0 then acceptToken (leAt token 6 1) s1 else { s1 with dbg := { s1.dbg with refuse := r } })

/-- DBG_STATUS. -/
def execDbgStatus (s : State) : Host.Outcome State Fault Refusal :=
  .next (
    if !tapOn s then s
    else if tapDead s then actBypass 0x12 s
    else emit (.tap (leBytes 8 (dbgStat s))) (loadIr 0x12 s))

/-- DBG_DROP: every enable ends; VAULT_HIER.TRK stays set. -/
def execDbgDrop (s : State) : Host.Outcome State Fault Refusal :=
  .next (
    if !tapOn s then s
    else if tapDead s then actBypass 0x14 s
    else
      let s1 := loadIr 0x14 s
      { s1 with dbg := { s1.dbg with enabled := 0, waitEn := 0 } })

/-! ### Meanings: programming of cairn records -/

/-- CAIRN_BUFFER_PROGRAM: VDD_GUARD has been stable for 5 ms, 2,500 pitches (15 R468). -/
def execCairnBufferProgram (s : State) : Host.Outcome State Fault Refusal :=
  .next (if s.board.vddGuard && decide (2500 ≤ s.life.stable) then settleEnables (programOldest s) else s)

/-- CAIRN_RECORD_PROGRAMMED (15 R468, R469). -/
def execCairnRecordProgrammed (s : State) : Host.Outcome State Fault Refusal :=
  .next (if s.board.vddGuard then settleEnables (completeRecord s) else s)

end Sys2Proof.Machine
end

