-- ==== Sys2Proof/Machine/Eth.lean ====
section
/-! DEFINITION. The host ports: link, LLDP, addresses, neighbours, echo, pauses and MACsec keys (03
R70-R81, R118-R122). -/

namespace Sys2Proof.Machine

/-! ### Links (03 R70, R118) -/

/-- MODE of a value of ETH_CFG; 9-15 act as 0. -/
def ethMode (v : Nat) : Nat := if v % 16 ≤ 8 then v % 16 else 0

/-- First CSR offset of a port's block. -/
def ethBlk (p : Nat) : Nat := 0x40000 + p * 0x10000

/-- The reference clock of a port is present (18 R529). -/
def portClock (s : State) (p : Nat) : Bool := if p < 2 then s.clk.refEth0 else s.clk.refEth1

/-- Power domain of a port (18 R532). -/
def portDomain (p : Nat) : Nat := if p < 2 then 15 else 16

/-- Host ports may be up: the device has left STARTUP and has not self-fenced (03 R117, 14 R423). -/
def portsAllowed (s : State) : Bool := (serving s || s.sys.mode == .lockdown) && !s.tam.holdDie && !s.pair.fencedOff

/-- The mode that a port's link comes up in is the one set, or one that it advertises by the ABILITY latched when
MODE left 0 (03 R70, R118). -/
def modeFits (v : Nat) (e : Eth) (mode : Nat) : Bool :=
  if ethMode v = 8 then decide (1 ≤ mode ∧ mode ≤ 6) && bitAt (e.opt 4 6) (mode - 1)
  else ethMode v != 0 && ethMode v == mode

/-- The name of a port: ETH0-ETH3. -/
def portName (p : Nat) : List Byte := ascii "ETH" ++ leBytes 1 (0x30 + p)

/-- One LLDP frame: MAC address as chassis ID, port name as port ID, TTL 120 s. -/
def sendLldp (p : Nat) (s : State) : State :=
  let e := getEth s p
  if e.lldp then ethFrame p ethLldp (beBytes 6 e.mac ++ portName p ++ leBytes 2 120) s else s

/-- A link comes up: duplicate address detection starts and addresses taken over are announced. -/
def linkUp (p mode : Nat) (s : State) : State :=
  let v := rw s (ethBlk p)
  let e := getEth s p
  if p < 4 && !e.up && portsAllowed s && portClock s p && domOn s (portDomain p) && modeFits v e mode then
    let e1 := { e with
      up := true, activeMode := mode, anDone := ethMode v == 8, dad := true, dupes := [], dadFail := false }
    let s1 := sendLldp p (setEth p e1 s)
    let s2 := e1.v6.foldl (fun t a => ethFrame p ethDadProbe (beBytes 16 a) t) s1
    if e1.taken then announcePort p s2 else s2
  else s

/-- A link goes down; what a pause held back is lost. Sessions stay. -/
def linkDown (p : Nat) (s : State) : State :=
  let e := getEth s p
  if e.up then setEth p { e with up := false, activeMode := 0, anDone := false, paused := 0, pauseSent := false, held := [] } s
  else s

/-- Bits of ETH_CFG that are not reserved. -/
def ethCfgMask : Nat := 0x00FFFFFFF7FF3FFF

/-- A write of ETH_CFG: MODE acts at once; leaving MODE 0 latches the options and the address table. -/
def ethCfgWrite (p v : Nat) (s : State) : State :=
  let old := ethMode (rw s (ethBlk p))
  let w := v &&& ethCfgMask
  let s1 := setRw (ethBlk p) w s
  if old = ethMode w then s1
  else
    let s2 := linkDown p s1
    let e := getEth s2 p
    if old = 0 then setEth p { e with cfg := BitVec.ofNat 64 w, addr := e.addrSet } s2 else s2

/-! ### Neighbours and addresses (03 R78, R79) -/

/-- A tentative address of the port is another node's too. -/
def duplicateAt (e : Eth) (ip : Nat) : Bool := e.dad && e.v6.contains ip

/-- The address is not used and DAD_FAIL is set until the next link-up. -/
def markDuplicate (p ip : Nat) (s : State) : State :=
  let e := getEth s p
  setEth p { e with dadFail := true, dupes := e.dupes ++ [ip] } s

/-- A destination that does not resolve: solicited three times in all, then its frames are discarded. -/
def resolutionRetry (p ip : Nat) (s : State) : State :=
  let e := getEth s p
  match tget e.neigh ip with
  | none => s
  | some n =>
    if n.resolved || decide (s.sched.pitch < n.stamp + second) then s
    else if n.tries < 3 then
      solicit p ip (setEth p { e with neigh := tput e.neigh ip { n with tries := n.tries + 1, stamp := s.sched.pitch } } s)
    else bump (4 + p) 10 n.waiting.length (setEth p { e with neigh := tdel e.neigh ip } s)

/-- An entry expires 300 s after its last confirmation. -/
def neighbourExpiry (p ip : Nat) (s : State) : State :=
  let e := getEth s p
  match tget e.neigh ip with
  | none => s
  | some n =>
    if n.resolved && decide (n.stamp + 300 * second ≤ s.sched.pitch) then setEth p { e with neigh := tdel e.neigh ip } s
    else s

/-! ### Echo and pauses (03 R74, R80) -/

/-- Bytes of the IP packet of an echo request: IPv4 or IPv6 header, ICMP header, payload. -/
def echoLen (ip : Nat) (payload : List Byte) : Nat := (if isV6 ip then 48 else 28) + payload.length

/-- An echo request to an address that the port answers for: at most 1,000 replies per second. A second is counted
from the first request after the one before (DESIGN CHOICE, log 109). -/
def echo (p src dst : Nat) (payload : List Byte) (s : State) : State :=
  let e := getEth s p
  if !answersFor s p dst || decide (e.mtu < echoLen dst payload) then s
  else
    let fresh := decide (e.echoFrom + second ≤ s.sched.pitch)
    let e1 := if fresh then { e with echoes := 0, echoFrom := s.sched.pitch } else e
    if e1.echoes < 1000 then
      sendFrame p (some dst) (.eth p ethEchoReply payload { dest := src * 65536, bytes := payload })
        (setEth p { e1 with echoes := e1.echoes + 1 } s)
    else bump (4 + p) 9 1 s

/-- The end of a pause of a priority: what it held back leaves. -/
def pauseEnds (p prio : Nat) (s : State) : State :=
  let e := getEth s p
  let e1 := { e with paused := e.paused &&& ~~~ BitVec.ofNat 8 (2 ^ prio) }
  let mine (f : OutEv) : Bool := !e1.isPaused (framePrio e1 f)
  (e.held.filter mine).foldl (fun t f => leave p f t) (setEth p { e1 with held := e.held.filter fun f => !mine f } s)

/-- A pause frame of the peer, for a priority under PFC; a pause time of 0 ends the pause. It is obeyed whatever tag it
carries (DESIGN CHOICE, log 110). -/
def pauseReceived (p prio quanta : Nat) (s : State) : State :=
  let e := getEth s p
  if !e.up then s
  else
    let s1 := bump (4 + p) 7 1 (countRx p 0 s)
    if !(e.vlan && bitAt e.pfcEn prio) then s1
    else if quanta = 0 then pauseEnds p prio s1
    else
      let e1 := getEth s1 p
      setEth p { e1 with paused := e1.paused ||| BitVec.ofNat 8 (2 ^ prio) } s1

/-- The fill of the receive buffer in percent: three quarters send a pause, below half releases it. -/
def pauseSend (p fillPct : Nat) (s : State) : State :=
  let e := getEth s p
  if !(e.up && e.vlan && bitAt e.pfcEn e.pcp) then s
  else if 75 ≤ fillPct ∧ e.pauseSent = false then
    bump (4 + p) 8 1 (ethFrame p ethPause [BitVec.ofNat 8 e.pcp] (setEth p { e with pauseSent := true } s))
  else if fillPct < 50 ∧ e.pauseSent = true then
    ethFrame p ethPauseEnd [BitVec.ofNat 8 e.pcp] (setEth p { e with pauseSent := false } s)
  else s

/-! ### MACsec (03 R76, R121) -/

/-- The handle names a key that may become this SA: 44 bytes, the device partition, and the class of the
direction. -/
def saFits (s : State) (dir : Nat) (handle : Word) : Bool :=
  match keyAt s handle with
  | some o => o.mat.length == 44 && o.part == 0 && handlePart handle == 0 && o.cls == dir + 1
  | none => false

/-- The SA that a key becomes: SAK, salt, and the SSCI of the direction. -/
def saOf (dir : Nat) (handle : Word) (o : KeyObj) : Sa :=
  { handle, sak := o.mat.take 32, salt := sliceB o.mat 32 12, ssci := dir + 1 }

/-- A write of ETH_MSEC_KEY. An installation that succeeds leaves INST_ERR as it is (DESIGN CHOICE, log 111). -/
def msecKey (p : Nat) (handle : Word) (s : State) : State :=
  let ctl := rw s (ethBlk p + 0x28)
  let dir := fld ctl 5 1
  let e := getEth s p
  match (keyAt s handle).filter fun _ => saFits s dir handle with
  | some o => setEth p { e with sas := tput e.sas (dir * 4 + fld ctl 3 2) (saOf dir handle o) } s
  | none => setEth p { e with instErr := true } s

/-- The transmit SA in use. -/
def msecTxAn (p an : Nat) (s : State) : State :=
  let off := ethBlk p + 0x28
  setEth p { getEth s p with txAn := an % 4 } (setRw off (rw s off / 4 * 4 + an % 4) s)

/-! ### Meanings -/

/-- LINK_UP. -/
def execLinkUp (port mode : Nat) (s : State) : Host.Outcome State Fault Refusal := .next (linkUp port mode s)

/-- LINK_DOWN. -/
def execLinkDown (port : Nat) (s : State) : Host.Outcome State Fault Refusal := .next (linkDown port s)

/-- LLDP_TIMER. -/
def execLldpTimer (port : Nat) (s : State) : Host.Outcome State Fault Refusal := .next (sendLldp port s)

/-- LLDP_RECEIVE: the frame is counted and discarded. -/
def execLldpReceive (port : Nat) (hdr : LinkHdr) (s : State) : Host.Outcome State Fault Refusal :=
  .next (
    if (getEth s port).up then
      let s1 := linkCounts port hdr s
      if hdr.fcsOk then countRx port 0 s1 else s1
    else s)

/-- The bytes of an address in a frame. -/
def ipBytes (ip : Nat) : List Byte := beBytes (if isV6 ip then 16 else 4) ip

/-- ARP_REQUEST. -/
def execArpRequest (port ip : Nat) (hdr : LinkHdr) (s : State) : Host.Outcome State Fault Refusal :=
  let r := receive port 0 hdr (ipBytes ip) s
  .next (if r.1 && !isV6 ip && answersFor s port ip then ethFrame port ethArpReply (ipBytes ip) r.2 else r.2)

/-- NEIGHBOUR_SOLICITATION; `dad` marks another node's own duplicate address detection. -/
def execNeighbourSolicitation (port ip : Nat) (dad : Bool) (hdr : LinkHdr) (s : State) :
    Host.Outcome State Fault Refusal :=
  let r := receive port 0 hdr (ipBytes ip) s
  .next (
    if r.1 && isV6 ip then
      if dad && duplicateAt (getEth s port) ip then markDuplicate port ip r.2
      else if answersFor s port ip then ethFrame port ethNaReply (ipBytes ip) r.2 else r.2
    else r.2)

/-- NEIGHBOUR_RESOLUTION_RETRY. -/
def execNeighbourResolutionRetry (port ip : Nat) (s : State) : Host.Outcome State Fault Refusal :=
  .next (resolutionRetry port ip s)

/-- NEIGHBOUR_EXPIRY. -/
def execNeighbourExpiry (port ip : Nat) (s : State) : Host.Outcome State Fault Refusal := .next (neighbourExpiry port ip s)

/-- ARP_REPLY. -/
def execArpReply (port ip mac : Nat) (hdr : LinkHdr) (s : State) : Host.Outcome State Fault Refusal :=
  let r := receive port 0 hdr (ipBytes ip ++ beBytes 6 mac) s
  .next (if r.1 && !isV6 ip then resolved port ip mac r.2 else r.2)

/-- NEIGHBOUR_ADVERTISEMENT. -/
def execNeighbourAdvertisement (port ip mac : Nat) (hdr : LinkHdr) (s : State) : Host.Outcome State Fault Refusal :=
  let r := receive port 0 hdr (ipBytes ip ++ beBytes 6 mac) s
  .next (
    if r.1 && isV6 ip then
      if duplicateAt (getEth s port) ip then markDuplicate port ip r.2 else resolved port ip mac r.2
    else r.2)

/-- DUPLICATE_ADDRESS_DETECTION_END. -/
def execDuplicateAddressDetectionEnd (port : Nat) (s : State) : Host.Outcome State Fault Refusal :=
  .next (if (getEth s port).dad then setEth port { getEth s port with dad := false } s else s)

/-- ICMP_ECHO. A request in a fragment, with options or with extension headers is discarded and counted (03 R80). -/
def execIcmpEcho (port src dst : Nat) (payload : List Byte) (hdr : LinkHdr) (s : State) :
    Host.Outcome State Fault Refusal :=
  let r := receive port 0 hdr payload s
  .next (
    if !r.1 then r.2
    else if hdr.ipOdd then bump (4 + port) 5 1 r.2
    else echo port src dst payload r.2)

/-- PFC_PAUSE_RECEIVE. -/
def execPfcPauseReceive (port prio quanta : Nat) (s : State) : Host.Outcome State Fault Refusal :=
  .next (pauseReceived port prio quanta s)

/-- PFC_PAUSE_EXPIRY. -/
def execPfcPauseExpiry (port prio : Nat) (s : State) : Host.Outcome State Fault Refusal := .next (pauseEnds port prio s)

/-- PFC_PAUSE_SEND. -/
def execPfcPauseSend (port fillPct : Nat) (s : State) : Host.Outcome State Fault Refusal := .next (pauseSend port fillPct s)

/-- ETH_CFG_WRITE. -/
def execEthCfgWrite (port : Nat) (v : Word) (s : State) : Host.Outcome State Fault Refusal :=
  .next (if port < 4 then ethCfgWrite port v.toNat s else s)

/-- ETH_MSEC_KEY. -/
def execEthMsecKey (port : Nat) (handle : Word) (s : State) : Host.Outcome State Fault Refusal :=
  .next (if port < 4 then msecKey port handle s else s)

/-- ETH_MSEC_TX_AN. -/
def execEthMsecTxAn (port an : Nat) (s : State) : Host.Outcome State Fault Refusal :=
  .next (if port < 4 then msecTxAn port an s else s)

end Sys2Proof.Machine
end

