-- ==== Sys2Proof/Machine/Tolyr.lean ====
section
/-! DEFINITION. The Tolyr transport as hosts drive it: the record layer, handshakes, key updates, reliable
delivery into the rings, timers and the end of sessions (03 R80-R117, 04 R130, 05 R166). -/

namespace Sys2Proof.Machine

/-! ### The record layer (03 R86-R88, R99-R101) -/

/-- The open session that a SESSION_ID names, on a port where one is given. -/
def sessById (s : State) (sid : Nat) (port : Option Nat) : Option (Nat × Sess) :=
  s.tol.sess.find? fun p => p.2.sid == sid && p.2.st == 2 && port.all fun n => p.2.port == n

/-- The epoch that the low 8 bits name: the current one, the next, or the one before during its grace. -/
def mapEpoch (x : Sess) (ep8 : Nat) : Option W32 :=
  let fits (e : W32) : Bool := e.toNat % 256 == ep8
  if fits x.rxEpoch then some x.rxEpoch
  else if fits (x.rxEpoch + 1) then some (x.rxEpoch + 1)
  else if x.graceFrom.isSome && fits (x.rxEpoch - 1) then some (x.rxEpoch - 1)
  else (x.older.find? fun g => fits g.1).map fun g => g.1

/-- The window of an epoch that has seen these values takes a SEQ: new, and among the latest 1,024. -/
def windowTakes (seen : List Nat) (seq : Nat) : Bool :=
  !seen.contains seq && decide (seen.foldl max 0 < seq + 1024)

/-- The window with one more value. -/
def windowAdd (seen : List Nat) (seq : Nat) : List Nat :=
  let top := (seq :: seen).foldl max 0
  (seq :: seen).filter fun v => decide (top < v + 1024)

/-- The values accepted in an epoch. -/
def seenIn (x : Sess) (e : W32) : List Nat :=
  if e = x.rxEpoch then x.seen
  else if e = x.rxEpoch - 1 then x.seenPrev
  else ((x.older.find? fun g => g.1 == e).map fun g => g.2.2).getD []

/-- The session after a record that authenticates: where the host is, its window, and when it was heard
(03 R85, R100, R113, R115). The first record of the next epoch moves the receiver to it. -/
def Sess.heardIn (x : Sess) (e : W32) (seq src dst pitch cfg : Nat) : Sess :=
  let y := if e = x.rxEpoch + 1 then x.switchRx pitch else x
  let z := { y with dest := src, loc := dst, lastRx := pitch, idleCfg := cfg, pairMove := none }
  if e = z.rxEpoch then { z with seen := windowAdd z.seen seq, rxSeq := max z.rxSeq seq }
  else if e = z.rxEpoch - 1 then { z with seenPrev := windowAdd z.seenPrev seq }
  else { z with older := z.older.map fun g => if g.1 = e then (g.1, g.2.1, windowAdd g.2.2 seq) else g }

/-- TYPEs that a host may send protected (03 R87). -/
def hostTypes : List Nat := [0x03, 0x10, 0x20, 0x21, 0x22]

/-- The tag of a protected frame verifies under the host's direction key of an epoch: the frame is its 16-byte
header, BODY_LEN bytes of ciphertext and 16 bytes of tag (03 R86, R88, R101). -/
def frameOpens (x : Sess) (e : W32) (f : List Byte) : Bool :=
  let n := leAt f 12 2
  let k := keysOf x e
  f.length == 32 + n
    && gcmTag (k.take 32) (recordIv (sliceB k 32 12) (leAt f 8 4)) (f.take 16) (sliceB f 16 n) == sliceB f (16 + n) 16

/-- A frame of the host has authenticated; the partner learns where the host is when that changes. -/
def hearSession (i : Nat) (x : Sess) (e : W32) (seq src dst : Nat) (s : State) : State :=
  let s1 := evcAdd 0x50 1 (setSess i (x.heardIn e seq src dst s.sched.pitch (tolCfg s)) s)
  if x.dest = src ∧ x.loc = dst then s1 else mirrorSession i 3 s1

/-- A protected frame for a session. -/
def sessionFrame (i : Nat) (x : Sess) (src dst : Nat) (f : List Byte) (s : State) : State :=
  let seq := leAt f 8 4
  match mapEpoch x (leAt f 2 1) with
  | none => bump 3 4 1 s
  | some e =>
    if !windowTakes (seenIn x e) seq then bump 3 4 1 s
    else if !frameOpens x e f then evcAdd 0x53 1 (bump 3 3 1 s)
    else
      let s1 := hearSession i x e seq src dst s
      if hostTypes.contains (leAt f 1 1) then s1 else endSession i 3 0 s1

/-! ### Handshake messages in fragments (03 R89) -/

/-- The largest HELLO frame: 1,400 bytes in step 1, the negotiated maximum for a half-open handshake. -/
def helloLimit (e : Eth) (key : Nat) : Nat :=
  ((e.hs.find? fun h => h.sid == key).map fun h => h.maxFrame).getD 1400

/-- A fragment joins its message; one whose offset is there already is ignored. -/
def addFragment (a : Assembly) (off : Nat) (b : List Byte) : Assembly :=
  if a.parts.any fun q => q.1 == off then a else { a with parts := a.parts ++ [(off, b)] }

/-- A HELLO frame: its fragment is kept by offset. One that is too long, whose MSG_LEN is above 65,536 or is not
that of the message, or that reaches beyond the message is discarded. -/
def helloFragment (p src : Nat) (f : List Byte) (s : State) : State :=
  let e := getEth s p
  let key := leAt f 4 4
  let total := leAt f 20 4
  let off := leAt f 16 4
  let b := sliceB f 24 (leAt f 12 2 - 8)
  let a := (e.asm.find? fun a => a.src == src && a.key == key).getD { src, key, total }
  if f.length ≠ 16 + leAt f 12 2 ∨ leAt f 12 2 < 8 ∨ helloLimit e key < f.length ∨ 65536 < total ∨ a.total ≠ total
      ∨ total < off + b.length then s
  else
    setEth p { e with asm := (e.asm.filter fun a => !(a.src == src && a.key == key)) ++ [addFragment a off b] } s

/-- The message that fragments give from an offset on, or `none` while one is missing. Fragments that overlap without
being duplicates join nowhere: each must begin where the one before ends (DESIGN CHOICE, log 114). -/
def joinParts : Nat → Nat → Nat → List (Nat × List Byte) → Option (List Byte)
  | 0, _, _, _ => none
  | fuel + 1, off, total, l =>
    if off = total then some []
    else match l.find? fun q => q.1 == off && !q.2.isEmpty with
      | some q => (joinParts fuel (off + q.2.length) total l).map fun t => q.2 ++ t
      | none => none

/-- The whole message of a sender under a SESSION_ID field. -/
def wholeHello (e : Eth) (src key : Nat) : Option (List Byte) :=
  (e.asm.find? fun a => a.src == src && a.key == key).bind fun a => joinParts (a.parts.length + 1) 0 a.total a.parts

/-- The assembly of a message that is acted on, or whose handshake is over, is dropped. -/
def dropAssembly (p src key : Nat) (s : State) : State :=
  let e := getEth s p
  setEth p { e with asm := e.asm.filter fun a => !(a.src == src && a.key == key) } s

/-- The partner is in MAINTENANCE and this device holds its addresses (14 R431). -/
def holdsForPartner (s : State) : Bool := s.pair.keys && s.pair.addrTaken && s.pair.st == 3

/-- A cleartext CLOSE is valid before keys exist: it frees the half-open handshake that its SESSION_ID names
(03 R87, R116). -/
def freesHandshake (f : List Byte) (e : Eth) : Bool :=
  leAt f 1 1 == 0x22 && f.length == 24 && e.hs.any fun h => h.sid == leAt f 4 4

/-- A Tolyr frame that has reached the device on a port, or over the rope link. Frames of other versions, of unknown sessions and the cleartext
frames of open sessions are discarded; what a frame carries acts by its own command. -/
def tolFrame (p : Nat) (relayed : Bool) (src dst : Nat) (f : List Byte) (s : State) : State :=
  let type := leAt f 1 1
  let port := if relayed then none else some p
  if f.length < 16 ∨ leAt f 0 1 ≠ 1 ∨ s.sys.mode = .lockdown then s
  else if type = 1 then helloFragment p src f s
  else match sessById s (leAt f 4 4) port with
    | some (i, x) => if f.length < 32 then s else sessionFrame i x src dst f s
    | none =>
      match port with
      | some p =>
        let e := getEth s p
        if freesHandshake f e then setEth p { e with hs := e.hs.filter fun h => h.sid != leAt f 4 4 } s
        else if holdsForPartner s then ropeSend 2 (.relay p src f) s else s
      | none => s

/-- The datagram passes the rules of the port: fragments, options, checksum, UDP port (03 R80). -/
def datagramPasses (e : Eth) (d : Datagram) : Bool :=
  !d.fragment && !d.options && d.checksumOk && d.udpPort == e.udpPort

/-- UDP_DATAGRAM_RECEIVE: a datagram to an address that the port answers for. -/
def datagram (p : Nat) (d : Datagram) (s : State) : State :=
  let r := receive p d.frame.length d.hdr d.frame s
  if !r.1 then r.2
  else if !datagramPasses (getEth s p) d then bump (4 + p) 5 1 r.2
  else if !answersFor s p d.dst then r.2
  else tolFrame p false d.src d.dst d.frame r.2

/-! ### Handshakes (03 R82-R97, 21 R581) -/

/-- The session counter moved past 0 and every ID that a live session of the pair holds. -/
def freshSid (s : State) : Nat → Nat → Nat
  | 0, n => n % 2 ^ 31
  | fuel + 1, n =>
    let v := n % 2 ^ 31
    let used := v == 0 || (s.tol.sess.any fun p => p.2.sid % 2 ^ 31 == v)
      || (s.pair.peerSessions.any fun p => p.sid % 2 ^ 31 == v) || (s.eth.any fun e => e.2.hs.any fun h => h.sid % 2 ^ 31 == v)
    if used then freshSid s fuel (v + 1) else v

/-- Sessions that the device accepted itself, in all and on one port, stand at their limits (03 R82). -/
def sessionsFull (s : State) (p : Nat) : Bool :=
  let own := s.tol.sess.filter fun x => !x.2.taken
  decide (256 ≤ own.length) || decide (64 ≤ (own.filter fun x => x.2.port == p).length)

/-- The form of a HELLO of step 1 (03 R90, R91 order 1). -/
def helloFits (tag : Nat) (m : List Byte) : Bool :=
  m.length == 1288 && leAt m 0 1 == 1 && leAt m 1 1 == 1 && decide (1400 ≤ leAt m 2 2 ∧ leAt m 2 2 ≤ 9000)
    && decide (16 ≤ leAt m 4 2 ∧ leAt m 4 2 ≤ 4096) && leAt m 6 2 == 0 && tag != 0

/-- The client key that a HELLO names: enrolled and not inert; an unkeyed device accepts only listed ones (03
R91, R97, 12 R352). -/
def helloCred (s : State) (m : List Byte) : Option Cred :=
  s.quorum.creds.find? fun c => keyId c == sliceB m 40 32 && effective s c && (c.card || !s.sys.unkeyed)

/-- The checks of MLKEM_EK and of the X25519 value (03 R91 orders 3 and 4). -/
def helloKeysOk (m : List Byte) : Bool :=
  Config.cryptoOk .lattice [0x401, 2] [m.drop 104] && Config.cryptoOk .x25519 [2] [sliceB m 72 32]

/-- CERTS of the ACCEPT: those of the route card, at most 4 (03 R92, R93). -/
def sentCerts (s : State) : List (List Byte) := s.nvm.certs.take 4

/-- The ciphertext of the encapsulation to MLKEM_EK, and the 32 bytes of its shared secret. -/
def encapsulated (h : Handshake) (b : List Byte) : List Byte :=
  crypto .lattice [0x401, 2] [h.hello.drop 104, sliceB b 112 32] 1120

/-- ikm = ss_mlkem || ss_x25519 (03 R95). -/
def acceptIkm (h : Handshake) (b : List Byte) : List Byte :=
  (encapsulated h b).drop 1088 ++ crypto .x25519 [1] [sliceB b 32 80, sliceB h.hello 72 32] 32

/-- ACCEPT up to SIGOFF (03 R92). -/
def acceptBody (s : State) (p : Nat) (h : Handshake) (b : List Byte) : List Byte :=
  [2, 1] ++ leBytes 2 ((getEth s p).maxFrame (h.src / 65536)) ++ leBytes 2 512 ++ [0, 0] ++ leBytes 4 h.tag
    ++ leBytes 4 h.sid ++ b.take 32 ++ crypto .x25519 [0] [sliceB b 32 80] 32 ++ (encapsulated h b).take 1088
    ++ leBytes 1 (sentCerts s).length ++ [0, 0, 0] ++ ((sentCerts s).map fun c => leBytes 4 c.length ++ c).flatten

/-- SHA-384. -/
def sha384 (m : List Byte) : List Byte := crypto .hash [algSha384] [m] 48

/-- The whole ACCEPT: the body and both identity signatures over the transcript (03 R92, R93, R95). -/
def acceptMsg (s : State) (p : Nat) (h : Handshake) (b : List Byte) : List Byte :=
  let body := acceptBody s p h b
  let m := ascii "Tolyr-1 device" ++ sha384 (h.hello ++ body)
  body ++ leBytes 2 3309 ++ crypto .identity [1] [idMldsa (rif s), m, sliceB b 144 32] 3309
    ++ crypto .identity [2] [idScalar (rif s), m, b.drop 176] 96

/-- The bytes of an ACCEPT are there: it leaves at once, or after the partner has the mirror of the session
(14 R418). -/
def acceptDrawn (p : Nat) (h : Handshake) (b : List Byte) (s : State) : State :=
  let msg := acceptMsg s p h b
  let prk := hkdf384Extract (sha384 (h.hello ++ msg)) (acceptIkm h b)
  let h1 := { h with accept := msg, prk, waiting := false }
  let store (g : Option Nat) (t : State) : State :=
    let e := getEth t p
    setEth p { e with hs := e.hs.map fun k => if k.sid == h.sid then { h1 with gate := g } else k } t
  if paired s then
    let s1 := ropeSend 1 (.sessionPos { event := 4, sid := h.sid, port := p }) s
    store (some (gate1 s1)) s1
  else sendAccept p h1 (store none s)

/-- The half-open handshake that waits for a draw. -/
def acceptGrant (sid : Nat) (b : List Byte) (s : State) : State :=
  match s.eth.findSome? fun e => (e.2.hs.find? fun h => h.sid == sid && h.waiting).map fun h => (e.1, h) with
  | some (p, h) => acceptDrawn p h b s
  | none => s

/-- A cleartext CLOSE that answers a HELLO (03 R86, R110). -/
def clearClose (p src loc sid reason status : Nat) (s : State) : State :=
  toHost p loc (.clearClose p sid reason status { dest := src, bytes := clearFrame 0x22 sid (tolBody 0 (.close reason status)) }) s

/-- A HELLO that has passed its checks opens a half-open handshake and asks for its 296 bytes (10 R298). -/
def beginHandshake (p src loc tag : Nat) (m : List Byte) (c : Cred) (s : State) : State :=
  let sid := freshSid s 2048 s.tol.nextSid
  let h : Handshake := {
    sid := sid + (if paired s && isSecond s then 2 ^ 31 else 0), tag, src, loc, cred := c, hello := m, start := s.sched.pitch
    maxFrame := min (leAt m 2 2) ((getEth s p).maxFrame (src / 65536)), rxWindow := leAt m 4 2 }
  let e := getEth s p
  let s1 := setEth p { e with hs := e.hs ++ [h] } { s with tol := { s.tol with nextSid := (sid + 1) % 2 ^ 31 } }
  if canDrawNow s1 296 then acceptDrawn p h (s1.ent.pool.take 296) (grantInternal 296 s1)
  else requestDraw (.accept h.sid) 296 s1

/-- The checks of a HELLO, and the limits (03 R82, R91). -/
def helloChecks (p src loc tag : Nat) (m : List Byte) (s : State) : State :=
  if !helloFits tag m then clearClose p src loc tag 3 0 s
  else match helloCred s m with
    | none => clearClose p src loc tag 1 0 (bump 3 2 1 s)
    | some c =>
      if !helloKeysOk m then clearClose p src loc tag 3 0 s
      else if sessionsFull s p then clearClose p src loc tag 2 0 (bump 3 1 1 s)
      else beginHandshake p src loc tag m c s

/-- A target of a join serves no host (14 R435). -/
def joinTarget (s : State) : Bool := s.pair.st == 2 && !s.pair.source

/-- The frame arrived on an address that was moved here from the partner (14 R431). -/
def movedHere (s : State) (p dst : Nat) : Bool := !(s.pair.addrHeld && (getEth s p).own.contains dst)

/-- A HELLO of step 1 that names a device-level officer of the MAINTENANCE device goes to it (14 R431). -/
def relaysHello (s : State) (p dst : Nat) (m : List Byte) : Bool :=
  movedHere s p dst && holdsForPartner s && (helloCred s m).any fun c => decide (c.role < 3)

/-- A HELLO of step 1. -/
def hello (p src dst ver tag : Nat) (m : List Byte) (s : State) : State :=
  let e := getEth s p
  let again (h : Handshake) : Bool := h.hello == m && h.src == src && h.tag == tag
  let open_ := s.tol.sess.find? fun x => x.2.st == 2 && x.2.hello == m && x.2.helloSrc == src && x.2.helloTag == tag
  if s.sys.mode = .lockdown then clearClose p src dst tag 8 stLockdown s
  else if ver ≠ 1 then clearClose p src dst tag 9 0 s
  else if relaysHello s p dst m then ropeSend 2 (.relay p src (clearFrame 0x01 tag (fragBody 0 m.length m))) s
  else if joinTarget s then clearClose p src dst tag 8 0 s
  else match e.hs.find? again, open_ with
    | some h, _ => if h.waiting || h.gate.isSome then s else sendAccept p h s
    | none, some (_, x) => (acceptFrames p x.sid tag src x.maxFrame x.accept).foldl (fun t f => toHost p dst f t) s
    | none, none =>
      if 32 ≤ e.hs.length then bump (4 + p) 11 1 s else helloChecks p src dst tag m s

/-- The host's signature of step 3 (03 R94, R95). -/
def step3Ok (h : Handshake) (m : List Byte) : Bool :=
  leAt m 0 1 == 3 && leAt m 1 1 == h.cred.alg
    && Config.cryptoOk .identity [3, h.cred.alg]
        [h.cred.key, ascii "Tolyr-1 host" ++ sha384 (h.hello ++ h.accept), sliceB m 4 (leAt m 2 2)]

/-- The session opens in epoch 0, in the lowest free slot, with its admin queue (03 R82, R96, 04 R127). -/
def openSession (p : Nat) (h : Handshake) (m : List Byte) (s : State) : State :=
  match (List.range 512).find? fun n => (tget s.tol.sess n).isNone with
  | none => s
  | some i =>
    let c := h.cred
    let x : Sess := {
      sid := h.sid, port := p, deviceLevel := decide (c.role < 3), part := if c.role < 3 then 0 else c.part
      role := c.role, prk := h.prk, keys := [(0, epochKeys h.prk)], epochFrom := s.sched.pitch, updCfg := tolCfg s, window := h.rxWindow
      dest := h.src, loc := h.loc, lastRx := s.sched.pitch, idleCfg := tolCfg s, maxFrame := h.maxFrame
      hello := h.hello, helloSrc := h.src, helloTag := h.tag, accept := h.accept, step3 := m }
    let q := adminQueue i x.part
    let s1 := setQueue (adminSlot i) q (setSess i x s)
    sendAck i (mirrorQueue q (mirrorSession i 0 (evcAdd 0x55 1 (bump 3 0 1 s1))))

/-- A HELLO of step 3; a duplicate of the one that opened a session is answered by the same ACK (03 R96). One for a
handshake of the MAINTENANCE device goes to it (14 R431). -/
def hello3 (p src dst sid : Nat) (m : List Byte) (s : State) : State :=
  let e := getEth s p
  if s.sys.mode = .lockdown then clearClose p src dst sid 8 stLockdown s
  else match e.hs.find? fun h => h.sid == sid && !h.waiting && h.gate.isNone, sessById s sid none with
  | some h, _ =>
    let s1 := setEth p { e with hs := e.hs.filter fun k => k.sid != sid } s
    if !step3Ok h m then clearClose p src dst sid 1 0 (bump 3 2 1 s1)
    else if sessionsFull s1 p then clearClose p src dst sid 2 0 (bump 3 1 1 s1)
    else openSession p { h with src, loc := dst } m s1
  | none, some (i, x) => if x.step3 = m then sendRecord i none (.ack 0 512 (ackDelay s x) []) s else s
  | none, none =>
    if movedHere s p dst && holdsForPartner s then ropeSend 2 (.relay p src (clearFrame 0x01 sid (fragBody 0 m.length m))) s
    else s

/-- A complete HELLO message has reached the device: over the rope link when its addresses are moved, else on a
port that is up and answers for the address. The message is the one assembled, where it is whole (log 5). The row is one
received frame more in counter 0, beside the datagrams that carried its fragments (DESIGN CHOICE, log 117). -/
def helloArrives (p src dst key : Nat) (m : List Byte) (hdr : LinkHdr) (act : List Byte → State → State) (s : State) : State :=
  let msg := (wholeHello (getEth s p) src key).getD m
  if s.sys.handedOver then act msg (dropAssembly p src key s)
  else
    let r := receive p (24 + m.length) hdr m s
    if r.1 && portsAllowed s && answersFor s p dst then act msg (dropAssembly p src key r.2) else r.2

/-! ### Key updates (03 R102-R105) -/

/-- The partner learns of the new epoch before it is used. -/
def mirrorEpoch (i : Nat) (x : Sess) (s : State) : State :=
  if mirroring s then
    ropeSend 1 (.sessionPos { sessPos i 2 x with
      rheads := rheadsOf s i, pidxs := pidxsOf s i, epoch := x.txEpoch + 1
      prk := if x.txEpoch = x.top then nextPrk x.prk else x.prk }) s
  else s

/-- A KEY_UPDATE or its response leaves, on a pair after the acknowledgement of the mirror. -/
def sendUpdate (i : Nat) (response : Bool) (s : State) : State :=
  match getSess s i with
  | none => s
  | some x =>
    let s1 := mirrorEpoch i x s
    settleSess i (setSess i { x with updateGate := some (gate1 s1, response) } s1)

/-- The device starts an update. -/
def startUpdate (i : Nat) (x : Sess) (s : State) : State :=
  if x.txEpoch = 0xFFFFFFFF then endSession i 7 0 s
  else sendUpdate i false (setSess i { x with update := some (x.txEpoch + 1) } s)

/-- UPDATE_S in pitches. -/
def updateAge (cfg : Nat) : Nat := clampN 10 600 (fld cfg 32 16) * second

/-- A KEY_UPDATE or a response waits for the host's window. -/
def updateBlocked (x : Sess) : Bool :=
  x.blocked.any fun b => match b.1 with
    | .keyUpdate _ _ => true
    | _ => false

/-- KEY_UPDATE_START. -/
def updateDue (s : State) (x : Sess) : Bool :=
  x.st == 2 && x.update.isNone && x.updateGate.isNone && !updateBlocked x
    && (decide (2 ^ 31 ≤ x.txSeq) || decide (2 ^ 31 ≤ x.rxSeq) || decide (x.epochFrom + updateAge x.updCfg ≤ s.sched.pitch))

/-- The receiver's part of a switch, unless a record of the new epoch has made it. -/
def Sess.follow (x : Sess) (e : W32) (pitch : Nat) : Sess := if x.rxEpoch + 1 = e then x.switchRx pitch else x

/-- A KEY_UPDATE applied in DSEQ order: the response to the device's own, or one to answer, whatever its RESPONSE
says (DESIGN CHOICE, log 98). -/
def updateReceived (i : Nat) (x : Sess) (e : W32) (s : State) : State :=
  match x.update, x.updateGate with
  | some n, none =>
    if e ≠ n then endSession i 3 0 s
    else countUpdate (setSess i { x.follow e s.sched.pitch with update := none } s)
  | own, _ =>
    if e ≠ x.txEpoch + 1 then endSession i 3 0 s
    else if x.txEpoch = 0xFFFFFFFF then endSession i 7 0 s
    else if own.isSome then
      setSess i { x.follow e s.sched.pitch with update := none, updateGate := x.updateGate.map fun g => (g.1, true) } s
    else sendUpdate i true (setSess i (x.follow e s.sched.pitch) s)

/-! ### Rings (03 R107-R112, 04 R130, 05 R166) -/

/-- The index rules of 04 R130. -/
def frameOk (q : Queue) (f : RxFrame) : Bool :=
  let old := dist q.applied q.chead
  decide (old ≤ dist f.newPidx q.chead ∧ dist f.newPidx q.chead ≤ q.units)
    && (f.units == 0 || decide (old ≤ dist f.first q.chead ∧ dist f.first q.chead + f.units ≤ q.units))

/-- Body units that are exempt from mirroring: offsets from CIDX of the bodies of STATE-class entries, from the
headers below PIDX. -/
def exemptSpans (s : State) (q : Queue) : Nat → W32 → List (Nat × Nat)
  | 0, _ => []
  | fuel + 1, i =>
    let at_ := dist i q.cidx
    if dist q.applied q.cidx ≤ at_ ∧ (q.ahead.all fun a => decide (a.2 ≤ dist i a.1)) then []
    else
      let h := decodeHeader (ringRead s q i.toNat 1)
      if lenUnitsOk q h = false ∨ mirrorOk q h = false then []
      else
        let rest := exemptSpans s q fuel (idxAdd i h.lenUnits)
        if h.mirror = 1 ∧ honoursState h = true then (at_ + 1, at_ + h.lenUnits) :: rest else rest

/-- Header units of STATE-class entries, which do not hold back PIDX (05 R166). -/
def stateHeaders (l : List (Nat × Nat)) : List Nat := l.map fun e => e.1 - 1

/-- Runs of units of a frame to mirror: offset in the frame and length. -/
def mirrorRuns (keep : Nat → Bool) : List Nat → List (Nat × Nat)
  | [] => []
  | n :: t =>
    let r := mirrorRuns keep t
    if !keep n then r
    else match r with
      | (a, l) :: u => if a = n + 1 then (n, l + 1) :: u else (n, 1) :: (a, l) :: u
      | [] => [(n, 1)]

/-- The units of a frame that the partner must hold are sent; answers whether any is of a FULL-class entry,
and whether any was sent. -/
def mirrorUnits (q : Queue) (f : RxFrame) (s : State) : State × Bool × Bool :=
  if !mirroring s then (s, false, false)
  else
    let spans := exemptSpans s q (q.units + 1) q.cidx
    let off (k : Nat) : Nat := dist (idxAdd f.first k) q.cidx
    let exempt (k : Nat) : Bool := spans.any fun e => decide (e.1 ≤ off k ∧ off k < e.2)
    let units := List.range f.units
    let runs := mirrorRuns (fun k => !exempt k) units
    let send (t : State) (r : Nat × Nat) : State :=
      ropeSend 2 (.entryUnits q.session q.qnum (idxAdd f.first r.1) (sliceB f.data (64 * r.1) (64 * r.2))) t
    let full := units.any fun k => !exempt k && !(stateHeaders spans).contains (off k)
    (runs.foldl send s, full, !runs.isEmpty)

/-- The units of a frame in the ring, written by the host port; a denied write is dropped (13 R403). DATA of another
length than UNITS × 64 is cut or filled with zeros (DESIGN CHOICE, log 116). -/
def writeUnits (q : Queue) (port : Nat) (f : RxFrame) (s : State) : State :=
  writeRing (0x18 + port) q f.first.toNat (padTo (64 * f.units) f.data) s

/-- The new PIDX: visible at once, or with the mirror of what lies below it (01 R30). -/
def movePidx (slot : Nat) (q : Queue) (p : W32) (full : Bool) (s : State) : State :=
  let q1 := { q with applied := p }
  if full && paired s then setQueue slot { q1 with pidxGate := q.pidxGate ++ [(gate2 s, p)] } s
  else match q.pidxGate.getLast? with
    | some g => setQueue slot { q1 with pidxGate := q.pidxGate ++ [(g.1, p)] } s
    | none => setQueue slot { q1 with visible := p } s

/-- The frame is applied; it is acknowledged now or after its mirror. -/
def ackApplied (i : Nat) (sent : Bool) (s : State) : State :=
  match getSess s i with
  | none => s
  | some x =>
    let last := x.ackGate.getLast?.map fun g => g.1
    let need := if sent && paired s then some (gate2 s) else last
    match need with
    | some n => setSess i { x with ackGate := x.ackGate ++ [(n, x.rxDseq)] } s
    | none => sendAck i (setSess i { x with ackCum := x.rxDseq } s)

/-- The runs that the host has written beyond the new PIDX, the frame's own among them. -/
def writtenAhead (q : Queue) (f : RxFrame) : List (W32 × Nat) :=
  (q.ahead ++ [(f.first, f.units)]).filter fun a => decide (dist f.newPidx q.chead < dist a.1 q.chead + a.2)

/-- A RING_WRITE applied in DSEQ order. -/
def applyRing (i port : Nat) (f : RxFrame) (s : State) : State :=
  match (queueOf s i f.qnum).filter fun p => p.2.st != .tearing with
  | none => ackApplied i false (bump 2 2 1 s)
  | some (slot, q) =>
    if !frameOk q f then endSession i 4 0 s
    else
      let s1 := writeUnits q port f s
      let q1 := { q with ahead := writtenAhead q f }
      let m := mirrorUnits { q1 with applied := f.newPidx } f s1
      ackApplied i m.2.2 (mirrorSession i 3 (movePidx slot q1 f.newPidx m.2.1 m.1))

/-- One reliable frame is delivered. -/
def deliverFrame (i : Nat) (x : Sess) (f : RxFrame) (s : State) : State :=
  let y := { x with rxDseq := x.rxDseq + 1 }
  match f.upd with
  | some (e, _) =>
    let s1 := updateReceived i y e (setSess i y s)
    if (getSess s1 i).any fun z => z.st == 2 then ackApplied i false (mirrorSession i 3 s1) else s1
  | none => applyRing i x.port f (setSess i y s)

/-- Held frames that have become next are delivered. -/
def deliverHeld (i : Nat) : Nat → State → State
  | 0, s => s
  | fuel + 1, s =>
    match getSess s i with
    | none => s
    | some x =>
      match if x.st = 2 then x.held.find? fun f => f.dseq == x.rxDseq else none with
      | some f =>
        let y := { x with held := x.held.filter fun g => g.dseq != f.dseq }
        deliverHeld i fuel (deliverFrame i y f (setSess i y s))
      | none => s

/-- A reliable frame of the host: duplicates are discarded, frames beyond the window ignored, early ones held
(03 R106-R108). -/
def reliable (i : Nat) (f : RxFrame) (s : State) : State :=
  match getSess s i with
  | none => s
  | some x0 =>
    let x := { x0 with lastRx := s.sched.pitch, idleCfg := tolCfg s, pairMove := none }
    let s1 := setSess i x s
    if x.st ≠ 2 then s
    else if 2 ^ 31 ≤ dist f.dseq x.rxDseq ∨ x.held.any (fun g => g.dseq == f.dseq) then sendAck i s1
    else if 512 ≤ dist f.dseq x.ackCum then s1
    else if f.dseq = x.rxDseq then deliverHeld i 512 (deliverFrame i x f s1)
    else sendAck i (setSess i { x with held := x.held ++ [f] } s1)

/-! ### Acknowledgements and timers (03 R107-R109, R115) -/

/-- RTO_MIN_US, MAX_RETX and IDLE_S (03 R123). -/
def rtoMin (cfg : Nat) : Nat := clampN 50 10000 (fld cfg 16 16)
def maxRetx (cfg : Nat) : Nat := let n := fld cfg 48 8; if n = 0 then 16 else n
def idleLimit (cfg : Nat) : Nat := let n := fld cfg 0 16; (if n = 0 then 30 else n) * second

/-- The timeout of a frame in microseconds: it doubles at each retransmission, up to 100 ms. -/
def rto (x : Sess) (f : TxFrame) : Nat :=
  let base := max (rtoMin f.cfg) (2 * x.srtt.getD 0)
  max base (min 100000 (base * 2 ^ min f.retx 20))

/-- One sample of the round-trip time, in microseconds (RFC 6298, gains 1/8 and 1/4). -/
def Sess.sample (x : Sess) (r : Nat) : Sess :=
  match x.srtt with
  | none => { x with srtt := some r, rttvar := r / 2 }
  | some v =>
    let d := if r ≤ v then v - r else r - v
    { x with srtt := some ((7 * v + r) / 8), rttvar := (3 * x.rttvar + d) / 4 }

/-- What an acknowledged frame brings: a sample when it was sent once, and RHEAD from a HEAD (14 R419). -/
def frameAcked (i delayUs : Nat) (s : State) (f : TxFrame) : State :=
  let s1 := match getSess s i with
    | some x => if f.retx = 0 then setSess i (x.sample (2 * (s.sched.pitch - f.sentAt) - delayUs)) s else s
    | none => s
  match f.body with
  | .head qn h _ =>
    match queueOf s1 i qn with
    | some (slot, q) => setQueue slot { q with rhead := h } s1
    | none => s1
  | _ => s1

/-- TOLYR_ACK: CUM acknowledges, the window opens, waiting frames leave, and the partner learns the host's
position. An ACK of what was never sent is ignored. -/
def tolAck (i : Nat) (cum : W32) (window delayUs : Nat) (s : State) : State :=
  match getSess s i with
  | none => s
  | some x =>
    let n := dist cum x.cum
    if x.st ≠ 2 ∨ dist x.txDseq x.cum < n then s
    else
      let y := { x with
        cum, window, lastRx := s.sched.pitch, idleCfg := tolCfg s, pairMove := none
        unacked := x.unacked.filter fun f => decide (n ≤ dist f.dseq x.cum) }
      let gone := x.unacked.filter fun f => decide (dist f.dseq x.cum < n)
      let s1 := gone.foldl (frameAcked i delayUs) (setSess i y s)
      let s2 := drainBlocked i (x.blocked.length + 1) s1
      if n = 0 then s2 else mirrorSession i 3 s2

/-- RETRANSMIT_TIMEOUT: the frame leaves again in a new record, or the session ends with TIMEOUT. A frame that was sent
is sent again although a later, smaller WINDOW no longer covers its DSEQ (DESIGN CHOICE, log 115). -/
def retransmit (i : Nat) (dseq : W32) (s : State) : State :=
  match getSess s i with
  | none => s
  | some x =>
    match x.unacked.find? fun f => f.dseq == dseq with
    | none => s
    | some f =>
      if x.st ≠ 2 ∨ 2 * (s.sched.pitch - f.sentAt) < rto x f then s
      else if maxRetx f.cfg ≤ f.retx then endSession i 5 0 s
      else
        let again (g : TxFrame) : TxFrame :=
          if g.dseq == dseq then { g with sentAt := s.sched.pitch, cfg := tolCfg s, retx := g.retx + 1 } else g
        let s1 := setSess i { x with unacked := x.unacked.map again } s
        sendRecord i (some dseq) f.body (evcAdd 0x52 1 (bump 3 6 1 s1))

/-- The session without the epochs whose 1 s after the switch is over at a pitch, and without their keys. -/
def Sess.graceOver (x : Sess) (pitch : Nat) : Sess :=
  let y := { x with older := x.older.filter fun g => decide (pitch < g.2.1 + second) }
  Sess.tidy (if y.graceFrom.any fun p => decide (p + second ≤ pitch) then { y with graceFrom := none, seenPrev := [] } else y)

/-- The keys of an epoch before are erased 1 s after the switch. -/
def graceEnds (i : Nat) (s : State) : State :=
  match getSess s i with
  | none => s
  | some x => setSess i (x.graceOver s.sched.pitch) s

/-- SEQ has reached 0xFFFF_FFFE in a direction; the CLOSE carries 0xFFFF_FFFF when it is the device's own. -/
def seqExhausted (i : Nat) (s : State) : State :=
  match getSess s i with
  | none => s
  | some x =>
    if x.st = 2 ∧ 0xFFFFFFFE ≤ x.txSeq then endSession i 7 0 (setSess i { x with txSeq := 0xFFFFFFFF } s)
    else if x.st = 2 ∧ 0xFFFFFFFE ≤ x.rxSeq then endSession i 7 0 s
    else s

/-- PING_ID of a PING of the device's own; the spec gives no value (log 2). -/
def pingId (s : State) : Word := BitVec.ofNat 64 (leNat (freeBytes s 8))

/-- A write of TOL_SCLOSE. -/
def sclose (sid : Nat) (s : State) : State :=
  match sessById s sid none with
  | some (i, _) => endSession i 10 0 s
  | none => s

/-! ### Meanings -/

/-- UDP_DATAGRAM_RECEIVE. -/
def execUdpDatagramReceive (port : Nat) (d : Datagram) (s : State) : Host.Outcome State Fault Refusal :=
  .next (if port < 4 then datagram port d s else s)

/-- HELLO. -/
def execHello (port src dst ver tag : Nat) (msg : List Byte) (hdr : LinkHdr) (s : State) :
    Host.Outcome State Fault Refusal :=
  .next (if port < 4 then helloArrives port src dst tag msg hdr (hello port src dst ver tag) s else s)

/-- HELLO_STEP3. -/
def execHelloStep3 (port src dst sid : Nat) (msg : List Byte) (hdr : LinkHdr) (s : State) :
    Host.Outcome State Fault Refusal :=
  .next (if port < 4 then helloArrives port src dst sid msg hdr (hello3 port src dst sid) s else s)

/-- HANDSHAKE_TIMEOUT: 1 s without completion. -/
def execHandshakeTimeout (port tag : Nat) (s : State) : Host.Outcome State Fault Refusal :=
  let e := getEth s port
  let old (h : Handshake) : Bool := h.tag == tag && decide (h.start + second ≤ s.sched.pitch)
  let ended (x : Assembly) : Bool := e.hs.any fun h => old h && (x.key == h.sid || (x.key == h.tag && x.src == h.src))
  .next (
    if e.hs.any old then setEth port { e with hs := e.hs.filter fun h => !old h, asm := e.asm.filter fun x => !ended x } s
    else s)

/-- KEY_UPDATE. -/
def execKeyUpdate (sess : Nat) (dseq epoch : W32) (response : Bool) (s : State) : Host.Outcome State Fault Refusal :=
  .next (reliable sess { dseq, upd := some (epoch, response) } s)

/-- KEY_UPDATE_START. -/
def execKeyUpdateStart (sess : Nat) (s : State) : Host.Outcome State Fault Refusal :=
  .next (
    match getSess s sess with
    | some x => if updateDue s x then startUpdate sess x s else s
    | none => s)

/-- EPOCH_GRACE_EXPIRY. -/
def execEpochGraceExpiry (sess : Nat) (s : State) : Host.Outcome State Fault Refusal := .next (graceEnds sess s)

/-- SEQ_EXHAUSTED. -/
def execSeqExhausted (sess : Nat) (s : State) : Host.Outcome State Fault Refusal := .next (seqExhausted sess s)

/-- RING_WRITE. -/
def execRingWrite (sess : Nat) (dseq : W32) (qnum units : Nat) (first newPidx : W32) (data : List Byte) (s : State) :
    Host.Outcome State Fault Refusal :=
  .next (reliable sess { dseq, qnum, units, first, newPidx, data } s)

/-- TOLYR_ACK. RANGES acknowledges nothing (03 R108). -/
def execTolyrAck (sess : Nat) (cum : W32) (window delayUs : Nat) (_ranges : List (W32 × W32)) (s : State) :
    Host.Outcome State Fault Refusal :=
  .next (tolAck sess cum window delayUs s)

/-- RETRANSMIT_TIMEOUT. -/
def execRetransmitTimeout (sess : Nat) (dseq : W32) (s : State) : Host.Outcome State Fault Refusal :=
  .next (retransmit sess dseq s)

/-- PING. -/
def execPing (sess : Nat) (id : Word) (reply : Bool) (s : State) : Host.Outcome State Fault Refusal :=
  .next (
    match getSess s sess with
    | some x =>
      if x.st ≠ 2 then s
      else
        let s1 := setSess sess { x with lastRx := s.sched.pitch, idleCfg := tolCfg s, pairMove := none } s
        if reply then s1 else sendRecord sess none (.ping true id) s1
    | none => s)

/-- IDLE_PING. -/
def execIdlePing (sess : Nat) (s : State) : Host.Outcome State Fault Refusal :=
  .next (
    match getSess s sess with
    | some x =>
      if x.st = 2 ∧ x.lastRx + idleLimit x.idleCfg / 3 ≤ s.sched.pitch then
        sendRecord sess none (.ping false (pingId s)) (useBytes 8 s)
      else s
    | none => s)

/-- IDLE_CLOSE. -/
def execIdleClose (sess : Nat) (s : State) : Host.Outcome State Fault Refusal :=
  .next (
    match getSess s sess with
    | some x => if x.st = 2 ∧ x.lastRx + idleLimit x.idleCfg ≤ s.sched.pitch then endSession sess 6 0 s else s
    | none => s)

/-- CLOSE: answered once with NORMAL, and the session ends. -/
def execClose (sess : Nat) (s : State) : Host.Outcome State Fault Refusal := .next (endSession sess 0 0 s)

/-- PAIR_MOVE_REPEAT. -/
def execPairMoveRepeat (sess : Nat) (s : State) : Host.Outcome State Fault Refusal :=
  .next (
    match getSess s sess with
    | some x => match x.pairMove with
      | some k => sendPairMove sess k s
      | none => s
    | none => s)

/-- TOL_SCLOSE. -/
def execTolSclose (sid : Nat) (s : State) : Host.Outcome State Fault Refusal := .next (sclose sid s)

end Sys2Proof.Machine
end

