-- ==== Sys2Proof/Machine/Rope.lean ====
section
/-! DEFINITION. The rope link of a pair: ports, frames in SEQ order, heartbeats, the failure of the partner,
takeover, forwarded jobs, handover and relayed sessions (14 R411-R432). -/

namespace Sys2Proof.Machine

/-! ### Ports (14 R411, R416, R421, R439) -/

/-- A frame that authenticates was heard on a port; it fixes whether the live line is trusted (14 R422). -/
def heardOn (p : Nat) (s : State) : State :=
  let r := ropePort s p
  let trust := s.pair.liveIn && decide (s.pair.liveSince + 500 ≤ s.sched.pitch)
  let s1 := if r.up then setRope p { r with silent := false, lastAuth := s.sched.pitch } s else s
  { s1 with pair := { s1.pair with trusted := trust } }

/-- The fields of a rope frame are those of 14 R412, on a port that carries rope frames. -/
def ropeFits (s : State) (h : RopeHdr) (b : RopeBody) : Bool :=
  ropeUp s h.port && h.dst == 0x02594C5AFFFF && h.src == 0x02594C5A0000 + h.port && h.etherType == 0x88B5 && !h.vlan
    && h.version == 1 && h.rsv == 0 && h.bodyLen.all (· == (ropeBytes b).length) && decide (h.len ≤ 9000)

/-- A frame that fits is counted with the FEC codewords before it; any other is discarded. So is a type outside the
table, or one sent in the wrong class (14 R412, R413, R446; log 95). -/
def ropeArrives (h : RopeHdr) (cls : Nat) (b : RopeBody) (s : State) : Bool × State :=
  if !ropeFits s h b then (false, s)
  else
    let n := 8 + h.port
    (h.cls == cls && h.type.all (· == ropeType b),
      evcAdd (0x5A + h.port) 1 (bump n 3 h.fecLost (bump n 2 h.fecFixed (bump n 1 1 s))))

/-- The sealed bytes of the partner's frame verify although `flips` disturb them (14 R414). -/
def ropeOpens (s : State) (cls seq : Nat) (b : RopeBody) (flips : List Byte) : Bool :=
  let iv := ropeIv s.pair.ivIn cls seq
  let r := gcmSeal s.pair.keyIn iv (ropeHeader cls seq b) (ropeBytes b)
  flips.all (· == 0) ||
    (gcmOpen s.pair.keyIn iv (ropeHeader cls seq b) (xorBytes r (padTo r.length flips))).isSome

/-- A protected frame reaches a port: it authenticates, or it is discarded and counted. -/
def ropeReceive (h : RopeHdr) (cls seq : Nat) (b : RopeBody) (s : State) : Bool × State :=
  let r := ropeArrives h cls b s
  if !r.1 || !s.pair.keys then (false, r.2)
  else if !ropeOpens s cls seq b h.flips then (false, bump (8 + h.port) 4 1 r.2)
  else (true, heardOn h.port r.2)

/-! ### SEQ order (14 R415) -/

/-- Cumulative SEQ applied in each class. -/
def appliedSeqs (s : State) : Nat × Nat × Nat := (nthD s.pair.rx 0 0, nthD s.pair.rx 1 0, nthD s.pair.rx 2 0)

/-- One frame of a class has been applied; frames of class 0 and 1 are acknowledged. An ACK is not answered
by an ACK of its own (DEDUCED, log 23). -/
def ackRope (cls : Nat) (s : State) : State := if cls < 2 then ropeSend 0 (.ack (appliedSeqs s)) s else s

/-- A protected frame: applied when it is the next of its class, else discarded. -/
def inOrder (h : RopeHdr) (cls seq : Nat) (b : RopeBody) (f : State → State) (s : State) : State :=
  let r := ropeReceive h cls seq b s
  if r.1 && seq == nthD s.pair.rx cls 0 then
    ackRope cls (f { r.2 with pair := { r.2.pair with rx := setNth r.2.pair.rx cls (seq + 1) } })
  else r.2

/-- A frame of the mirror (14 R449). -/
def mirrorFrame (h : RopeHdr) (cls seq : Nat) (b : RopeBody) (f : State → State) (s : State) : State :=
  inOrder h cls seq b (fun t => bump 31 1 1 (f t)) s

/-! ### The bulk copy goes on as its records are acknowledged (14 R435) -/

/-- Sends the next object in slot order. -/
def bulkStep (s : State) : State :=
  match s.vault.objs.find? fun p => decide (s.pair.bulkNext ≤ p.1) with
  | some (slot, o) =>
    ropeSend 2 (.bulk (.object slot o))
      { s with pair := { s.pair with bulkNext := slot + 1, copied := min (s.pair.copied + 1) (2 ^ 25 - 1) } }
  | none => s

/-- An object whose copy was acknowledged but which has changed since is copied again: the key engine puts the
copy and the changes of a slot into one order. -/
def bulkAgain (s : State) (b : RopeBody) : State :=
  match b with
  | .bulk (.object slot o) =>
    match tget s.vault.objs slot with
    | some n => if n = o then s else ropeSend 2 (.bulk (.object slot n)) s
    | none => s
  | _ => s

/-- Records of the copy that were acknowledged. -/
def bulkAcked (l : List RopeTx) (s : State) : State :=
  if s.pair.st = 2 ∧ s.pair.source = true ∧ l.any (fun f => f.cls == 2) then
    bulkStep (l.foldl (fun t f => bulkAgain t f.body) s)
  else s

/-- Cumulative positions of the partner: what waited for them goes on. -/
def takeAcks (a : Nat × Nat × Nat) (s : State) : State :=
  let pos (c : Nat) : Nat := if c = 0 then a.1 else if c = 1 then a.2.1 else a.2.2
  let done (f : RopeTx) : Bool := decide (f.seq < pos f.cls)
  let gone := s.pair.unacked.filter done
  let s1 := { s with pair := { s.pair with
    acked := [0, 1, 2].map fun c => max (nthD s.pair.acked c 0) (pos c)
    unacked := s.pair.unacked.filter fun f => !done f } }
  settleAll (bulkAcked gone (evcAdd 0x5C (gone.filter fun f => isMirror f.body).length s1))

/-! ### The failure of the partner (14 R420-R426) -/

/-- A KIND 0 proposal of the failed device (12 R364). -/
def ofPartner (s : State) (p : Proposal) : Bool := p.kind == 0 && p.devId != s.life.devId

/-- Leaves of a key, ahead of its traversal state, that jobs of this device have. -/
def leavesHeld (s : State) (slot : Nat) (o : KeyObj) : Nat :=
  let has (j : Job) : Bool := handleSlot j.hdr.keyA == slot && match j.leaf with | some l => decide (o.travAt ≤ l) | none => false
  (s.sched.jobs.filter fun p => has p.2).length

/-- Leaves between a key's traversal state and NEXT that no job of this device has. -/
def leavesLost (s : State) (slot : Nat) (o : KeyObj) : Nat :=
  if o.fam = 14 ∨ o.fam = 15 then o.next - o.travAt - leavesHeld s slot o else 0

/-- A takeover finds keys whose NEXT is ahead of their traversal state: the leaves between that no job had before it are
burnt, and where no job that goes on has them the state is brought up to NEXT before a job signs (09 R272, R281). -/
def startCatchUp (before s : State) : State :=
  let l := (s.vault.objs.filter fun p => decide (0 < leavesLost s p.1 p.2)).map fun p => (p.1, p.2.next)
  let burnt := (s.vault.objs.map fun p => leavesLost before p.1 p.2).foldl (· + ·) 0
  evcAdd 0x2C burnt (bump 13 22 burnt { s with vault := { s.vault with catchUp := l } })

/-- The survivor of a takeover holds its own addresses again where they had moved (14 R432). -/
def declare (cause : Nat) (s : State) : State :=
  let s1 := recordTake cause { s with
    sys := { s.sys with handedOver := false }
    pair := { s.pair with takeovers := satAdd 16 s.pair.takeovers 1, addrHeld := true } }
  let s2 := startCatchUp s1 (leavePair 4 s1)
  voidProps (ofPartner s) (takeSessions 0 (fun _ => true) (takeAddresses s2))

/-- The second stops serving: no live line, no links, no jobs, no sessions or queues (14 R423). -/
def selfFence (s : State) : State :=
  let s1 := (List.range 4).foldl (fun t p => linkDown p t) (endJobs s)
  pairState 5 { s1 with
    sys := { s1.sys with paired := false }
    board := { s1.board with liveOut := false }
    tol := { s1.tol with sess := [] }
    qm := { s1.qm with queues := s1.qm.queues.filter fun q => q.2.isInternal }
    pair := { s1.pair with
      keys := false, unacked := [], addrHeld := false, addrTaken := false, fencedOff := true, peerHello := none
      port0 := { s1.pair.port0 with txq := [] }, port1 := { s1.pair.port1 with txq := [] }
      peerQueues := [], peerSessions := [], peerStreams := [], peerBinds := [], peerMade := [], peerStaging := [] } }

/-- A join that breaks off: the source serves on alone, the target drops what it has copied: objects, roots, registry
and quorum state (14 R435, R444). -/
def breakJoin (s : State) : State :=
  if s.pair.source then leavePair 0 s
  else
    let s1 := lostRegistry (selfFence s)
    { s1 with
      vault := { clearedVault s1.vault with derived := s1.vault.derived }
      quorum := { s1.quorum with props := [], journal := [] }
      sys := { s1.sys with unkeyed := true } }

/-- An attempt to join ends without a refusal: what the partner has said in it is forgotten. -/
def joinEnds (s : State) : State := pairState 0 { s with pair := { s.pair with peerHello := none, peerNonce := [] } }

/-- The loss of the link abandons a join (14 R435). -/
def abandonJoin (s : State) : State := if s.pair.keys then breakJoin s else joinEnds s

/-- What the silence of both ports means by role and live line (14 R421). -/
def judge (s : State) : State :=
  if !serving s || !linkSilent s then s
  else if s.pair.st = 2 then abandonJoin s
  else if s.pair.st = 3 ∨ s.pair.st = 6 then
    if s.pair.liveIn then (if isSecond s then selfFence s else s)
    else if s.pair.trusted || !isSecond s then declare 1 s else selfFence s
  else s

/-- The loss of one rope port, an F1 fault but for ROPE1 of a paired fabric member (14 R416, R439). What its transmit
queue holds is lost; its silence begins with the last frame heard, and a join ends with its last port. -/
def portLost (p : Nat) (s : State) : State :=
  let r := ropePort s p
  if !r.up then s
  else
    let s1 := setRope p { r with up := false, rtt := 0, txq := [] } s
    let s2 := if p = 1 && fabOn s && paired s then s1 else collect ((8 + p) * 32) 1 0 s1
    if (s2.pair.st = 1 ∨ s2.pair.st = 2) ∧ !(ropeUp s2 0 || ropeUp s2 1) ∧ serving s2 then abandonJoin s2 else s2

/-- A port, up or down, has heard nothing for 300 us. -/
def portSilence (p : Nat) (s : State) : State :=
  let r := ropePort s p
  if usesRope s p && !r.silent && s.pair.keys && decide (r.lastAuth + 150 ≤ s.sched.pitch) then
    judge (setRope p { r with silent := true } s)
  else s

/-- The rope link is healthy: a port is up and, once there are pair keys, heard. -/
def linkHealthy (s : State) : Bool := [0, 1].any fun p => ropeUp s p && !(s.pair.keys && portSilent s p)

/-- The partner's live line shows no edge for 10 us: an F1 fault while the rope link is healthy (14 R422). -/
def liveStop (s : State) : State :=
  if s.pair.liveIn then
    let s1 := { s with pair := { s.pair with liveIn := false } }
    judge (if linkHealthy s then collect 992 1 0 s1 else s1)
  else s

/-- FENCE: a declaration, or the end of the pair for reason 3, after which the lead waits for the second's HANDOVER (14
R421, R424, R438). -/
def fenceReceived (reason : Nat) (s : State) : State :=
  if !serving s then s
  else if s.pair.st = 2 then breakJoin s
  else if s.pair.st = 3 ∨ s.pair.st = 6 then
    if reason = 3 then (if isSecond s then secondLeaves s else leadStays s) else declare 2 s
  else s

/-! ### Heartbeats (14 R421, R436) -/

/-- Heartbeats missed on a port since the latest one, of which one comes every 50 pitches (14 R446). -/
def missedBeats (s : State) (p : Nat) : Nat := (s.sched.pitch - (ropePort s p).lastBeat - 25) / 50

/-- A port has gone without a heartbeat for two periods: one is missed. -/
def countMissed (s : State) (p : Nat) : State :=
  let r := ropePort s p
  if usesRope s p && s.pair.keys && decide (r.lastBeat + 100 ≤ s.sched.pitch) then
    bump (8 + p) 6 1 (setRope p { r with lastBeat := r.lastBeat + 50 } s)
  else s

/-- A HEARTBEAT leaves on the ports that carry rope frames. -/
def heartbeat (s : State) : State :=
  ropeSend 0 (.heartbeat s.sys.mode.code (pairShown s) s.sched.pitch (appliedSeqs s) s.pair.trusted)
    ([0, 1].foldl countMissed s)

/-- The device takes its host addresses. -/
def holdAddresses (s : State) : State := announceAll { s with pair := { s.pair with addrHeld := true } }

/-- A device that left STARTUP without its addresses takes them when the partner does not hold them (14 R436).
`holds` is the partner's report; the spec gives it no field (log 24). -/
def addressReport (holds : Bool) (s : State) : State :=
  if !s.pair.addrHeld && !holds && !s.sys.handedOver && !s.pair.fencedOff && serving s then holdAddresses s else s

/-- A smoothed round trip in ns, with gain 1/8; it saturates at 16 bits (14 R445; DESIGN CHOICE, log 23). -/
def smoothRtt (old new : Nat) : Nat := min 65535 (if old = 0 then new else (7 * old + new) / 8)

/-- A HEARTBEAT on one port; the copy on the other port counts for that port's silence. -/
def heartbeatReceived (h : RopeHdr) (seq : Nat) (b : RopeBody) (a : Nat × Nat × Nat) (holds : Bool) (rtt : Nat)
    (s : State) : State :=
  let r := ropeReceive h 0 seq b s
  if !r.1 then r.2
  else
    let p := ropePort r.2 h.port
    let s2 := bump (8 + h.port) 6 (missedBeats r.2 h.port)
      (setRope h.port { p with rtt := smoothRtt p.rtt rtt, lastBeat := s.sched.pitch } r.2)
    if seq = nthD s2.pair.rx 0 0 then
      ackRope 0 (addressReport holds (takeAcks a { s2 with pair := { s2.pair with rx := setNth s2.pair.rx 0 (seq + 1) } }))
    else s2

/-- The frame waits in the transmit queue of a port. -/
def stillQueued (s : State) (cls seq : Nat) : Bool :=
  [0, 1].any fun p => (ropePort s p).txq.any fun e => match e with
    | .rope c q _ _ _ => c == cls && q == seq
    | _ => false

/-- A frame that has not been acknowledged within 20 us leaves again on every port that is up. -/
def resend (cls seq : Nat) (s : State) : State :=
  match s.pair.unacked.find? fun f =>
      f.cls == cls && f.seq == seq && decide (f.sentAt + 10 ≤ s.sched.pitch) && !stillQueued s cls seq with
  | some f =>
    let again (x : RopeTx) : RopeTx := if x = f then { x with sentAt := s.sched.pitch } else x
    let ports := [0, 1].filter (ropeUp s)
    let s1 := ropeEmit cls seq f.body ports { s with pair := { s.pair with unacked := s.pair.unacked.map again } }
    ports.foldl (fun t p => bump (8 + p) 5 1 t) s1
  | none => s

/-! ### Forwarded jobs (14 R429) -/

/-- The result of a forwarded job: released at the next boundary, with the nonce bound or the seed drawn. -/
def forwardResult (id : Nat) (r : Res) (nonce : Option (List Byte)) (s : State) : State :=
  match s.sched.jobs.find? fun p => p.2.phase == .forwarded && p.2.fwdId == id with
  | some (ctx, j) =>
    let j1 := if isBuild j.hdr.opcode then { j with partialOut := nonce.getD [] } else { j with nonce := nonce.or j.nonce }
    endJob ctx j1 r (nextBoundary s) (if r.status = stOk then s else endStreamOf j s)
  | none => s

/-- FORWARD: a job to run for the partner, or a result. -/
def forwardReceived (m : FwdMsg) (s : State) : State :=
  match m with
  | .job f => { s with sched := { s.sched with fwdIn := s.sched.fwdIn ++ [f] } }
  | .result id r n => forwardResult id r n s

/-! ### Handover and relayed sessions (14 R431, R432) -/

/-- HANDOVER: KIND 1 moves sessions and the addresses listed here; KIND 2 returns them. -/
def handoverReceived (kind : Nat) (slots : List Nat) (addrs : Tab (List Nat)) (s : State) : State :=
  if kind = 1 then
    recordTake 3 (takeSessions 1 (slots.contains ·) (takeAddresses { s with pair := { s.pair with peerAddrs := addrs } }))
  else if s.pair.addrTaken then
    let s1 := handOut 2 (fun x => x.taken) s
    let s2 := (List.range 4).foldl (fun t p => setEth p { getEth t p with taken := false } t) s1
    { s2 with pair := { s2.pair with addrTaken := false } }
  else
    let s1 := holdAddresses { s with sys := { s.sys with handedOver := false } }
    let s2 := if s1.pair.st = 6 then pairState 3 s1 else s1
    recordTake 4 (takeSessions 2 (slots.contains ·) s2)

/-- A RELAY frame: a datagram of a relayed session for this device, or one of the partner's to send. -/
def relayReceived (p src : Nat) (d : List Byte) (s : State) : State :=
  if s.sys.handedOver then tolFrame p true src 0 d s
  else sendFrame p none (.eth p ethRelayed d { dest := src, bytes := d }) s

/-! ### Meanings -/

/-- ROPE_LINK_UP, once the card is verified (01 R37): a refused join may be tried again (14 R433). -/
def execRopeLinkUp (port : Nat) (s : State) : Host.Outcome State Fault Refusal :=
  .next (
    let clock := if port = 0 then s.clk.refEth0 else s.clk.refEth1
    if port < 2 && dieOn s && !s.sys.held && s.sys.bootStep == 4 && clock && domOn s 17 then
      let s1 := setRope port { up := true, lastAuth := s.sched.pitch, lastBeat := s.sched.pitch } s
      if s1.pair.st = 7 then
        pairState 0 { s1 with pair := { s1.pair with refuse := 0, helloSent := false, peerHello := none } }
      else s1
    else s)

/-- ROPE_PORT_LOST. -/
def execRopePortLost (port : Nat) (s : State) : Host.Outcome State Fault Refusal :=
  .next (if port < 2 then portLost port s else s)

/-- REFCLK_ETH_LOSS: the links of the input's host ports go down and its rope port is lost (18 R531). -/
def execRefclkEthLoss (n : Nat) (s : State) : Host.Outcome State Fault Refusal :=
  .next (
    if n = 0 then portLost 0 (linkDown 0 (linkDown 1 { s with clk := { s.clk with refEth0 := false } }))
    else if n = 1 then portLost 1 (linkDown 2 (linkDown 3 { s with clk := { s.clk with refEth1 := false } }))
    else s)

/-- HEARTBEAT_TIMER. -/
def execHeartbeatTimer (s : State) : Host.Outcome State Fault Refusal := .next (heartbeat s)

/-- HEARTBEAT. -/
def execHeartbeat (hd : RopeHdr) (seq mode state pitch : Nat) (acked : Nat × Nat × Nat) (trust holds : Bool) (rttNs : Nat)
    (s : State) : Host.Outcome State Fault Refusal :=
  .next (heartbeatReceived hd seq (.heartbeat mode state pitch acked trust) acked holds rttNs s)

/-- ROPE_ACK. -/
def execRopeAck (hd : RopeHdr) (seq : Nat) (acked : Nat × Nat × Nat) (s : State) : Host.Outcome State Fault Refusal :=
  .next (
    let r := ropeReceive hd 0 seq (.ack acked) s
    if r.1 && seq == nthD s.pair.rx 0 0 then
      takeAcks acked { r.2 with pair := { r.2.pair with rx := setNth r.2.pair.rx 0 (seq + 1) } }
    else r.2)

/-- ROPE_RESEND_TIMEOUT. -/
def execRopeResendTimeout (cls seq : Nat) (s : State) : Host.Outcome State Fault Refusal := .next (resend cls seq s)

/-- PORT_SILENCE. -/
def execPortSilence (port : Nat) (s : State) : Host.Outcome State Fault Refusal := .next (portSilence port s)

/-- LIVE_LINE_STOP. -/
def execLiveLineStop (s : State) : Host.Outcome State Fault Refusal := .next (liveStop s)

/-- LIVE_LINE_START. -/
def execLiveLineStart (s : State) : Host.Outcome State Fault Refusal :=
  .next (if s.pair.liveIn then s else { s with pair := { s.pair with liveIn := true, liveSince := s.sched.pitch } })

/-- FENCE. -/
def execFence (hd : RopeHdr) (seq reason : Nat) (s : State) : Host.Outcome State Fault Refusal :=
  .next (inOrder hd 0 seq (.fence reason) (fenceReceived reason) s)

/-- The next announcement of the addresses taken over is due: 1 ms and 10 ms after they were taken (14 R425). -/
def announceDue (s : State) : Bool :=
  s.pair.addrTaken && decide (s.pair.announces < 3) &&
    decide ((if s.pair.announces = 1 then 500 else 5000) ≤ (s.sched.pitch % 2 ^ 48 + 2 ^ 48 - s.pair.takePitch) % 2 ^ 48)

/-- ADDRESS_ANNOUNCE_REPEAT. -/
def execAddressAnnounceRepeat (s : State) : Host.Outcome State Fault Refusal :=
  .next (
    if announceDue s then
      announceAll { s with pair := { s.pair with announces := s.pair.announces + 1 } }
    else s)

/-- The body of a FORWARD frame. -/
def forwardBody : FwdMsg → RopeBody
  | .job f => .forward f
  | .result id r n => .forwardResult id r n

/-- FORWARD. -/
def execForward (hd : RopeHdr) (seq : Nat) (m : FwdMsg) (s : State) : Host.Outcome State Fault Refusal :=
  .next (inOrder hd 1 seq (forwardBody m) (forwardReceived m) s)

/-- A HANDOVER that reaches a lead whose pair has ended: the frame is that of the second that leaves, under the keys of
the pair (14 R438). -/
def lastHandover (h : RopeHdr) (seq kind : Nat) (sessions : List Nat) (addrs : Tab (List Nat)) (s : State) : State :=
  let b : RopeBody := .handover kind sessions addrs
  let r := ropeArrives h 0 b s
  if !r.1 || kind != 1 || seq != nthD s.pair.rx 0 0 then r.2
  else if !ropeOpens s 0 seq b h.flips then bump (8 + h.port) 4 1 r.2
  else handoverReceived 1 sessions addrs { r.2 with pair := { r.2.pair with handWait := false } }

/-- HANDOVER. -/
def execHandover (hd : RopeHdr) (seq kind : Nat) (sessions : List Nat) (addrs : Tab (List Nat)) (s : State) :
    Host.Outcome State Fault Refusal :=
  .next (
    if s.pair.keys then inOrder hd 0 seq (.handover kind sessions addrs) (handoverReceived kind sessions addrs) s
    else if s.pair.handWait then lastHandover hd seq kind sessions addrs s
    else s)

/-- RELAY. -/
def execRelay (hd : RopeHdr) (seq port src : Nat) (datagram : List Byte) (s : State) :
    Host.Outcome State Fault Refusal :=
  .next (inOrder hd 2 seq (.relay port src datagram) (relayReceived port src datagram) s)

end Sys2Proof.Machine
end

