-- ==== Sys2Proof/Machine/MirrorIn.lean ====
section
/-! DEFINITION. What a device does with the frames of its partner's mirror (14 R418, R419, R426). -/

namespace Sys2Proof.Machine

/-- A record of the mirror with its entry replaces the one before. -/
def remember (e : Nat × Nat × W32 × List Byte) (l : List (Nat × Nat × W32 × List Byte)) : List (Nat × Nat × W32 × List Byte) :=
  l.filter (fun x => !(x.1 == e.1 && x.2.1 == e.2.1 && x.2.2.1 == e.2.2.1)) ++ [e]

/-- An object as the partner holds it. Its counters never fall back: each device counts its own invocations (06
R192), and the holder its leaves. -/
def putMirrored (slot : Nat) (o : KeyObj) (s : State) : State :=
  let o1 := match (tget s.vault.objs slot).filter fun k => k.gen == o.gen with
    | some k => { o with invLead := max k.invLead o.invLead, invSecond := max k.invSecond o.invSecond, next := max k.next o.next }
    | none => o
  putObj slot o1 s

/-- A nonce or a leaf that the partner took for a job that this device forwarded: the job reserves it no more (06
R193, 09 R273). -/
def noteTaken (session qnum : Nat) (entry : W32) (f : Job → Job) (s : State) : State :=
  let mine (j : Job) : Bool := j.phase == .forwarded && entryName s j == (session, qnum, entry)
  { s with sched := { s.sched with jobs := tmap s.sched.jobs fun _ j => if mine j then f j else j } }

/-- The partner asks for staging blocks, or gives them back: they are granted when this device has them too (06
R197). -/
def stagingAsked (session qnum sid blocks : Nat) (s : State) : State :=
  let l := s.pair.peerStaging.filter fun e => !(e.1 == session && e.2.1 == qnum && e.2.2.1 == sid)
  let s1 := { s with pair := { s.pair with peerStaging := l } }
  if blocks = 0 then s1
  else if blocksUsed s1 + blocks ≤ 65536 then
    mirror (.stagingAns session qnum sid true)
      { s1 with pair := { s1.pair with peerStaging := l ++ [(session, qnum, sid, blocks)] } }
  else mirror (.stagingAns session qnum sid false) s1

/-- The partner's answer: the first entry of the stream may start, or completes with NO_CONTEXT. -/
def stagingAnswered (session qnum sid : Nat) (granted : Bool) (s : State) : State :=
  let asked (p : Nat × Job) : Bool :=
    let n := entryName s p.2
    p.2.stageWait && n.1 == session && n.2.1 == qnum && p.2.hdr.streamId == sid
  match s.sched.jobs.find? asked with
  | none => s
  | some (ctx, j) =>
    if granted then setJob ctx { j with stageWait := false } s
    else refuseJob ctx j stNoContext (nextBoundary s) (bump 10 7 1 s)

/-- During a join the target drops a change to a slot that is still to be copied (14 R435). -/
def notCopied (slot : Nat) (s : State) : Bool := s.pair.st == 2 && !s.pair.source && decide (s.pair.bulkNext ≤ slot)

/-- A queue of the partner. -/
def putPeerQueue (q : PeerQueue) (l : List PeerQueue) : List PeerQueue :=
  l.filter (fun x => !(x.session == q.session && x.qnum == q.qnum)) ++ [q]

def findPeerQueue (s : State) (session qnum : Nat) : Option PeerQueue :=
  s.pair.peerQueues.find? fun q => q.session == session && q.qnum == qnum

/-- A partition that the partner has deleted loses its objects and sessions here too (12 R350, R364). -/
def partGone (s : State) (part : Nat) : State :=
  endSessions (fun x => x.part == part && !x.deviceLevel) 10 0 (seedCleared part { s with
    vault := dropObjects part s.vault, quorum := { s.quorum with parts := s.quorum.parts.filter (· != part) } })

/-- The approvals of both devices count, where the officer still stands; of two tokens issued at once the lead's holds
(DESIGN CHOICE, log 113). -/
def joinProp (s : State) (o p : Proposal) : Proposal :=
  let stands (a : Nat × Nat) : Bool := s.quorum.creds.any fun c => decide (c.role < 4) && c.part == a.1 && c.index == a.2
  let t := if p.token ≠ [] ∧ (o.token = [] ∨ isSecond s = true) then p else o
  { p with
    approvers := (o.approvers ++ p.approvers.filter fun a => !o.approvers.contains a).filter stands
    state := max o.state p.state, token := t.token, tokenEnd := t.tokenEnd }

/-- One proposal of the partner, with the pitches left to its deadline and its token's end. One that has become final
here stays so, so that its token is consumed once. -/
def mergeProp (s : State) (p0 : Proposal) : State :=
  let p := { p0 with expires := p0.expires + s.sched.pitch, tokenEnd := p0.tokenEnd + s.sched.pitch }
  if s.quorum.closedIds.contains p.id then s
  else match propById s p.id with
    | some (slot, o) => setProp slot (joinProp s o p) s
    | none => setProp ((lowestFree s.quorum.props 128).getD 127) p s

/-- A change of the partner's quorum state is merged into this device's, which may have changes of its own in flight
(12 R364). The credentials of this device's own route card stay. -/
def takeQuorum (q : QuorumMirror) (s : State) : State :=
  let s1 := (q.partsOff.filter s.quorum.parts.contains).foldl partGone s
  let s2 := { s1 with quorum := { s1.quorum with
    parts := s1.quorum.parts ++ q.partsOn.filter fun n => !s1.quorum.parts.contains n
    props := s1.quorum.props.filter fun e => !q.gone.contains e.2.id
    closedIds := closed s1.quorum.closedIds q.gone, serial := max s1.quorum.serial q.serial } }
  let kept := s2.quorum.creds.filter fun c => c.card || !q.credsOff.contains c
  raise 4 (toldQuorum (q.props.foldl mergeProp (setCreds (admitCreds s2.quorum.parts kept q.credsOn) s2)))

/-- The root store as the partner has it. -/
def takeRoots (r : Tab (List Byte)) (b : Tab Nat) (sd : Tab (List Byte)) (s : State) : State :=
  { s with
    vault := { s.vault with roots := r, binds := b, seeds := sd }
    sys := { s.sys with unkeyed := (tget r 0).isNone } }

/-- One state change of the partner. -/
def applyChange (c : Change) (s : State) : State :=
  match c with
  | .keyPut slot o => if notCopied slot s then s else putMirrored slot o s
  | .keyDel slot gen => if notCopied slot s then s else emptySlot slot gen s
  | .bind session qnum entry nonce slot o =>
    let s1 := noteTaken session qnum entry (fun j => { j with nonce := some nonce })
      { s with pair := { s.pair with peerBinds := remember (session, qnum, entry, nonce) s.pair.peerBinds } }
    if notCopied slot s then s1 else putMirrored slot o s1
  | .leaf session qnum entry leaf slot o =>
    let s1 := noteTaken session qnum entry (fun j => { j with leaf := some leaf }) s
    if notCopied slot s then s1 else putMirrored slot o s1
  | .unmade session qnum entry =>
    { s with pair := { s.pair with
      peerMade := s.pair.peerMade.filter fun e => !(e.1 == session && e.2.1 == qnum && e.2.2.1 == entry) } }
  | .made session qnum entry out objs =>
    let s1 := objs.foldl (fun t p => if notCopied p.1 t then t else putMirrored p.1 p.2 t) s
    { s1 with pair := { s1.pair with peerMade := remember (session, qnum, entry, out) s1.pair.peerMade } }
  | .quorum q => takeQuorum q s
  | .journal r => placeJournal r s
  | .queuePut session qnum lg pidx cidx chead =>
    let units := ((findPeerQueue s session qnum).filter fun q => q.sizeLog2 == lg).map fun q => q.units
    let q : PeerQueue := { session, qnum, sizeLog2 := lg, pidx, cidx, chead, units := units.getD [] }
    { s with pair := { s.pair with peerQueues := putPeerQueue q s.pair.peerQueues } }
  | .queueDel session qnum =>
    { s with pair := { s.pair with
      peerQueues := s.pair.peerQueues.filter fun q => !(q.session == session && q.qnum == qnum)
      peerStreams := s.pair.peerStreams.filter fun t => !(t.1 == session && t.2.1 == qnum)
      peerStaging := s.pair.peerStaging.filter fun t => !(t.1 == session && t.2.1 == qnum) } }
  | .queueTear session qnum gone p =>
    match findPeerQueue s session qnum with
    | some q =>
      { s with pair := { s.pair with peerQueues := putPeerQueue { q with tear := some (gone, p) } s.pair.peerQueues } }
    | none => s
  | .queueNext session qnum cidx =>
    match findPeerQueue s session qnum with
    | some q => { s with pair := { s.pair with peerQueues := putPeerQueue { q with cidx } s.pair.peerQueues } }
    | none => s
  | .leafHolder away => { s with pair := { s.pair with leafAway := away } }
  | .staging session qnum sid blocks => stagingAsked session qnum sid blocks s
  | .stagingAns session qnum sid granted => stagingAnswered session qnum sid granted s
  | .roots r b sd => takeRoots r b sd s
  | .ask slot =>
    match (tget s.vault.objs slot).filter fun o => !o.lost && !s.vault.awaited.contains slot with
    | some o => mirror (.answer slot o) s
    | none => s
  | .answer slot o =>
    if s.vault.awaited.contains slot && (tget s.vault.objs slot).any fun k => k.gen == o.gen then refetched slot o s else s

/-- A head advance of the partner with the streams of the queue as they stand after it. -/
def applyHead (session qnum : Nat) (chead : W32) (streams : List Stream) (s : State) : State :=
  let s1 := match findPeerQueue s session qnum with
    | some q => { s with pair := { s.pair with peerQueues := putPeerQueue { q with chead } s.pair.peerQueues } }
    | none => s
  let kept := s1.pair.peerStreams.filter fun t => !(t.1 == session && t.2.1 == qnum)
  { s1 with pair := { s1.pair with peerStreams := kept ++ streams.map fun t => (session, qnum, t) } }

/-- Applied PIDX of the partner's queues. -/
def applyPidxs (session : Nat) (l : List (Nat × W32)) (s : State) : State :=
  let upd (q : PeerQueue) : PeerQueue :=
    match if q.session == session then l.find? fun e => e.1 == q.qnum else none with
    | some e => { q with pidx := e.2 }
    | none => q
  { s with pair := { s.pair with peerQueues := s.pair.peerQueues.map upd } }

/-- A session's epoch never falls back: the new epoch of an update stands although a position sent after it names
the old one (03 R103, R113). -/
def keepEpoch (l : List SessPos) (p : SessPos) : SessPos :=
  match l.find? fun x => x.slot == p.slot && x.sid == p.sid && decide (p.epoch.toNat < x.epoch.toNat) with
  | some x => { p with epoch := x.epoch, prk := x.prk }
  | none => p

/-- A session of the partner opens, ends or moves on. -/
def applySession (p : SessPos) (s : State) : State :=
  let others := s.pair.peerSessions.filter fun x => x.slot != p.slot
  if p.event = 4 then s
  else if p.event = 1 then
    { s with pair := { s.pair with
      peerSessions := others
      peerQueues := s.pair.peerQueues.filter fun q => q.session != p.slot
      peerStreams := s.pair.peerStreams.filter fun t => t.1 != p.slot
      peerStaging := s.pair.peerStaging.filter fun t => t.1 != p.slot
      peerBinds := s.pair.peerBinds.filter fun e => e.1 != p.slot
      peerMade := s.pair.peerMade.filter fun e => e.1 != p.slot } }
  else applyPidxs p.slot p.pidxs { s with pair := { s.pair with peerSessions := others ++ [keepEpoch s.pair.peerSessions p] } }

/-- The units that a frame brings into the copy of a ring, by ring position. -/
def putUnits (size : Nat) : Nat → List Byte → Nat → List (Nat × List Byte) → List (Nat × List Byte)
  | 0, _, _, l => l
  | n + 1, b, i, l =>
    putUnits size n (b.drop 64) (i + 1) (l.filter (fun e => e.1 != i % size) ++ [(i % size, b.take 64)])

/-- Entry units of a queue of the partner. -/
def applyUnits (session qnum : Nat) (first : W32) (data : List Byte) (s : State) : State :=
  match findPeerQueue s session qnum with
  | some q =>
    let u := putUnits (2 ^ (q.sizeLog2 - 6)) (data.length / 64) data first.toNat q.units
    { s with pair := { s.pair with peerQueues := putPeerQueue { q with units := u } s.pair.peerQueues } }
  | none => s

/-- One record of the bulk copy, taken by the target (14 R435). -/
def applyBulk (r : BulkRec) (s : State) : State :=
  if s.pair.st ≠ 2 ∨ s.pair.source = true then s
  else match r with
    | .roots a b c => takeRoots a b c s
    | .quorum q l => l.foldl (fun t r => placeJournal r t) (takeQuorum q s)
    | .session p => { s with pair := { s.pair with peerSessions := s.pair.peerSessions.filter (·.slot != p.slot) ++ [p] } }
    | .queue session qnum lg pidx cidx chead tear =>
      { s with pair := { s.pair with
        peerQueues := putPeerQueue { session, qnum, sizeLog2 := lg, pidx, cidx, chead, tear } s.pair.peerQueues } }
    | .streams session qnum l =>
      { s with pair := { s.pair with peerStreams := s.pair.peerStreams ++ l.map fun t => (session, qnum, t) } }
    | .staging session qnum sid blocks =>
      { s with pair := { s.pair with peerStaging := s.pair.peerStaging ++ [(session, qnum, sid, blocks)] } }
    | .object slot o =>
      let s1 := putMirrored slot o s
      { s1 with pair := { s1.pair with
        bulkNext := max s1.pair.bulkNext (slot + 1), copied := min (s1.pair.copied + 1) (2 ^ 25 - 1) } }

/-! ### Meanings -/

/-- STATE. -/
def execState (hd : RopeHdr) (seq : Nat) (c : Change) (s : State) : Host.Outcome State Fault Refusal :=
  .next (mirrorFrame hd 1 seq (.state c) (applyChange c) s)

/-- HEAD. -/
def execHead (hd : RopeHdr) (seq session qnum : Nat) (chead : W32) (streams : List Stream) (s : State) :
    Host.Outcome State Fault Refusal :=
  .next (mirrorFrame hd 1 seq (.head session qnum chead streams) (applyHead session qnum chead streams) s)

/-- SESSION. -/
def execSession (hd : RopeHdr) (seq : Nat) (pos : SessPos) (s : State) : Host.Outcome State Fault Refusal :=
  .next (mirrorFrame hd 1 seq (.sessionPos pos) (applySession pos) s)

/-- ENTRY_UNITS. -/
def execEntryUnits (hd : RopeHdr) (seq session qnum : Nat) (first : W32) (data : List Byte) (s : State) :
    Host.Outcome State Fault Refusal :=
  .next (mirrorFrame hd 2 seq (.entryUnits session qnum first data) (applyUnits session qnum first data) s)

/-- BULK. -/
def execBulk (hd : RopeHdr) (seq : Nat) (r : BulkRec) (s : State) : Host.Outcome State Fault Refusal :=
  .next (inOrder hd 2 seq (.bulk r) (applyBulk r) s)

end Sys2Proof.Machine
end

