-- ==== Sys2Proof/Machine/Join.lean ====
section
/-! DEFINITION. Joining two devices to a pair, the end of STARTUP, and the host addresses of a device that
joins (14 R433-R437, 17 R516 step 10, 13 R386). -/

namespace Sys2Proof.Machine

/-! ### The join frames (14 R433, R434) -/

/-- PAIR_CTL.DIR; 3 acts as 0. -/
def dirOf (n : Nat) : Nat := if n = 3 then 0 else n
def ownDir (s : State) : Nat := dirOf (fld (inForce s 0x1F0010) 1 2)

/-- The payload of a cleartext frame (14 R412, R414). -/
def joinFrame (b : RopeBody) : List Byte := ropeHeader 0 0 b ++ ropeBytes b

/-- A cleartext join frame leaves on the ports that carry rope frames. -/
def sendJoin (b : RopeBody) (s : State) : State :=
  let ports := [0, 1].filter (ropeUp s)
  ports.foldl (fun t p => evcAdd (0x58 + p) 1 (bump (8 + p) 0 1 t)) (emit (.rope 0 0 b ports (joinFrame b)) s)

/-- This device's JOIN_HELLO body and nonce. -/
def ownNonce (s : State) : List Byte := s.pair.joinBytes.take 32
def ownHello (s : State) : List Byte :=
  helloBody s.life.devId (b2n (isSecond s)) (fld (inForce s 0x1F0010) 1 2) (ownNonce s)

/-- Both bodies, the lead's first. -/
def helloBodies (s : State) : List Byte :=
  let peer := match s.pair.peerHello with
    | some (d, r, n) => helloBody d r n s.pair.peerNonce
    | none => []
  if isSecond s then peer ++ ownHello s else ownHello s ++ peer

/-- The bytes of an attestation record. The spec lists its fields and gives no layout (DESIGN CHOICE, log 94). -/
def attestRecord (a : Attest) : List Byte :=
  leBytes 8 a.devId.toNat ++ leBytes 1 a.lcs ++ padTo 48 a.owner ++ padTo 48 a.policyDigest ++ a.meas
    ++ leBytes 1 (b2n a.trk) ++ leBytes 1 a.role ++ leBytes 1 a.dir ++ leBytes 2 a.member

/-- This device's attestation. -/
def ownAttestation (s : State) : Attest :=
  { devId := s.life.devId, lcs := s.life.code, owner := s.life.owner, policyDigest := s.nvm.policyDigest
    meas := (s.world.meas.take 3).flatten, trk := s.vault.trk, role := b2n (isSecond s)
    dir := fld (inForce s 0x1F0010) 1 2, member := memberId s }

/-- What the identity keys sign. -/
def attestDigest (s : State) (a : Attest) : List Byte := crypto .hash [algSha3x384] [helloBodies s ++ attestRecord a] 48

/-- JOIN_ATTEST with both identity signatures. -/
def sendAttest (s : State) : State :=
  let m := attestDigest s (ownAttestation s)
  let at_ := if isSecond s then 184 else 216
  let sig := crypto .identity [1] [idMldsa (rif s), m, sliceB s.pair.joinBytes at_ 32] 3309
    ++ crypto .identity [2] [idScalar (rif s), m, sliceB s.pair.joinBytes (at_ + 32) 120] 96
  let b := .joinAttest (attestRecord (ownAttestation s)) sig
  sendJoin b { s with pair := { s.pair with ownAttest := joinFrame b } }

/-- The bytes of the join are drawn: JOIN_HELLO leaves, and JOIN_ATTEST once the partner's hello is there. -/
def joinDrawn (b : List Byte) (s : State) : State :=
  if s.pair.st ≠ 1 then s
  else
    let s1 := { s with pair := { s.pair with joinBytes := b, helloSent := true } }
    let s2 := sendJoin (.joinHello s.life.devId (b2n (isSecond s)) (fld (inForce s 0x1F0010) 1 2) (b.take 32)) s1
    if s2.pair.peerHello.isSome then sendAttest s2 else s2

/-- Bytes that a join draws (10 R298). -/
def joinDraw (s : State) : Nat := if isSecond s then 336 else 368

/-- A join may start: PAIR_CTL.JOIN is in force, a rope port is up, and no pair or refusal stands. -/
def joinReady (s : State) : Bool :=
  joinOn s && serving s && (ropeUp s 0 || ropeUp s 1) && (s.pair.st == 0 || s.pair.st == 4 || s.pair.st == 5)

/-- The join starts with the draw for its ephemeral keys, nonces and signatures. -/
def startJoin (s : State) : State :=
  if joinReady s then
    let s1 := pairState 1 { s with pair := { s.pair with helloSent := false, attested := false, joinBytes := [] } }
    let n := joinDraw s1
    if canDrawNow s1 n then joinDrawn (s1.ent.pool.take n) (grantInternal n s1) else requestDraw .join n s1
  else s

/-- JOIN_HELLO of the partner, before pair keys exist. -/
def joinHello (devId : Word) (role dir : Nat) (nonce : List Byte) (s : State) : State :=
  if s.pair.keys || !(ropeUp s 0 || ropeUp s 1) || s.pair.st = 7 then s
  else
    let s1 := { s with pair := { s.pair with peerHello := some (devId, role, dir), peerNonce := nonce } }
    if s1.pair.st = 1 then (if s1.pair.helloSent then sendAttest s1 else s1) else startJoin s1

/-- This device holds live objects or open sessions (14 R435). -/
def holdsState (s : State) : Bool := !s.vault.objs.isEmpty || s.tol.sess.any fun p => p.2.st == 2

/-- The device is the source, or `none` where DIR conflicts. A self-fenced device joins only as target (14 R423). -/
def isSource (s : State) (a : Attest) : Option Bool :=
  let d := ownDir s
  let p := dirOf a.dir
  if (d ≠ 0 ∧ d = p) ∨ (s.pair.fencedOff = true ∧ (d = 1 ∨ p = 2)) then none
  else if s.pair.fencedOff = true then some false
  else if d = 1 ∨ p = 2 then some true
  else if d = 2 ∨ p = 1 then some false
  else if holdsState s && a.holdsState then none
  else if holdsState s then some true
  else if a.holdsState then some false
  else some (!isSecond s)

/-- The member IDs of a pair in a fabric: 2k for the lead, 2k + 1 for the second. -/
def membersOk (s : State) (a : Attest) : Bool :=
  !fabOn s || (if isSecond s then a.member % 2 == 0 && memberId s == a.member + 1
               else memberId s % 2 == 0 && a.member == memberId s + 1)

/-- Both signatures and the certificate chains of the attestation, against the owner certificate of the own route card
(14 R433). -/
def attestOk (s : State) (a : Attest) : Bool :=
  Config.cryptoOk .identity [4] [attestDigest s a, s.nvm.certs.flatten, a.certs, a.sig]

/-- PAIR_STAT.REFUSE for an attestation; 0 accepts. -/
def joinRefusal (s : State) (a : Attest) : Nat :=
  if s.life.code ≠ 4 ∨ a.lcs ≠ 4 then 1
  else if a.owner ≠ s.life.owner then 2
  else if a.policyDigest ≠ s.nvm.policyDigest then 3
  else if !attestOk s a then 4
  else if s.vault.trk || a.trk then 5
  else if a.devId.toNat ≠ inForce s 0x1F0008 ∨ inForce s 0x1F0008 = 0 then 6
  else if a.role = b2n (isSecond s) then 7
  else if isSource s a = none then 8
  else if !membersOk s a then 9 else 0

/-- The bytes of the join's P-384 key agreement. -/
def joinScalar (s : State) : List Byte := sliceB s.pair.joinBytes (if isSecond s then 64 else 96) 120

/-- JOIN_KEY of this device: the lead's encapsulation key or the second's ciphertext, and its P-384 point. -/
def sendKey (peerKem : List Byte) (s : State) : State :=
  let b := s.pair.joinBytes
  let kem := if isSecond s then (crypto .lattice [0x401, 3] [peerKem, sliceB b 32 32] 1600).take 1568
             else crypto .lattice [0x400, 3] [sliceB b 32 64] 1568
  let f := .joinKey kem (crypto .ecc [2] [joinScalar s] 97)
  sendJoin f { s with pair := { s.pair with ownKey := joinFrame f } }

/-- The six join frames, the lead's before the second's (DESIGN CHOICE, log 94). -/
def joinFrames (s : State) (peerKey : List Byte) : List Byte :=
  let own : List (List Byte) := [s.pair.ownAttest, s.pair.ownKey]
  let peer : List (List Byte) := [s.pair.peerAttest, peerKey]
  let order (a b : List (List Byte)) : List Byte := (List.zipWith (· ++ ·) a b).flatten
  let hellos := match s.pair.peerHello with
    | some (d, r, n) =>
      let o := joinFrame (.joinHello s.life.devId (b2n (isSecond s)) (fld (inForce s 0x1F0010) 1 2) (ownNonce s))
      let p := joinFrame (.joinHello d r n s.pair.peerNonce)
      if isSecond s then p ++ o else o ++ p
    | none => []
  hellos ++ (if isSecond s then order peer own else order own peer)

/-- ss of the pair: both shared secrets, bound to the transcript (14 R434). -/
def pairSecret (kem point : List Byte) (s : State) : List Byte :=
  let b := s.pair.joinBytes
  let k := if isSecond s then (crypto .lattice [0x401, 3] [kem, sliceB b 32 32] 1600).drop 1568
           else crypto .lattice [0x402, 3] [sliceB b 32 64, kem] 32
  let e := crypto .ecc [0x318, 2] [joinScalar s, point] 48
  let tr := crypto .hash [algSha3x384] [joinFrames s (joinFrame (.joinKey kem point))] 48
  kmac256 (k ++ e) tr 32 "Yalzia pair"

/-- The keys and IVs of both directions; ss is erased (14 R434). -/
def pairKeys (ss : List Byte) (s : State) : State :=
  let k (n : String) : List Byte := kmac256 ss (ascii n) 32 "Yalzia rope"
  let v (n : String) : List Byte := kmac256 ss (ascii n) 12 "Yalzia rope"
  { s with pair :=
    if isSecond s then { s.pair with keyOut := k "s2l key", ivOut := v "s2l iv", keyIn := k "l2s key", ivIn := v "l2s iv" }
    else { s.pair with keyOut := k "l2s key", ivOut := v "l2s iv", keyIn := k "s2l key", ivIn := v "s2l iv" } }

/-- JOIN_ATTEST of the partner. -/
def joinAttest (a : Attest) (s : State) : State :=
  if s.pair.st ≠ 1 ∨ s.pair.helloSent = false ∨ s.pair.peerHello = none then s
  else
    let r := joinRefusal s a
    if r ≠ 0 then pairState 7 { s with pair := { s.pair with refuse := r, peerHello := none, peerNonce := [] } }
    else
      let src := (isSource s a).getD false
      let s1 := { s with pair := { s.pair with
        attested := true, source := src, refuse := 0, peerAttest := joinFrame (.joinAttest (attestRecord a) a.sig)
        total := if src then s.vault.objs.length else a.objects } }
      if isSecond s then s1 else sendKey [] s1

/-! ### The pair key is set: synchronising (14 R435) -/

/-- Units that one ENTRY_UNITS frame of 9,000 bytes takes beside its header, tag, queue and index (14 R412). -/
def entryRun : Nat := 140

/-- The records that precede the objects: roots, quorum state, sessions and queues with their ring units, streams and
the staging that they hold. -/
def bulkHead (s : State) : State :=
  let bulk (r : BulkRec) (t : State) : State := ropeSend 2 (.bulk r) t
  let s1 := bulk (.quorum (quorumChange {} s) s.quorum.journal)
    (toldQuorum (bulk (.roots s.vault.roots s.vault.binds s.vault.seeds) s))
  let s2 := (s.tol.sess.filter fun p => p.2.st == 2).foldl
    (fun t p => bulk (.session { sessPos p.1 0 p.2 with rheads := rheadsOf s p.1, pidxs := pidxsOf s p.1 }) t) s1
  let queue (t : State) (p : Nat × Queue) : State :=
    let k := p.2
    let t1 := bulk (.queue k.session k.qnum k.sizeLog2 k.applied k.cidx k.chead (k.tearP.map fun p => (k.st == .tearing, p))) t
    (List.range (ceilDiv (dist k.applied k.rhead) entryRun)).foldl (fun u i =>
      let first := idxAdd k.rhead (entryRun * i)
      ropeSend 2 (.entryUnits k.session k.qnum first (ringRead s k first.toNat (min entryRun (dist k.applied first)))) u) t1
  let held (t : State) (x : Stream) : State :=
    match (getQueue s x.slot).filter fun q => !q.isInternal && decide (0 < x.blocks) with
    | some q => bulk (.staging q.session q.qnum x.sid x.blocks) t
    | none => t
  let streams (t : State) (p : Nat × Queue) : State := bulk (.streams p.2.session p.2.qnum p.2.headStreams) t
  let qs := s.qm.queues.filter fun p => !p.2.isInternal
  s.strm.tab.foldl held (qs.foldl streams (qs.foldl queue s2))

/-- The target ends its sessions and drops its cold store, registry and quorum state. -/
def targetClears (s : State) : State :=
  let s1 := lostRegistry (endSessions (fun _ => true) 8 0 s)
  { s1 with
    vault := emptyStore s1.vault
    quorum := { s1.quorum with props := [], journal := [], closedIds := [] } }

/-- The pair keys are set: every SEQ starts at 0 and the source begins its copy. -/
def keysSet (ss : List Byte) (s0 : State) : State :=
  let s := pairKeys ss s0
  let src := s.pair.source
  let t := if src then s else targetClears s
  let s1 := pairState 2 { t with pair := { t.pair with
    keys := true, tx := [0, 0, 0], acked := [0, 0, 0], rx := [0, 0, 0], unacked := [], bulkNext := 0, copied := 0
    leafAway := isSecond s == src, joinBytes := [], peerHello := none, peerNonce := [], handWait := false, told := {}
    port0 := { t.pair.port0 with lastAuth := t.sched.pitch, lastBeat := t.sched.pitch, silent := false, txq := [] }
    port1 := { t.pair.port1 with lastAuth := t.sched.pitch, lastBeat := t.sched.pitch, silent := false, txq := [] }
    peerQueues := [], peerSessions := [], peerStreams := [], peerStaging := [], peerBinds := [], peerMade := [] } }
  if src then bulkStep (bulkHead s1) else s1

/-- JOIN_KEY of the partner. -/
def joinKey (kem point : List Byte) (s : State) : State :=
  if s.pair.st ≠ 1 ∨ s.pair.attested = false then s
  else
    let s1 := if isSecond s then sendKey kem s else s
    keysSet (pairSecret kem point s1) s1

/-- A join frame takes effect only in cleartext, before pair keys exist (14 R414, R444). -/
def joinReceive (h : RopeHdr) (b : RopeBody) (f : State → State) (s : State) : State :=
  let r := ropeArrives h 0 b s
  if r.1 && !s.pair.keys then f r.2 else r.2

/-- The copy has been sent whole and acknowledged. -/
def copyDone (s : State) : Bool :=
  !(s.vault.objs.any fun p => decide (s.pair.bulkNext ≤ p.1)) && !(s.pair.unacked.any fun f => f.cls == 2)

/-- The join ends: paired. Addresses taken over go back to the partner, with the sessions on them; the holding of
stateful keys passes to the lead (14 R435-R437). -/
def bulkEnd (s : State) : State :=
  if s.pair.st ≠ 2 ∨ (s.pair.source = true ∧ copyDone s = false) then s
  else
    let s1 := pairState 3 { s with
      sys := { s.sys with paired := true }
      pair := { s.pair with fencedOff := false }
      board := { s.board with liveOut := true } }
    let s2 := if s1.pair.addrTaken then handoverReceived 2 [] [] s1 else s1
    if s2.pair.source && isSecond s2 then
      mirror (.leafHolder false) { s2 with pair := { s2.pair with leafAway := false } }
    else s2

/-- JOIN_WAIT_MS in pitches; 0 acts as 100 ms. -/
def joinWait (s : State) : Nat :=
  let n := fld (inForce s 0x1F0000) 16 16
  (if n = 0 then 100 else n) * 500

/-- The rope link has been silent and the live line is stopped: the device takes its addresses and runs
unpaired (14 R436). -/
def joinWaitEnds (s : State) : State :=
  let from_ := max s.pair.joinWaitFrom (max s.pair.port0.lastAuth s.pair.port1.lastAuth)
  if serving s && joinOn s && !s.pair.addrHeld && !s.sys.handedOver && !s.pair.keys && !s.pair.liveIn
      && !s.pair.fencedOff && decide (from_ + joinWait s ≤ s.sched.pitch) then holdAddresses s
  else s

/-! ### The end of STARTUP (17 R516 step 10) -/

/-- The mode after STARTUP: DEGRADED when a unit has been fenced (01 R36). -/
def afterStartup (s : State) : Mode := if s.sys.fenced = 0 then .service else .degraded

/-- The block serves hosts from now on. -/
def leaveStartup (s : State) : State :=
  if s.sys.mode ≠ .startup ∨ s.sys.bootStep ≠ 4 then s
  else
    let s1 := { s with
      sys := { s.sys with mode := afterStartup s }
      board := { s.board with liveOut := true }
      pair := { s.pair with joinWaitFrom := s.sched.pitch, addrHeld := !joinOn s } }
    startJoin s1

/-- A write of WORLD_CTL.READY: it ends a restart, and the first one ends STARTUP. -/
def ctlReady (s : State) : State :=
  if !dieOn s || s.sys.bootStep ≠ 4 then s
  else leaveStartup { s with
    sys := { s.sys with summitRestarting := false }
    world := { s.world with ready := true, everReady := true, fails := 0, swCount := 0 } }

/-! ### Meanings -/

/-- JOIN_START. -/
def execJoinStart (s : State) : Host.Outcome State Fault Refusal := .next (startJoin s)

/-- JOIN_HELLO. -/
def execJoinHello (hd : RopeHdr) (devId : Word) (role dir : Nat) (nonce : List Byte) (s : State) :
    Host.Outcome State Fault Refusal :=
  .next (joinReceive hd (.joinHello devId role dir nonce) (joinHello devId role dir nonce) s)

/-- JOIN_ATTEST. -/
def execJoinAttest (hd : RopeHdr) (att : Attest) (s : State) : Host.Outcome State Fault Refusal :=
  .next (joinReceive hd (.joinAttest (attestRecord att) att.sig) (joinAttest att) s)

/-- JOIN_KEY. -/
def execJoinKey (hd : RopeHdr) (kem point : List Byte) (s : State) : Host.Outcome State Fault Refusal :=
  .next (joinReceive hd (.joinKey kem point) (joinKey kem point) s)

/-- BULK_COPY_END. -/
def execBulkCopyEnd (s : State) : Host.Outcome State Fault Refusal := .next (bulkEnd s)

/-- JOIN_WAIT_EXPIRY. -/
def execJoinWaitExpiry (s : State) : Host.Outcome State Fault Refusal := .next (joinWaitEnds s)

/-- WORLD_CTL_READY. -/
def execWorldCtlReady (s : State) : Host.Outcome State Fault Refusal := .next (ctlReady s)

end Sys2Proof.Machine
end

