-- ==== Sys2Proof/Machine/Fabric.lean ====
section
/-! DEFINITION. YLZ-7200 fabric membership: announcements, routes, replication and relay (14 R439-R443). -/

namespace Sys2Proof.Machine

/-- A fabric port is up. -/
def fabricUp (s : State) : Bool := fabOn s && domOn s 17 && [0, 1].any fun p => usesFabric s p && (ropePort s p).up

/-- The address of a member on a port (14 R439). -/
def fabricMac (port member : Nat) : Nat := 0x02594C5B0000 + (2 * port + member / 256 % 2) * 256 + member % 256

/-- The fields of a fabric frame are those of 14 R439 and R440. -/
def fabricFits (s : State) (h : FabHdr) : Bool :=
  usesFabric s h.port && (ropePort s h.port).up && domOn s 17 && h.etherType == 0x88B6 && h.vid == fabricVid s && h.version == 2
    && (h.dst == 0xFFFFFFFFFFFF || h.dst == fabricMac h.port (memberId s))

/-- A fabric frame that fits is counted with the FEC codewords before it. -/
def heardFabric (h : FabHdr) (s : State) : State :=
  let n := 8 + h.port
  evcAdd (0x5A + h.port) 1 (bump n 3 h.fecLost (bump n 2 h.fecFixed (bump n 1 1 s)))

/-- The sealed body verifies although `flips` disturb it. -/
def fabricOpens (s : State) (h : FabHdr) (b : RopeBody) : Bool :=
  let r := fabricSeal s h.hops h.src h.member h.boot h.seq b
  h.flips.all (· == 0) ||
    (gcmOpen (fabricKey s h.src h.boot) (fabricIv h.seq) (fabricHeader h.hops h.src h.member h.boot h.seq b)
      (xorBytes r (padTo r.length h.flips))).isSome

/-- ANNOUNCE: this member's ID and the members that it reaches, at most 511. -/
def announce (s : State) : State :=
  if fabricUp s then
    let l := (s.fab.routes.map fun r => (r.1, r.2.hops)).take 511
    let ports := [0, 1].filter fun p => usesFabric s p && (ropePort s p).up
    ports.foldl (fun t p => fabricSend 0xFFFF p (.announce (memberId s) (isSecond s) l) t) s
  else s

/-- A route through a neighbour is taken when it is the neighbour's own, shorter, or as short with a lower
neighbour ID. -/
def betterRoute (old : Option Route) (via hops : Nat) : Bool :=
  match old with
  | none => true
  | some r => r.via == via || decide (hops < r.hops) || (hops == r.hops && decide (via < r.via))

/-- One destination that a neighbour announces. -/
def learnRoute (via port : Nat) (s : State) (e : Nat × Nat) : State :=
  if e.1 = memberId s ∨ 16 ≤ e.2 + 1 then s
  else if betterRoute (tget s.fab.routes e.1) via (e.2 + 1) then
    { s with fab := { s.fab with routes := tput s.fab.routes e.1 { via, port, hops := e.2 + 1, pitch := s.sched.pitch } } }
  else s

/-- The replay window of a sender takes a frame: a newer BOOT_RTC replaces the older window, an older one is
discarded (14 R440). Answers the window after the frame. -/
def fabricWindow (s : State) (src boot seq : Nat) : Option (Nat × List Nat) :=
  match tget s.fab.windows src with
  | none => some (boot, [seq])
  | some (b, l) =>
    if boot < b then none
    else if b < boot then some (boot, [seq])
    else if windowTakes l seq then some (boot, windowAdd l seq) else none

/-- A fabric frame reaches a port: it authenticates and its SEQ is new in the sender's window, or it is discarded. An
unkeyed device has no domain key and opens nothing. -/
def fabricReceive (h : FabHdr) (b : RopeBody) (s : State) : Bool × State :=
  if !fabricFits s h then (false, s)
  else
    let s1 := heardFabric h s
    if s.sys.unkeyed then (false, s1)
    else if !fabricOpens s h b then (false, bump (8 + h.port) 4 1 s1)
    else match fabricWindow s h.src h.boot h.seq with
      | none => (false, s1)
      | some w => (true, { s1 with fab := { s1.fab with windows := tput s1.fab.windows h.src w } })

/-- ANNOUNCE of a neighbour. One with this member's own ID from another device is an F1 fault and suspends
replication (14 R441). -/
def announced (h : FabHdr) (b : RopeBody) (fromSelf : Bool) (routes : List (Nat × Nat)) (s : State) : State :=
  let r := fabricReceive h b s
  if !r.1 || fromSelf then r.2
  else if h.src = memberId s then
    collect 993 1 0 { r.2 with pair := { r.2.pair with fabDup := true, fabDupPitch := s.sched.pitch } }
  else routes.foldl (learnRoute h.src h.port) (learnRoute h.src h.port r.2 (h.src, 0))

/-- The object of a replicated pack, in its slot and generation, with IMPORTED set (14 R443). -/
def replicaObj (s : State) (gen : Nat) (pack : List Byte) : Option KeyObj :=
  let o := packObj pack
  let r := openKeyPack s o.part (fun _ => true) pack
  if r.1 = stOk then some { o with mat := r.2, gen, salt := sliceB pack 88 4, policy := o.policy ||| polImported } else none

/-- Stores or removes what a member replicates, and mirrors it to the partner (14 R443). Operation 2 is a
destruction. A pack that does not open applies nothing. -/
def applyReplica (oper slot gen : Nat) (pack : Option (List Byte)) (s : State) : State :=
  if oper = 2 then
    let g := min 0xFFFFFF (gen + 1)
    bump 31 8 1 (mirror (.keyDel slot g) (emptySlot slot g s))
  else match pack.bind (replicaObj s gen) with
    | some n => bump 31 8 1 (mirror (.keyPut slot n) (putMirrored slot n s))
    | none => s

/-- REPLICATE from a member of the domain. -/
def replicateIn (h : FabHdr) (oper slot gen : Nat) (pack : Option (List Byte)) (s : State) : State :=
  let r := fabricReceive h (.replicate oper slot gen pack) s
  if r.1 then fabricSend h.src h.port (.replAck slot gen) (applyReplica oper slot gen pack r.2) else r.2

/-- REPL_ACK. -/
def replAcked (h : FabHdr) (slot gen : Nat) (s : State) : State :=
  let r := fabricReceive h (.replAck slot gen) s
  let hit (x : Repl) : Bool := x.member == h.src && x.slot == slot && x.gen == gen
  if r.1 then { r.2 with fab := { r.2.fab with repl := r.2.fab.repl.filter fun x => !hit x } } else r.2

/-- REPLICATE again after 10 ms, three times in all, then the loss is counted; nothing is sent or given up while
replication is suspended (14 R441, R443). -/
def replicateAgain (member slot : Nat) (s : State) : State :=
  let hit (r : Repl) : Bool := r.member == member && r.slot == slot && (r.oper == 2 || r.pack.isSome)
    && decide (r.pitch + 5000 ≤ s.sched.pitch)
  match s.fab.repl.find? hit with
  | none => s
  | some r =>
    if s.pair.fabDup then s
    else if r.tries < 3 then replicateSend r s
    else bump 31 9 1 { s with fab := { s.fab with repl := s.fab.repl.filter fun x => x != r } }

/-! ### Meanings -/

/-- ANNOUNCE_TIMER. -/
def execAnnounceTimer (s : State) : Host.Outcome State Fault Refusal := .next (announce s)

/-- ANNOUNCE. -/
def execAnnounce (hd : FabHdr) (second fromSelf : Bool) (routes : List (Nat × Nat)) (s : State) :
    Host.Outcome State Fault Refusal :=
  .next (announced hd (.announce hd.src second routes) fromSelf routes s)

/-- ROUTE_EXPIRY: 350 ms after the last ANNOUNCE that supports the route. -/
def execRouteExpiry (dst : Nat) (s : State) : Host.Outcome State Fault Refusal :=
  .next (
    match tget s.fab.routes dst with
    | some r =>
      if r.pitch + 175000 ≤ s.sched.pitch then { s with fab := { s.fab with routes := tdel s.fab.routes dst } } else s
    | none => s)

/-- FAB_DUP_CLEAR: no ANNOUNCE with the own ID for 1 s. -/
def execFabDupClear (s : State) : Host.Outcome State Fault Refusal :=
  .next (
    if s.pair.fabDup && decide (s.pair.fabDupPitch + second ≤ s.sched.pitch) then
      { s with pair := { s.pair with fabDup := false } }
    else s)

/-- REPLICATE. -/
def execReplicate (hd : FabHdr) (oper slot gen : Nat) (pack : Option (List Byte)) (s : State) :
    Host.Outcome State Fault Refusal :=
  .next (replicateIn hd oper slot gen pack s)

/-- REPL_ACK. -/
def execReplAck (hd : FabHdr) (slot gen : Nat) (s : State) : Host.Outcome State Fault Refusal :=
  .next (replAcked hd slot gen s)

/-- REPLICATE_RETRY. -/
def execReplicateRetry (member slot : Nat) (s : State) : Host.Outcome State Fault Refusal :=
  .next (replicateAgain member slot s)

/-- FABRIC_RELAY: a frame for another member goes to the next hop with HOPS raised; at HOPS 16 it is
discarded. -/
def execFabricRelay (hd : FabHdr) (s : State) : Host.Outcome State Fault Refusal :=
  .next (
    if !fabricFits s hd then s
    else
      let s1 := heardFabric hd s
      match tget s.fab.routes hd.member with
      | some r =>
        if hd.member ≠ memberId s ∧ hd.hops < 16 then
          bump (8 + r.port) 7 1 (evcAdd (0x58 + r.port) 1 (bump (8 + r.port) 0 1
            (emit (.fabricRelay hd.member r.via (hd.hops + 1) r.port) s1)))
        else s1
      | none => s1)

end Sys2Proof.Machine
end

