-- ==== Sys2Proof/Machine/Tenant.lean ====
section
/-! DEFINITION. Tenant function calls through inboxes, and the internal queues of tenant functions (13
R389-R394, 04 R147). -/

namespace Sys2Proof.Machine

/-! ### Inboxes (13 R390, R391) -/

/-- Units of an inbox. -/
def TenantFn.units (t : TenantFn) : Nat := 2 ^ (t.inboxLog2 - 6)

/-- Units that no call holds. -/
def TenantFn.room (t : TenantFn) : Nat := t.units - dist t.pidx t.free

/-- Address of an inbox unit. -/
def TenantFn.unitAt (t : TenantFn) (i : Nat) : Nat := t.addr + i % t.units * 64

/-- Addresses of `n` units from unit `i` on. -/
def TenantFn.span (t : TenantFn) (i n : Nat) : List Nat := (List.range n).map fun k => t.unitAt (i + k)

/-- The function in a slot. -/
def getFn (s : State) (n : Nat) : Option TenantFn := tget s.world.tfs n

def setFn (n : Nat) (t : TenantFn) (s : State) : State :=
  { s with world := { s.world with tfs := tput s.world.tfs n t } }

/-- Writes bytes from unit `i` of an inbox on, across its end. -/
def inboxPut (t : TenantFn) (m : List Host.Cell) : Nat → Nat → List Byte → List Host.Cell
  | 0, _, _ => m
  | fuel + 1, i, b =>
    if b.isEmpty then m else inboxPut t (writeBytes m (t.unitAt i) (b.take 64)) fuel (i + 1) (b.drop 64)

/-- Reads `n` units from unit `i` on. -/
def inboxGet (s : State) (t : TenantFn) : Nat → Nat → List Byte
  | _, 0 => []
  | i, n + 1 => readMem s (t.unitAt i) 64 ++ inboxGet s t (i + 1) n

/-- FREE advances over calls that are done, in order. -/
def advanceFree (n : Nat) (t : TenantFn) : List Call → W32 × List Call
  | [] => (t.free, [])
  | c :: rest =>
    if c.tf = n then
      if c.done then
        let r := advanceFree n { t with free := idxAdd c.unit c.units } rest
        (r.1, r.2)
      else (t.free, c :: rest)
    else
      let r := advanceFree n t rest
      (r.1, c :: r.2)

/-- A call is over: its units are freed as soon as those before it are. -/
def endCall (c : Call) (s : State) : State :=
  let mark (x : Call) : Call := if x.tf = c.tf ∧ x.unit = c.unit then { x with done := true } else x
  let l := s.world.calls.map mark
  match getFn s c.tf with
  | none => { s with world := { s.world with calls := l } }
  | some t =>
    let r := advanceFree c.tf t l
    let s1 := { s with world := { s.world with calls := r.2 } }
    setFn c.tf { t with free := r.1 } s1

/-- The job of a call, while it is still the one that made it. -/
def callJob (s : State) (c : Call) : Option Job :=
  (getJob s c.ctx).filter fun j => j.order == c.order && j.phase == .running && j.result.isNone

/-- The entry is written into the inbox, PIDX advances and the tenant line is raised. -/
def placeCall (ctx n : Nat) (t : TenantFn) (q : Queue) (j : Job) (s : State) : State :=
  let u := callUnits j.hdr
  let bytes := ringRead s q j.entry.toNat j.hdr.lenUnits
  let io := engineBursts 8 .write (t.span t.pidx.toNat j.hdr.lenUnits) (some ctx) s
  if io.1 then
    let c : Call := { tf := n, unit := t.pidx, units := u, ctx := ctx, order := j.order, due := s.sched.pitch + 500 * t.limitMs }
    let s1 := setFn n { t with pidx := idxAdd t.pidx u } { io.2 with mem := if hbmDown s t.addr then io.2.mem else inboxPut t io.2.mem u t.pidx.toNat bytes }
    let s2 := setJob ctx (beginAdmin j s) { s1 with world := { s1.world with calls := s1.world.calls ++ [c] } }
    raise t.line s2
  else io.2

/-- TENANT_FUNCTION_CALL: a call waits until the inbox has room for it. -/
def execTenantFunctionCall (ctx : Nat) (s : State) : Host.Outcome State Fault Refusal :=
  .next (
    match (getJob s ctx).filter fun j => j.phase == .ready && unitClass j.hdr == .tenant && serving s && slotTurn s j with
    | none => s
    | some j => match calledFn s j.hdr, getQueue s j.slot with
      | some (n, t), some q => if callUnits j.hdr ≤ t.room then placeCall ctx n t q j s else s
      | _, _ => s)

/-- What the device releases for a result payload that a function wrote. -/
def callResult (j : Job) (b : List Byte) : Res :=
  let st := leAt b 8 2
  let n := leAt b 12 4
  if j.hdr.outMax < n then { status := stBadParam }
  else if st = stOk then { status := stOk, out := sliceB b 16 n }
  else { status := if [stBadLength, stBadParam, stAuthFail, stVerifyFail].contains st then st else stBadParam }

/-- WORLD_TF_DONE sets TF_REJ. -/
def rejectDone (s : State) : State := { s with world := { s.world with tfRej := true } }

/-- While the ACU of the inbox changes its rules, the read of the result waits, and the write is taken up again
when the new rules bind (13 R405; DESIGN CHOICE, log 105). -/
def deferDone (core tf : Nat) (unit : W32) (s : State) : State :=
  let w : Access := { master := core, addr := 0x1121018, len := 8, kind := .write, data := leBytes 8 (tf + 2 ^ 32 * unit.toNat) }
  { s with acu := { s.acu with waiting := s.acu.waiting ++ [w] } }

/-- A write of WORLD_TF_DONE by a core: wten must name the function, and the call must not have reached its
limit. -/
def tfDone (core tf : Nat) (unit : W32) (s : State) : State :=
  let w := (getCore s core).wten.toNat
  if core ≥ 8 ∨ bitAt w 8 = false ∨ fld w 0 8 ≠ tf then rejectDone s
  else match s.world.calls.find? fun c => c.tf == tf && c.unit == unit && !c.done && decide (s.sched.pitch < c.due) with
    | none => rejectDone s
    | some c => match callJob s c, getFn s tf with
      | some j, some t =>
        if (t.span c.unit.toNat c.units).any (portWaits s) then deferDone core tf unit s
        else
        let io := engineBursts 8 .read (t.span c.unit.toNat c.units) (some c.ctx) s
        let s1 := endCall c io.2
        if io.1 then stageDone c.ctx j (callResult j (inboxGet s t c.unit.toNat c.units)) s1 else s1
      | _, _ => endCall c s

/-- WORLD_TF_DONE. -/
def execWorldTfDone (core tf : Nat) (unit : W32) (s : State) : Host.Outcome State Fault Refusal :=
  .next (tfDone core tf unit s)

/-- TENANT_FUNCTION_TIMEOUT: the time limit of the call has passed. -/
def execTenantFunctionTimeout (ctx : Nat) (s : State) : Host.Outcome State Fault Refusal :=
  .next (
    match s.world.calls.find? fun c => c.ctx == ctx && !c.done && decide (c.due ≤ s.sched.pitch) with
    | none => s
    | some c =>
      let s1 := endCall c s
      match callJob s c with
      | some j => refuseJob ctx j stUnitUnavailable (nextBoundary s) s1
      | none => s1)

/-! ### Internal queues (04 R147, 13 R392, R393) -/

/-- A move of PIDX obeys 04 R130 with UNITS = 0. -/
def pidxOk (q : Queue) (p : W32) : Bool :=
  decide (dist q.applied q.chead ≤ dist p q.chead) && decide (dist p q.chead ≤ q.units)

/-- The core may move the PIDX of a queue: any in the summit world, its own function's in the base world. -/
def ipidxAllowed (s : State) (core : Option Nat) (q : Queue) : Bool :=
  match core with
  | none => true
  | some c =>
    let r := getCore s c
    !r.base || (bitAt r.wten.toNat 8 && fld r.wten.toNat 0 8 == q.session)

/-- A write of QM_IPIDX. A queue that is being destroyed discards it (04 R144). -/
def ipidxWrite (core : Option Nat) (slot : Nat) (p : W32) (s : State) : State :=
  match (getQueue s slot).filter fun q => q.isInternal && ipidxAllowed s core q && pidxOk q p with
  | none => { s with qm := { s.qm with ipidxRej := true } }
  | some q =>
    if q.st = .tearing then s
    else setQueue slot { q with applied := p, visible := p } s

/-- QM_IPIDX. -/
def execQmIpidx (core : Option Nat) (slot : Nat) (newPidx : W32) (s : State) : Host.Outcome State Fault Refusal :=
  .next (ipidxWrite core slot newPidx s)

/-- WORLD_IQ_RES of a command that has ended. -/
def iqEnd (status slot : Nat) (s : State) : State :=
  { s with world := { s.world with iqBusy := false, iqDone := true, iqStatus := status, iqSlot := slot } }

/-- WORLD_IQ_CMD create: the ring at WORLD_IQ_ADDR, the head record at WORLD_IQ_HEAD. -/
def iqCreate (lg tf : Nat) (s : State) : State :=
  let a := rw s 0x120070
  let n := 2 ^ lg
  let ok := decide (12 ≤ lg ∧ lg ≤ 24) && decide (arenaBase ≤ a) && a % n == 0 && blockFree (ringsUsed s) a n
  if s.world.iqBusy then s
  else match getFn s tf, freeQueueSlot s with
    | none, _ => iqEnd 2 0 s
    | some t, slot =>
      if !ok then iqEnd 2 0 s
      else match slot with
        | none => iqEnd 1 0 s
        | some k =>
          iqEnd 0 k (setQueue k {
            isInternal := true, sizeLog2 := lg, session := tf, part := t.part, base := a
            headAddr := fld (rw s 0x120078) 6 42 * 64 } s)

/-- WORLD_IQ_CMD reset (1) or destroy (2): the teardown of 04 R142 ends the command. -/
def iqTear (kind slot : Nat) (s : State) : State :=
  if s.world.iqBusy then s
  else match (getQueue s slot).filter fun q => q.isInternal with
    | none => iqEnd 2 slot s
    | some q =>
      if q.st ≠ .active ∨ q.tearAsk ≠ 0 then iqEnd 1 slot s
      else
        let s1 := setQueue slot { q with tearAsk := kind } s
        { s1 with world := { s1.world with iqBusy := true, iqSlot := slot } }

/-- WORLD_IQ_CREATE. -/
def execWorldIqCreate (sizeLog2 tf : Nat) (s : State) : Host.Outcome State Fault Refusal := .next (iqCreate sizeLog2 tf s)

/-- WORLD_IQ_RESET. -/
def execWorldIqReset (slot : Nat) (s : State) : Host.Outcome State Fault Refusal := .next (iqTear 1 slot s)

/-- WORLD_IQ_DESTROY. -/
def execWorldIqDestroy (slot : Nat) (s : State) : Host.Outcome State Fault Refusal := .next (iqTear 2 slot s)

end Sys2Proof.Machine
end

