-- ==== Sys2Proof/Machine/CsrRead.lean ====
section
/-! DEFINITION. The values that control and status registers read as (00 R12-R16, 19 R555 and the register
sections of 01 to 18). -/

namespace Sys2Proof.Machine

/-! ### The register index (19 R555) -/

/-- The registers marked 64-only. -/
def only64 (off : Nat) : Bool :=
  [0x10018, 0x10038, 0x20008, 0x20020, 0x20028, 0x20038, 0x20048, 0x30010, 0x30028, 0x30030,
   0x80008, 0x90008, 0xA0020, 0xB0010, 0xC0008, 0xC0020, 0xD0020, 0xE0008, 0xE0010, 0xE0048, 0xE0050, 0xE0058,
   0xF0050, 0x100018, 0x100028, 0x100030, 0x100040, 0x113A08, 0x120028, 0x120048, 0x120060, 0x121018,
   0x130120, 0x140008, 0x170048, 0x190008, 0x1B0010, 0x1E0010, 0x1F0058].contains off
    || (decide (0x40000 ≤ off ∧ off < 0x80000) && [0x10, 0x30, 0x38].contains (off % 0x10000))

/-- Writable bits of the registers that are plain RW fields and nothing else, with the selection registers. -/
def rwBits (off : Nat) : Option Nat :=
  match off with
  | 0x10010 => some 0xFFFFFFFF
  | 0x10018 => some 0xFF
  | 0x10038 => some 0xFF0FFF
  | 0x20008 => some 0x7FF
  | 0x20048 => some 7
  | 0x30000 => some 0x00FFFFFFFFFFFFFF
  | 0x30010 => some 0x1FF
  | 0x30030 => some 0xF
  | 0x40010 | 0x50010 | 0x60010 | 0x70010 => some 7
  | 0x40038 | 0x50038 | 0x60038 | 0x70038 => some 0xF
  | 0x80008 | 0x90008 => some 0xF
  | 0xA0020 => some 0xF
  | 0xB0010 => some 0x1F
  | 0xC0008 => some 3
  | 0xC0020 => some 0xF
  | 0xD0020 => some 0x1F
  | 0xE0010 => some 0xF
  | 0xE0058 => some 0xF
  | 0xF0050 => some 0xF
  | 0x100018 => some 0x3F
  | 0x100040 => some 7
  | 0x120010 => some 0x1FFFFFFFF
  | 0x120028 => some 0x7F
  | 0x120048 => some 0xFF
  | 0x120070 => some 0xFFFFFFFFFFFF
  | 0x120078 => some 0xFFFFFFFFFFC0
  | 0x130120 => some 0x3F
  | 0x140008 => some 0x1FFF
  | 0x150028 => some 0xF
  | 0x190008 => some 0x1F
  | 0x1A0100 | 0x1A0108 | 0x1A0110 | 0x1A0118 | 0x1A0120 | 0x1A0128 => some 0x1FFF1FFF1FFF1FFF
  | 0x1B0010 => some 7
  | 0x1E0000 => some 0x1FFF
  | 0x1E0010 => some 0x7F
  | 0x1F0058 => some 0xF
  | n => if 0x160100 ≤ n ∧ n < 0x160200 ∧ n % 8 = 0 then some 0x3FF else none

/-- CNT_VAL registers: the block of the counters and the selection register. -/
def cntVal (off : Nat) : Option (Nat × Nat) :=
  match off with
  | 0x20050 => some (2, 0x20048)
  | 0x30038 => some (3, 0x30030)
  | 0x40040 => some (4, 0x40038)
  | 0x50040 => some (5, 0x50038)
  | 0x60040 => some (6, 0x60038)
  | 0x70040 => some (7, 0x70038)
  | 0x80010 => some (8, 0x80008)
  | 0x90010 => some (9, 0x90008)
  | 0xA0028 => some (10, 0xA0020)
  | 0xB0018 => some (11, 0xB0010)
  | 0xC0028 => some (12, 0xC0020)
  | 0xD0028 => some (13, 0xD0020)
  | 0xE0060 => some (14, 0xE0058)
  | 0xF0058 => some (15, 0xF0050)
  | 0x100048 => some (16, 0x100040)
  | 0x130128 => some (19, 0x130120)
  | 0x1B0018 => some (27, 0x1B0010)
  | 0x1F0060 => some (31, 0x1F0058)
  | _ => none


/-- A flag at a bit. -/
def bitF (n : Nat) (b : Bool) : Nat := putF (b2n b) n 1

/-! ### SYSCTL, PITCH, QMGR (01 R41, R42, 02 R64-R69, 04 R148-R151) -/

def sysctlId : Nat := 0x9640 + Config.stepping.toNat * 0x10000

def sysctlMode (s : State) : Nat :=
  sumF [s.sys.mode.code, bitF 3 s.sys.unkeyed, bitF 4 s.sys.paired, bitF 5 s.sys.summitRestarting,
        bitF 6 s.sys.handedOver, putF s.sys.fenced 16 8]

/-- Queues with a fetchable entry and no context granted. A queue past its wait limit whose entry is only partly published,
and a queue that is no admin queue while MAINT_ENTER is pending, are not counted (DESIGN CHOICE, log 119). -/
def queuesWaiting (s : State) : Nat := (s.qm.queues.filter fun p => fetchable_ s (s.sched.pitch + 1) p.1 p.2).length

/-- PITCH_QVAL of the selection. -/
def qval (sel : Nat) : Nat :=
  match qform (fld sel 0 12) (fld sel 16 8) with
  | none => 0
  | some f => sumF [putF f.base 0 16, putF f.stepLog2 16 5, bitF 21 f.stepOut, putF f.mirror 24 4, bitF 28 f.unquoted, bitF 29 true]

def pitchRead (s : State) (o : Nat) : Nat :=
  match o with
  | 0x00 => s.sched.pitch % 2 ^ 64
  | 0x08 => putF (ctxInUse s) 0 13 + putF (queuesWaiting s) 16 11
  | 0x20 =>
    let p := rw s 0x10018
    putF (tgetD s.sched.pcaps p 4096) 0 13 + putF (partInUse s p) 16 13
  | 0x28 => putF s.sched.overruns 0 32
  | 0x30 => sumF [bitF 0 s.sched.scrubBehind, bitF 1 (s.pair.st == 2), bitF 2 s.sched.compact, putF s.sched.scrubPasses 16 32]
  | 0x40 => qval (rw s 0x10038)
  | _ => 0

/-- log2 of the largest aligned block that is free; 0 before the arena is initialised. -/
def largestLog2 (s : State) : Nat :=
  if s.qm.arena then
    ((List.range' 12 13).filter fun k => (allocRing s k).isSome).foldl max 0
  else 0

def freeMib (s : State) : Nat := (2016 * 1048576 - ((ringsUsed s).map fun r => r.2).foldl (· + ·) 0) / 1048576

/-- QM_STAT. TEARDOWN counts every queue that is tearing down, admin queues too (DESIGN CHOICE, log 120). -/
def qmStat (s : State) : Nat :=
  let n (p : Queue → Bool) : Nat := (s.qm.queues.filter fun e => p e.2).length
  sumF [putF (n fun q => !q.admin) 0 11, putF (n fun q => q.admin) 16 10, putF (n fun q => q.st != .active) 32 11,
        putF (freeMib s) 48 11, putF (largestLog2 s) 59 5]

def qmRead (s : State) (o : Nat) : Nat :=
  let slot := rw s 0x20008
  let q := getQueue s slot
  match o with
  | 0x00 => qmStat s
  | 0x10 => match q with
    | none => 0
    | some q => sumF [putF q.st.code 0 3, bitF 3 q.admin, bitF 4 q.isInternal, putF q.sizeLog2 8 5,
        putF (if q.isInternal then 0 else q.qnum) 16 16, putF (if q.isInternal then 0 else q.session) 32 9, putF q.part 48 8]
  | 0x18 => putF ((q.map fun q => q.base).getD 0) 0 48
  | 0x20 => match q with
    | none => 0
    | some q => putF q.applied.toNat 0 32 + putF q.visible.toNat 32 32
  | 0x28 => match q with
    | none => 0
    | some q => putF q.cidx.toNat 0 32 + putF q.chead.toNat 32 32
  | 0x30 => putF (inflight s slot) 0 13 + bitF 13 ((jobsOf s slot).any (fun p => p.2.phase == .fetchWait) || q.any fun q => q.lateRefuse)
  | 0x40 => b2n s.qm.ipidxRej
  | _ => 0

/-! ### TOLYR, ETH, ROPE (03 R119-R124, 14 R445) -/

def openSessions (s : State) (p : Sess → Bool) : Nat := (s.tol.sess.filter fun e => e.2.st == 2 && p e.2).length

def halfOpen (s : State) : Nat := ((List.range 4).map fun p => (getEth s p).hs.length).foldl (· + ·) 0

def tolRead (s : State) (o : Nat) : Nat :=
  let x := tget s.tol.sess (rw s 0x30010)
  match o with
  | 0x08 => sumF [putF (openSessions s fun _ => true) 0 10, putF (halfOpen s) 16 8, bitF 24 s.vault.trk]
  | 0x18 => match x with
    | none => 0
    | some x => sumF [putF x.sid 0 32, putF x.port 32 2, putF x.st 34 2, bitF 36 x.taken, bitF 37 x.deviceLevel,
        putF (if x.deviceLevel then 0 else x.part) 40 8, putF x.txEpoch.toNat 48 16]
  | 0x20 => match x with
    | none => 0
    | some x => putF x.txSeq 0 32 + putF x.rxSeq 32 32
  | _ => 0

/-- RS-FEC is in use in a mode (03 R70). -/
def fecActive (e : Eth) : Bool :=
  e.up && (decide (4 ≤ e.activeMode) || (e.activeMode == 2 && !bitAt e.cfg.toNat 10))

/-- An address table word as written; the MTU resets to 1,500. -/
def addrWord (e : Eth) (k : Nat) : Nat := (tgetD e.addrSet k (if k = 12 then 1500 else 0)).toNat

def ethRead (s : State) (p o : Nat) : Nat :=
  let e := getEth s p
  let i := rw s (ethBlk p + 0x10)
  match o with
  | 0x00 => rw s (ethBlk p)
  | 0x08 => sumF [bitF 0 e.up, putF e.activeMode 1 4, bitF 5 e.anDone, bitF 6 (fecActive e), bitF 7 (e.up && e.macsec),
      bitF 8 e.dadFail, bitF 9 e.taken, putF (openSessions s fun x => x.port == p) 16 8, putF e.hs.length 24 8]
  | 0x18 => addrWord e (2 * i)
  | 0x20 => addrWord e (2 * i + 1)
  | 0x28 => rw s (ethBlk p + 0x28) + bitF 6 e.instErr
  | _ => 0

def ropeStat (s : State) (p : Nat) : Nat :=
  let r := ropePort s p
  let use := if usesFabric s p then 2 else if (joinOn s || paired s) && usesRope s p then 1 else 0
  sumF [bitF 0 r.up, bitF 1 (portSilent s p), putF use 2 2, putF (min 65535 r.rtt) 16 16]

/-! ### Units: SYM, HASH, PKE, LAT and the key engine (06 R205-R206, 07 R225, 08 R249-R250, 09 R278-R280) -/

/-- STATE of a unit; a unit whose domain shuts down drains and scrubs with it (06 R204). -/
def unitCode (s : State) (u : Nat) : Nat :=
  let r := unitRec s u
  if r.st != .inService || unitDomOn s u then r.st.code
  else match unitDomain u with
    | none => 1
    | some d => match (domRec s d).st with
      | 2 => 2
      | 3 => 3
      | _ => 0

/-- The STATE and PENDING fields of `n` units from unit `u` on. -/
def unitStats (s : State) (u n : Nat) : Nat :=
  sumF ((List.range n).map fun i => putF (unitCode s (u + i)) (4 * i) 3 + bitF (4 * i + 3) (unitRec s (u + i)).pendingEn)

/-- The EN field of `n` units from unit `u` on. -/
def unitEnables (s : State) (u n : Nat) : Nat := bitsOf n fun i => (unitRec s (u + i)).en

/-- Stateful keys that this device holds, and sign jobs that wait for their leaf's mirror. -/
def latSt (s : State) : Nat :=
  let keys := if leafHolder s then (s.vault.objs.filter fun p => (p.2.fam == 14 || p.2.fam == 15) && p.2.cls == 6).length else 0
  let waits := (s.sched.jobs.filter fun p => p.2.phase == .ready && isLeafOp p.2.hdr.opcode && p.2.leaf.isSome && (!acked s 1 p.2.ackNeed || catchingUp s p.2)).length
  putF keys 0 25 + putF waits 32 13

/-- Streams that hold staging; one closed by its last entry is none, though its blocks wait for the host (DESIGN
CHOICE, log 101). -/
def stagedStreams (s : State) : Nat := (s.strm.tab.filter fun t => decide (0 < t.blocks)).length

def engineRead (s : State) (blkNo o : Nat) : Nat :=
  match blkNo, o with
  | 0xA, 0x00 => unitEnables s 0 4
  | 0xA, 0x08 => unitStats s 0 4
  | 0xA, 0x10 =>
    let r := s.flt.symRec
    sumF [putF r.1 0 2, bitF 2 r.2.1, putF r.2.2.1 8 8, putF r.2.2.2 16 48]
  | 0xA, 0x18 => putF (blocksUsed s) 0 17 + putF (stagedStreams s) 32 14
  | 0xB, 0x00 => unitEnables s 4 16
  | 0xB, 0x08 => unitStats s 4 16
  | 0xC, 0x00 => unitEnables s 20 64
  | 0xC, 0x10 => unitStats s (20 + 16 * rw s 0xC0008) 16
  | 0xC, 0x18 =>
    let r := s.flt.pkeRec
    sumF [putF r.1 0 6, bitF 6 r.2.1, putF r.2.2.1 8 8, putF r.2.2.2 16 48]
  | 0xD, 0x00 => unitEnables s 84 16
  | 0xD, 0x08 => unitStats s 84 16
  | 0xD, 0x10 =>
    let r := s.flt.latRec
    sumF [putF r.1 0 4, bitF 4 r.2.1, bitF 5 s.flt.latKind, putF r.2.2.1 8 8, putF r.2.2.2 16 48]
  | 0xD, 0x18 => latSt s
  | _, _ => 0

/-! ### ENT (10 R303-R307) -/

/-- ENT_EST1 of the selected bank as it stands. -/
def est1 (s : State) : Nat :=
  let k := getBank s (rw s 0xE0010)
  putF (nthD k.corr 3 0).toNat 0 16 + putF k.windows 32 32

/-- ENT_COND.STATE of a conditioner. -/
def condCode (s : State) (c : Nat) : Nat :=
  match (unitRec s (108 + c)).st with
  | .inKat => 2
  | .fenced => 3
  | .inService => b2n (domOn s 14)
  | _ => 0

def entRead (s : State) (o : Nat) : Nat :=
  let k := getBank s (rw s 0xE0010)
  match o with
  | 0x00 => sumF [bitF 0 (!s.ent.fifo.isEmpty), bitF 1 s.ent.emptyRd, bitF 2 s.ent.isOpen, bitF 3 s.ent.stopped,
      putF (healthyBanks s) 8 5, putF (bitsOf 4 fun c => inService s (108 + c)) 16 4, putF s.ent.fifo.length 24 7,
      putF (s.ent.pool.length / 32) 32 11]
  | 0x18 => sumF [putF k.st 0 3, putF k.cause 4 4, putF k.cell 8 6, putF k.pitch 16 48]
  | 0x20 => sumF [k.bias.toNat, putF (nthD k.corr 0 0).toNat 16 16, putF (nthD k.corr 1 0).toNat 32 16, putF (nthD k.corr 2 0).toNat 48 16]
  | 0x28 => (s.ent.est1Held.map fun w => w.toNat).getD (est1 s)
  | 0x30 =>
    let t := entThr s
    sumF [putF t.1 0 8, putF t.2.1 16 10, putF t.2.2.1 32 16, putF t.2.2.2 48 16]
  | 0x38 => sumF ((List.range 4).map fun c => putF (condCode s c) (4 * c) 2)
  | 0x40 => sumF [putF s.ent.katCond 0 2, bitF 3 s.ent.katBusy, bitF 4 s.ent.katDone, bitF 5 s.ent.katErr]
  | _ => 0

/-! ### VAULT and QUORUM (11 R343-R347, 12 R370) -/

def vaultRead (s : State) (o : Nat) : Nat :=
  let v := s.vault
  let seeds (m : Nat) : Nat := bitsOf 64 fun i => (tget v.seeds (64 * m + i)).isSome
  match o with
  | 0x00 => putF (hotUsed v v.hot) 0 18 + putF v.objs.length 32 25
  | 0x08 => putF (granulesHeld v) 0 27
  | 0x10 => sumF [bitF 0 v.trk, bitF 1 s.sys.unkeyed, bitF 2 v.pufOk, bitF 3 (tget v.roots 0).isSome, putF v.lcs 8 4,
      if v.trk || (tget v.roots 0).isSome then putF (leNat ((domainId s).take 4)) 32 32 else 0]
  | 0x18 => bitsOf 64 fun n => (tget v.roots n).isSome
  | 0x20 => seeds 0
  | 0x28 => seeds 1
  | 0x30 => seeds 2
  | 0x38 => seeds 3
  | 0x40 => unitEnables s 100 8
  | 0x48 => unitStats s 100 8
  | 0x60 => sumF [putF v.lostSlot 0 24, bitF 24 v.lostValid, bitF 25 v.lostOvf, bitF 26 v.lostKind]
  | _ => 0

def quorumRead (s : State) (o : Nat) : Nat :=
  let n (st : Nat) : Nat := (s.quorum.props.filter fun p => p.2.state == st).length
  match o with
  | 0x10 => sumF [putF (n 1) 0 7, putF (n 2) 8 7, putF (min (2 ^ 32 - 1) s.quorum.journalSeq) 16 32]
  | 0x20 => match tget s.quorum.props (rw s 0x100018) with
    | none => 0
    | some p => sumF [putF p.id 0 32, putF p.state 32 3, putF p.kind 35 1, putF p.cls 36 4, putF p.m 40 4,
        putF p.approvers.length 44 6, putF p.part 56 8]
  | 0x38 => putF (if s.acu.commit.isSome then 4 else if 0 < s.quorum.cmtWait then 0 else s.quorum.cmtResult) 1 3
  | _ => 0

/-! ### ACU and WORLD (13 R409, R410) -/

/-- ACU `n` has an enabled region that acts as disabled. -/
def cfgErr (s : State) (n : Nat) : Bool := (List.range 32).any fun r => (region s n r).bad n

def acuRead (s : State) (o : Nat) : Nat :=
  if o = 0x3A00 then bitsOf 14 (cfgErr s) + bitF 16 s.acu.bootDone
  else if 0x3800 ≤ o ∧ o < 0x3800 + 14 * 0x20 then
    let r := acuRec s ((o - 0x3800) / 0x20)
    match (o - 0x3800) % 0x20 with
    | 0x00 => putF r.synAddr 0 48
    | 0x08 => sumF [bitF 0 r.synValid, bitF 1 r.synOvf, putF r.synMaster 2 6, putF r.synWorld 8 2, putF r.synRegion 10 6,
        putF r.synKind 16 2, putF r.synCount 32 32]
    | 0x10 => sumF [bitF 0 r.noteValid, bitF 1 r.noteOvf, putF r.noteMaster 2 6, putF r.noteRegion 8 6, putF r.noteCount 32 32]
    | 0x18 => putF r.epoch 0 32 + bitF 32 r.wait
    | _ => 0
  else 0

def worldRead (s : State) (o : Nat) : Nat :=
  let w := s.world
  match o with
  | 0x00 => b2n w.ready
  | 0x08 => sumF [bitsOf 8 fun c => (getCore s c).base, putF (bitsOf 8 fun c => (getCore s c).parked) 8 8,
      bitF 16 s.sys.summitRestarting, bitF 17 w.tfRej, putF w.trigger 18 2, putF w.fails 20 2, putF w.restarts 32 16]
  | 0x20 => rw s 0x120020 + bitF 33 w.bwExpired
  | 0x30 =>
    let i := irqOf s (rw s 0x120028)
    sumF [bitF 0 i.en, bitF 1 i.base, putF i.cores.toNat 4 8, putF i.prio 12 4, bitF 16 i.pend, bitF 17 i.claimed]
  | 0x50 => match getFn s (rw s 0x120048) with
    | none => 0
    | some t => sumF [1, putF t.part 8 8, putF t.func 16 8, putF t.line 24 7, putF t.inboxLog2 32 5, putF t.limitMs 40 14]
  | 0x58 => putF (((getFn s (rw s 0x120048)).map fun t => t.addr).getD 0) 0 48
  | 0x60 => match getFn s (rw s 0x120048) with
    | none => 0
    | some t => putF t.pidx.toNat 0 32 + putF t.free.toNat 32 32
  | 0x68 => rw s 0x120068
  | 0x80 => sumF [bitF 0 w.iqBusy, bitF 1 w.iqDone, putF w.iqStatus 2 2, putF w.iqSlot 16 11]
  | _ =>
    if 0x100 ≤ o ∧ o < 0x1C0 then leAt (nthD w.meas ((o - 0x100) / 0x30) []) ((o - 0x100) % 0x30) 8 else 0

/-! ### TAMPER, CAIRN, FAULT, EVCNT (15 R474, R476, 16 R494, R495) -/

def tamperRead (s : State) (o : Nat) : Nat :=
  let t := s.tam
  match o with
  | 0x100 => sumF [t.active.toNat, putF t.levelMax 32 3, bitF 35 (floorOn s)]
  | 0x108 => t.evt.toNat
  | 0x110 => sumF [putF t.firstSrc 0 5, bitF 8 t.firstValid, putF t.firstPitch 16 48]
  | 0x118 => t.rtc % 2 ^ 48
  | _ => 0

def cairnRegRead (s : State) (o : Nat) : Nat :=
  match o with
  | 0x00 => cairnStat s
  | 0x10 => cairnRec s (rw s 0x140008) % 2 ^ 64
  | 0x18 => cairnRec s (rw s 0x140008) / 2 ^ 64
  | 0x20 => putF s.cairn.lost 0 32
  | 0x28 => sumF [putF s.cairn.buf.length 0 5, bitF 5 ((s.cairn.buf.head?.map fun e => e.target.isSome).getD false), putF s.cairn.ovf 32 32]
  | _ => 0

def fltFirst (s : State) : Nat :=
  sumF [putF s.flt.src 0 10, putF s.flt.cls 10 2, putF s.flt.unit 16 6, bitF 32 s.flt.valid]

def faultRead (s : State) (o : Nat) : Nat :=
  match o with
  | 0x00 => fltFirst s
  | 0x08 => s.flt.pitch % 2 ^ 64
  | 0x10 => b2n s.flt.ovfSet + putF s.flt.ovfCount 32 32
  | 0x18 => putF s.flt.f0 0 32 + putF s.flt.f1 32 32
  | 0x20 => putF s.flt.f2 0 32 + putF s.flt.f3 32 32
  | _ => 0

def evcRead (s : State) (o : Nat) : Nat :=
  if o = 0x00 then rw s 0x160000
  else if o = 0x08 then s.evc.ovf.toNat
  else if 0x200 ≤ o ∧ o < 0x300 then tgetD s.evc.vals ((o - 0x200) / 8) 0
  else 0

/-! ### LIFECYCLE to PAIR (17 R526-R528, 18 R548-R550, 19 R559-R560, 16 R496, 14 R448) -/

/-- LC_HOLD: 100 us are 50 pitches. -/
def lcHold (s : State) : Nat :=
  sumF [putF (min 65535 (s.life.stable / 50)) 0 16, bitF 16 s.life.holdOk, bitF 17 (holdReady s)]

def lifeRead (s : State) (o : Nat) : Nat :=
  match o with
  | 0x00 => sumF [putF s.life.code 0 4, bitF 4 s.life.pendingPwr, putF s.life.nextSt 8 4, putF (min 63 (svnFloor s.life)) 18 6]
  | 0x08 => if s.life.code < 3 then 0 else s.life.devId.toNat
  | 0x40 => lcHold s
  | _ => if 0x10 ≤ o ∧ o < 0x40 then leAt (padTo 48 s.life.owner) (o - 0x10) 8 else 0

def clkStat (s : State) : Nat :=
  let c := s.clk
  sumF [bitF 0 c.refSys, bitF 1 c.refEth0, bitF 2 c.refEth1, bitF 3 (c.refSys && s.board.xtal), bitF 4 c.refSys, bitF 5 c.refSys,
        bitF 6 (c.refSys && domOn s 14), bitF 7 c.refEth0, bitF 8 c.refEth1]

def clkRead (s : State) (o : Nat) : Nat :=
  let d := rw s 0x190008
  let r := domRec s d
  match o with
  | 0x00 => clkStat s
  | 0x10 => if switchable d then putF r.req 0 2 + bitF 4 r.ownerBase else 0
  | 0x18 => if switchable d then r.lease.toNat else 0
  | 0x20 => sumF [putF (if d < 20 then r.st else 0) 0 3, bitF 3 r.held.isSome, putF (r.held.getD 0) 4 2, bitF 6 r.pend,
      bitF 7 (switchable d), bitF 8 r.autoOff, bitF 9 r.rej, putF r.rejCause 10 2]
  | 0x28 => sumF [bitsOf 20 (domOn s), putF (bitsOf 20 fun k => (domRec s k).held.isSome) 20 20, putF (bitsOf 20 fun k => (domRec s k).pend) 40 20]
  | 0x30 => putF s.clk.cause 0 3 + putF s.clk.resets 8 16
  | _ => 0

/-- CAL_EFF_SDp. -/
def calEffSd (s : State) (p : Nat) : Nat :=
  let f := calFac s (3 + p)
  let u := rw s (0x1A0100 + 8 * p)
  sumF ((List.range 4).map fun n =>
    calField f u (16 * n) 4 false 0 7 + calField f u (16 * n + 4) 5 false 0 15 + calField f u (16 * n + 9) 4 false 0 15)

def calRead (s : State) (o : Nat) : Nat :=
  if o = 0x200 ∨ o = 0x208 ∨ o = 0x210 then calFac s ((o - 0x200) / 8)
  else if 0x300 ≤ o ∧ o < 0x330 then calFac s (3 + (o - 0x300) / 8)
  else if o = 0x400 then calEffTemp s
  else if o = 0x408 then calEffVolt s
  else if 0x500 ≤ o ∧ o < 0x530 then calEffSd s ((o - 0x500) / 8)
  else 0

def hbmRead (s : State) (o : Nat) : Nat :=
  match o with
  | 0x00 => b2n s.hbm.ready + putF (s.hbm.scrubLine / 64) 16 22
  | 0x08 => putF s.hbm.errAddr 0 48 + bitF 48 s.hbm.errValid
  | _ => 0

def nvmStat (s : State) : Nat :=
  let n := s.nvm
  sumF [putF n.booted 0 1, bitF 1 n.fallback, bitF 2 n.octal, putF n.aResult 4 4, putF n.bResult 8 4, putF n.svn 12 6]

def nvmRead (s : State) (o : Nat) : Nat :=
  match o with
  | 0x08 => nvmStat s
  | 0x10 => putF s.nvm.updSt 0 3 + putF s.nvm.written 32 26
  | _ => 0

def sweepRead (s : State) (o : Nat) : Nat :=
  let w := s.sweep
  match o with
  | 0x08 => sumF [bitF 0 w.blocked, putF (min 63 (s.units.filter fun p => p.2.reserved).length) 1 6, putF w.fails 16 16, putF w.passes 32 32]
  | 0x18 =>
    let u := rw s 0x1E0010
    let r := unitRec s u
    let st := if u < 112 && inService s u then (if r.reserved then 2 else 1) else 0
    sumF [putF r.lastPass 0 48, putF r.step 48 5, putF st 53 2]
  | 0x20 => sumF [putF w.failUnit 0 7, putF w.failStep 8 5, bitF 13 w.failKind, bitF 14 w.failValid, putF w.failPitch 16 48]
  | _ => 0

/-- PORTn_OK: the port carries rope frames and is not silent. -/
def portOk (s : State) (p : Nat) : Bool := (joinOn s || paired s) && ropeUp s p && !portSilent s p

def pairRead (s : State) (o : Nat) : Nat :=
  let p := s.pair
  match o with
  | 0x40 => sumF [putF (pairShown s) 0 3, bitF 3 (portOk s 0), bitF 4 (portOk s 1), bitF 5 p.liveIn, bitF 6 p.fabDup, putF p.refuse 8 4, putF p.takeovers 16 16]
  | 0x48 => putF p.takePitch 0 48 + putF p.takeCause 48 3
  | 0x50 => putF p.copied 0 25 + putF p.total 32 25
  | _ => 0

/-! ### One read -/

/-- A register of a block that is neither RWQ, a counter nor plain RW; a reserved offset reads 0. -/
def blockRead (s : State) (b o : Nat) : Nat :=
  match b with
  | 0x00 => if o = 0 then sysctlId else if o = 8 then sysctlMode s else 0
  | 0x01 => pitchRead s o
  | 0x02 => qmRead s o
  | 0x03 => tolRead s o
  | 0x04 | 0x05 | 0x06 | 0x07 => ethRead s (b - 4) o
  | 0x08 | 0x09 => if o = 0 then ropeStat s (b - 8) else 0
  | 0x0A | 0x0B | 0x0C | 0x0D => engineRead s b o
  | 0x0E => entRead s o
  | 0x0F => vaultRead s o
  | 0x10 => quorumRead s o
  | 0x11 => acuRead s o
  | 0x12 => worldRead s o
  | 0x13 => tamperRead s o
  | 0x14 => cairnRegRead s o
  | 0x15 => faultRead s o
  | 0x16 => evcRead s o
  | 0x17 => lifeRead s o
  | 0x18 => if o = 8 then dbgStat s else 0
  | 0x19 => clkRead s o
  | 0x1A => calRead s o
  | 0x1B => hbmRead s o
  | 0x1C => nvmRead s o
  | 0x1D => if o = 0 then sumF [bitF 0 s.mgmt.asel, putF s.mgmt.reads 16 32, putF s.mgmt.errors 48 16] else 0
  | 0x1E => sweepRead s o
  | _ => pairRead s o

/-- The value of the register at a CSR offset that is a multiple of 8, without the effect that a read of it
has. -/
def csrValue (s : State) (off : Nat) : Nat :=
  if (rwqMask off).isSome then staged s off
  else if 0x8000 ≤ off % 0x10000 ∧ (rwqMask (off - 0x8000)).isSome then inForce s (off - 0x8000)
  else match cntVal off with
    | some (b, sel) => tgetD s.cnt (b * 64 + rw s sel) 0
    | none => if (rwBits off).isSome then rw s off else blockRead s (off / 0x10000) (off % 0x10000)

/-- Which bytes a CSR access covers (00 R14). -/
def halfBits : Half → Nat
  | .whole => 2 ^ 64 - 1
  | .low => 2 ^ 32 - 1
  | .high => 2 ^ 64 - 2 ^ 32

/-- The part of a register that an access returns. -/
def halfOf (h : Half) (v : Nat) : Nat :=
  match h with
  | .whole => v
  | .low => v % 2 ^ 32
  | .high => v / 2 ^ 32

/-- F0 of a 32-bit access to a 64-only register (00 R14, 16 R480). -/
def fault64 (off : Nat) (s : State) : State := collect (32 * (off / 0x10000) + 31) 0 0 s

/-- A claim register read by a core of its world; a master without a core number claims nothing. -/
def claimRead (base : Bool) (core : Option Nat) (h : Half) (s : State) : State :=
  match core, h with
  | _, .high => emit (.read 0) s
  | none, _ => emit (.read 0) s
  | some c, _ => emit (.read (BitVec.ofNat 64 (claim base c s).1)) (claim base c s).2

/-- A read of the register at `off` (00 R13-R15): the value leaves, and what the read does is done. -/
def csrRead (core : Option Nat) (dev : Bool) (off : Nat) (h : Half) (s : State) : State :=
  let out (t : State) : State := emit (.read (BitVec.ofNat 64 (halfOf h (csrValue s off)))) t
  if off = 0xE0008 then entDataRead (h == .whole) dev s
  else if only64 off && h != .whole then emit (.read 0) (fault64 off s)
  else match off with
    | 0xE0050 => entKatOutRead s
    | 0xE0020 => out { s with ent := { s.ent with est1Held := some (BitVec.ofNat 64 (est1 s)) } }
    | 0xE0028 => out { s with ent := { s.ent with est1Held := none } }
    | 0x120038 => claimRead false core h s
    | 0x121000 => claimRead true core h s
    | _ => out s

end Sys2Proof.Machine
end

