-- ==== Sys2Proof/Machine/Regs.lean ====
section
/-! DEFINITION. Writes of control and status registers by access type, and the rows that write one register
(00 R12-R16, 19 R555 and the register sections of 01 to 18). -/

namespace Sys2Proof.Machine

/-- Who writes a register: the core, where it is one, the world carried (0 summit, 1 base, 3 none), and
whether it is the debug master. -/
structure Writer where
  core : Option Nat := none
  world : Nat := 0
  debug : Bool := false
  deriving DecidableEq, Repr

/-- The bits that a write carries, at their places in the register. -/
def placed (h : Half) (v : Word) : Nat :=
  match h with
  | .whole => v.toNat
  | .low => v.toNat % 2 ^ 32
  | .high => v.toNat % 2 ^ 32 * 2 ^ 32

/-- An RW field group after a write: the written bits among `mask` replace the old ones. -/
def rwMerge (old mask : Nat) (h : Half) (v : Word) : Nat :=
  let m := mask &&& halfBits h
  (old &&& (2 ^ 64 - 1 - m)) ||| (placed h v &&& m)

/-- Bit `n` is written with 1. -/
def wrote (h : Half) (v : Word) (n : Nat) : Bool := bitAt (placed h v) n

/-- The write covers bit `n`. -/
def covers (h : Half) (n : Nat) : Bool := bitAt (halfBits h) n

/-! ### Registers with effects of their own -/

/-- EN bits of units: a bit set enables, a bit cleared starts the drain (06 R202). -/
def writeEnables (u n : Nat) (h : Half) (v : Word) (s : State) : State :=
  (List.range n).foldl (fun t i =>
    if !covers h i then t
    else if wrote h v i then enableUnit (u + i) t
    else if (unitRec t (u + i)).en then disableUnit (u + i) t
    else t) s

/-- A write of PITCH_CTXWAIT: the limit applies at once, also to entries that already wait (02 R66). -/
def ctxwaitWrite (v : Nat) (s : State) : State := setRw 0x10010 (v % 2 ^ 32) s

/-- A write of PITCH_PCAP: the cap of the partition in PITCH_PIDX; no context is revoked (02 R67). -/
def pcapWrite (v : Nat) (s : State) : State :=
  { s with sched := { s.sched with pcaps := tput s.sched.pcaps (rw s 0x10018) (v % 2 ^ 13) } }

/-- Writable bits of the address table, low and high word (03 R120). -/
def addrMask (i : Nat) (high : Bool) : Nat :=
  if high then (if i = 3 ∨ i = 4 then 2 ^ 64 - 1 else 0)
  else match i with
    | 0 => 2 ^ 48 - 1
    | 1 => 0x8000003FFFFFFFFF
    | 2 => 0x80000000FFFFFFFF
    | 3 | 4 => 2 ^ 64 - 1
    | 5 => 0x37F
    | 6 => 0x3FFF
    | _ => 0

/-- A write of ETH_AVAL_LO or ETH_AVAL_HI. -/
def addrWrite (p : Nat) (high : Bool) (h : Half) (v : Word) (s : State) : State :=
  let e := getEth s p
  let i := rw s (ethBlk p + 0x10)
  let k := 2 * i + b2n high
  setEth p { e with addrSet := tput e.addrSet k (BitVec.ofNat 64 (rwMerge (addrWord e k) (addrMask i high) h v)) } s

/-- A write of ETH_MSEC_CTL: plain fields, INST_ERR and the transmit SA. -/
def msecCtlWrite (p : Nat) (h : Half) (v : Word) (s : State) : State :=
  let off := ethBlk p + 0x28
  let n := rwMerge (rw s off) 0xFFFFFFFF003F h v
  let e := getEth s p
  msecTxAn p (n % 4) (setRw off n (setEth p { e with instErr := e.instErr && !wrote h v 6 } s))

def ethWrite (p o : Nat) (h : Half) (v : Word) (s : State) : State :=
  match o with
  | 0x00 => ethCfgWrite p (rwMerge (rw s (ethBlk p)) ethCfgMask h v) s
  | 0x18 => addrWrite p false h v s
  | 0x20 => addrWrite p true h v s
  | 0x28 => msecCtlWrite p h v s
  | 0x30 => msecKey p v s
  | _ => s

/-- A write of ENT_KAT_CTL: COND, then the W1C bits, then START. -/
def katCtlWrite (h : Half) (v : Word) (s : State) : State :=
  let e := s.ent
  let s1 := { s with ent := { e with
    katCond := if covers h 0 then fld (placed h v) 0 2 else e.katCond
    katDone := e.katDone && !wrote h v 4
    katErr := e.katErr && !wrote h v 5 } }
  if wrote h v 2 then entKatStart s1 else s1

def entWrite (o : Nat) (h : Half) (v : Word) (s : State) : State :=
  match o with
  | 0x00 => { s with ent := { s.ent with emptyRd := s.ent.emptyRd && !wrote h v 1 } }
  | 0x40 => katCtlWrite h v s
  | 0x48 => entKatIn v s
  | _ => s

def quorumWrite (o : Nat) (h : Half) (v : Word) (s : State) : State :=
  match o with
  | 0x28 => { s with quorum := { s.quorum with tok0 := v } }
  | 0x30 => { s with quorum := { s.quorum with tok1 := v } }
  | 0x38 => if wrote h v 0 then quoCmtGo s else s
  | _ => s

/-- The boot commit (13 R407): every region of every ACU, once, without a token. -/
def bootCommit (s : State) : State :=
  if s.acu.bootDone then s
  else
    let offs := ((List.range 14).map fun n => (List.range 32).map fun r => [regionOff n r, regionOff n r + 8, regionOff n r + 16]).flatten.flatten
    { s with rwq := copyForce s offs, acu := { s.acu with bootDone := true } }

def acuWrite (o : Nat) (h : Half) (v : Word) (s : State) : State :=
  if o = 0x3A08 then (if wrote h v 0 then bootCommit s else s)
  else if 0x3800 ≤ o ∧ o < 0x3800 + 14 * 0x20 then
    let n := (o - 0x3800) / 0x20
    let r := acuRec s n
    match (o - 0x3800) % 0x20 with
    | 0x08 => setAcuRec n { r with synValid := r.synValid && !wrote h v 0, synOvf := r.synOvf && !wrote h v 1 } s
    | 0x10 => setAcuRec n { r with noteValid := r.noteValid && !wrote h v 0, noteOvf := r.noteOvf && !wrote h v 1 } s
    | _ => s
  else s

/-- A write of WORLD_IRQ_CFG for the selected source; WORLD of sources 0-31 stays summit. -/
def irqCfgWrite (h : Half) (v : Word) (s : State) : State :=
  let n := rw s 0x120028
  let i := irqOf s n
  let w := placed h v
  if covers h 0 then
    { s with world := { s.world with irqs := tput s.world.irqs n { i with
        en := bitAt w 0, base := if n < 32 then false else bitAt w 1, cores := BitVec.ofNat 8 (fld w 4 8), prio := fld w 12 4 } } }
  else s

/-- A write of WORLD_IQ_CMD: while a command is in progress it is ignored; a non-zero OP starts one. -/
def iqCmdWrite (h : Half) (v : Word) (s : State) : State :=
  if s.world.iqBusy then s
  else
    let n := rwMerge (rw s 0x120068) 0x7FF7FFF h v
    let s1 := setRw 0x120068 n s
    if !covers h 0 then s1
    else match fld n 0 2 with
      | 0 => s1
      | 1 => iqCreate (fld n 2 5) (fld n 7 8) s1
      | 2 => iqTear 1 (fld n 16 11) s1
      | _ => iqTear 2 (fld n 16 11) s1

def worldWrite (c : Writer) (o : Nat) (h : Half) (v : Word) (s : State) : State :=
  let w := placed h v
  match o with
  | 0x00 =>
    let s1 := if wrote h v 0 then ctlReady s else s
    if wrote h v 1 then worldRestartWrite s1 else s1
  | 0x08 => { s with world := { s.world with tfRej := s.world.tfRej && !wrote h v 17 } }
  | 0x18 => swdogKick s
  | 0x20 =>
    let s1 := setRw 0x120020 (rwMerge (rw s 0x120020) 0x1FFFFFFFF h v) s
    { s1 with world := { s1.world with bwExpired := s1.world.bwExpired && !wrote h v 33 } }
  | 0x30 => irqCfgWrite h v s
  | 0x40 => if covers h 0 then irqDone false (fld w 0 7) s else s
  | 0x68 => iqCmdWrite h v s
  | 0x80 => { s with world := { s.world with iqDone := s.world.iqDone && !wrote h v 1 } }
  | 0x1008 => if covers h 0 then irqDone true (fld w 0 7) s else s
  | 0x1010 => bwdogKick s
  | 0x1018 => tfDone (c.core.getD 8) (fld w 0 8) (BitVec.ofNat 32 (fld w 32 32)) s
  | _ => s

def tamperWrite (o : Nat) (h : Half) (v : Word) (s : State) : State :=
  match o with
  | 0x108 => { s with tam := { s.tam with evt := s.tam.evt &&& ~~~ BitVec.ofNat 32 (placed h v) } }
  | 0x110 => { s with tam := { s.tam with firstValid := s.tam.firstValid && !wrote h v 8 } }
  | _ => s

def faultWrite (o : Nat) (h : Half) (v : Word) (s : State) : State :=
  match o with
  | 0x00 => { s with flt := { s.flt with valid := s.flt.valid && !wrote h v 32 } }
  | 0x10 => { s with flt := { s.flt with ovfSet := s.flt.ovfSet && !wrote h v 0 } }
  | _ => s

/-- EVC_CTL.CLEAR: every counter reads 0 (16 R495); an overflow that waits to be reported stays. -/
def evcClear (s : State) : State := { s with evc := { s.evc with vals := [] } }

/-- A write of EVC_VALn (16 R487). -/
def evcSet (n v : Nat) (s : State) : State :=
  if n < 32 then { s with evc := { s.evc with vals := if v % 2 ^ 48 = 0 then tdel s.evc.vals n else tput s.evc.vals n (v % 2 ^ 48) } }
  else s

def evcWrite (o : Nat) (h : Half) (v : Word) (s : State) : State :=
  if o = 0x00 then
    let s1 := setRw 0x160000 (rwMerge (rw s 0x160000) 1 h v) s
    if wrote h v 1 then evcClear s1 else s1
  else if o = 0x08 then { s with evc := { s.evc with ovf := s.evc.ovf &&& ~~~ BitVec.ofNat 32 (placed h v) } }
  else if 0x200 ≤ o ∧ o < 0x300 then
    let n := (o - 0x200) / 8
    evcSet n (rwMerge (tgetD s.evc.vals n 0) (2 ^ 48 - 1) h v) s
  else s

/-- A write of PWR_DCTL carries the world of its master; a master without a world is ignored (18 R534). The
summit world's owner and CANCEL act before its request. -/
def dctlWrite (world : Nat) (h : Half) (v : Word) (s : State) : State :=
  let d := rw s 0x190008
  let w := placed h v
  if !covers h 0 then s
  else if world = 0 then
    let s1 := setOwner d (bitAt w 4) s
    reqSummit d (fld w 0 2) (if bitAt w 2 then reqCancel d s1 else s1)
  else if world = 1 then reqBase d (fld w 0 2) s
  else s

def clkWrite (world o : Nat) (h : Half) (v : Word) (s : State) : State :=
  let d := rw s 0x190008
  match o with
  | 0x10 => dctlWrite world h v s
  | 0x18 => if world = 0 ∧ covers h 0 = true then setLease d (fld (placed h v) 0 8) s else s
  | 0x20 => let r := domRec s d; setDom d { r with rej := r.rej && !wrote h v 9 } s
  | _ => s

/-- A register of a block that is neither RWQ nor plain RW. A write of a read-only or reserved offset does
nothing. -/
def blockWrite (c : Writer) (b o : Nat) (h : Half) (v : Word) (s : State) : State :=
  match b with
  | 0x01 =>
    if o = 0x20 ∧ covers h 0 = true then pcapWrite (placed h v) s else s
  | 0x02 =>
    if o = 0x38 then ipidxWrite c.core (fld v.toNat 0 11) (BitVec.ofNat 32 (fld v.toNat 32 32)) s
    else if o = 0x40 then { s with qm := { s.qm with ipidxRej := s.qm.ipidxRej && !wrote h v 0 } }
    else s
  | 0x03 => if o = 0x28 then sclose (fld v.toNat 0 32) s else s
  | 0x04 | 0x05 | 0x06 | 0x07 => ethWrite (b - 4) o h v s
  | 0x0A => if o = 0 then writeEnables 0 4 h v s else s
  | 0x0B => if o = 0 then writeEnables 4 16 h v s else s
  | 0x0C => if o = 0 then writeEnables 20 64 h v s else s
  | 0x0D => if o = 0 then writeEnables 84 16 h v s else s
  | 0x0E => entWrite o h v s
  | 0x0F =>
    if o = 0x40 then writeEnables 100 8 h v s
    else if o = 0x60 then
      { s with vault := { s.vault with lostValid := s.vault.lostValid && !wrote h v 24, lostOvf := s.vault.lostOvf && !wrote h v 25 } }
    else s
  | 0x10 => quorumWrite o h v s
  | 0x11 => acuWrite o h v s
  | 0x12 => worldWrite c o h v s
  | 0x13 => tamperWrite o h v s
  | 0x15 => faultWrite o h v s
  | 0x16 => evcWrite o h v s
  | 0x17 =>
    if o = 0x48 ∧ c.debug = true then lcTrim (fld v.toNat 0 16) (BitVec.ofNat 32 (fld v.toNat 16 32)) s else s
  | 0x19 => clkWrite c.world o h v s
  | 0x1B => if o = 0x08 then { s with hbm := { s.hbm with errValid := s.hbm.errValid && !wrote h v 48 } } else s
  | 0x1E => if o = 0x20 then { s with sweep := { s.sweep with failValid := s.sweep.failValid && !wrote h v 14 } } else s
  | _ => s

/-- After a write of ENT_BSEL, ENT_EST1 is that of the selected bank (10 R304). -/
def bankSelected (off : Nat) (s : State) : State :=
  if off = 0xE0010 then { s with ent := { s.ent with est1Held := none } } else s

/-- A write of the register at `off` (00 R13-R16). A 32-bit write of a 64-only register does nothing but
record an F0 fault. -/
def csrWrite (c : Writer) (off : Nat) (h : Half) (v : Word) (s : State) : State :=
  if only64 off && h != .whole then fault64 off s
  else if (rwqMask off).isSome then stagedWrite off (rwMerge (staged s off) (2 ^ 64 - 1) h v) s
  else match rwBits off with
    | some m => bankSelected off (setRw off (rwMerge (rw s off) m h v) s)
    | none => blockWrite c (off / 0x10000) (off % 0x10000) h v s

/-! ### Meanings -/

/-- REGISTER_WRITE: a write of a register by a summit-world master. An unaligned one gets an error response and takes no
effect (00 R14). -/
def execRegisterWrite (off : Nat) (half : Half) (v : Word) (s : State) : Host.Outcome State Fault Refusal :=
  .next (
    if !(decide (off < 0x200000) && dieOn s) then s
    else if off % 8 ≠ 0 then emit .busError s
    else csrWrite {} off half v s)

/-- PITCH_CTXWAIT_WRITE. -/
def execPitchCtxwaitWrite (v : Word) (s : State) : Host.Outcome State Fault Refusal := .next (ctxwaitWrite v.toNat s)

/-- PITCH_PCAP_WRITE. -/
def execPitchPcapWrite (v : Word) (s : State) : Host.Outcome State Fault Refusal := .next (pcapWrite v.toNat s)

/-- EVC_CTL_CLEAR. -/
def execEvcCtlClear (s : State) : Host.Outcome State Fault Refusal := .next (evcClear s)

/-- EVC_VAL_WRITE. -/
def execEvcValWrite (n : Nat) (v : Word) (s : State) : Host.Outcome State Fault Refusal := .next (evcSet n v.toNat s)

/-- EVENT_COUNTER_OVERFLOW: the counter has reached or passed 2^48 - 1; its bit is set and source 5 raised
(16 R486). -/
def execEventCounterOverflow (n : Nat) (s : State) : Host.Outcome State Fault Refusal :=
  .next (
    if s.evc.due.contains n then
      raise 5 { s with evc := { s.evc with ovf := s.evc.ovf ||| BitVec.ofNat 32 (2 ^ n), due := s.evc.due.erase n } }
    else s)

/-- ACU_BOOTCMT (13 R407). -/
def execAcuBootcmt (s : State) : Host.Outcome State Fault Refusal := .next (bootCommit s)

end Sys2Proof.Machine
end

