-- ==== Sys2Proof/Machine/Acu.lean ====
section
/-! DEFINITION. Accesses on the fabric: widths, ports, the checks, denials and what an admitted access does;
the epoch switch of the access rules; debug accesses (13 R395-R408, 17 R521, 19 R551-R554). -/

namespace Sys2Proof.Machine

/-! ### Before the check (19 R551-R554, 00 R14) -/

/-- The NVM window maps the flash during STARTUP and while an update is open (19 R553). -/
def windowOpenNvm (s : State) : Bool := s.sys.mode == .startup || s.nvm.updSt == 1 || s.nvm.updSt == 2

/-- The port that a master's access addresses; only the key engine can form an address of the vault port. -/
def portFor (s : State) (a : Access) : Option Nat :=
  match portOf a.addr with
  | some 3 => if a.master = 9 then some 3 else none
  | some 13 => if windowOpenNvm s then some 13 else none
  | r => r

/-- A power-of-two width of at most 8 bytes, naturally aligned. -/
def plainWidth (a : Access) : Bool := [1, 2, 4, 8].contains a.len && a.addr % a.len == 0

/-- The access has a width that its port takes (19 R554). -/
def widthOk (n : Nat) (a : Access) : Bool :=
  if 4 ≤ n ∧ n ≤ 8 then (a.len == 4 || a.len == 8) && a.addr % a.len == 0 && !a.atomic
  else if n = 13 then ([1, 2, 4, 8].contains a.len || (a.len == 64 && a.kind == .read)) && !a.atomic
  else if a.atomic then (a.len == 4 || a.len == 8) && a.addr % a.len == 0 && a.kind == .write
  else plainWidth a || (a.len == 64 && a.addr % 64 == 0) || (decide (8 ≤ a.master) && decide (1 ≤ a.len ∧ a.len ≤ 256))

/-- The world of a master: a core's own, that of the debug enables (13 R395), or the fixed one. -/
def worldOf (s : State) (m : Nat) : Nat :=
  if m < 8 then b2n (getCore s m).base
  else if m = 0x1F then (if s.dbg.enabled.getLsbD 0 then 0 else 1)
  else masterWorld m

/-! ### Admitted accesses -/

/-- The words that a read returns, the lowest address first. -/
def readWords (m : List Host.Cell) (a : Nat) : Nat → List Word
  | 0 => []
  | n + 1 => BitVec.ofNat 64 (leNat (readBytes m a 8)) :: readWords m (a + 8) n

/-- Bytes that a read returns, in words. -/
def emitBytes (b : List Byte) (s : State) : State :=
  ((List.range (ceilDiv b.length 8)).map fun i => BitVec.ofNat 64 (leNat (sliceB b (8 * i) 8))).foldl (fun t w => emit (.read w) t) s

/-- What a read of memory returns: whole words, then the bytes that are left. A read of HBM without keys returns
free values (log 80). -/
def memRead (a : Access) (s : State) : State :=
  if hbmDown s a.addr then
    emitBytes (freeBytes s a.len) (useBytes a.len s)
  else if inColdStore a.addr || inColdStore (a.addr + a.len - 1) then
    emitBytes (readSpan s a.addr a.len) s
  else
  let ws := readWords s.mem a.addr (a.len / 8)
  let rest := a.len % 8
  let tail := if rest = 0 then [] else [BitVec.ofNat 64 (leNat (readBytes s.mem (a.addr + a.len - rest) rest))]
  (ws ++ tail).foldl (fun t w => emit (.read w) t) s

/-- A write of memory: `len` bytes from the first address on; without keys none reaches the HBM. -/
def memWrite (a : Access) (s : State) : State :=
  storeSpan a.addr (padTo a.len a.data) s

/-- A core's access to a line with MTYPE WB (0) or WT (1), cached write-back or write-through. How long a line stays
cached no rule says: a free choice at each access (log 128). -/
def cachedAccess (c mtype : Nat) (a : Access) (s : State) : State :=
  let la := a.addr / 64 * 64
  let x := (lineOf s c la).getD { core := c, addr := la, bytes := readSpan s la 64 }
  let o := a.addr - la
  let s1 := if a.kind != .write || a.atomic then emitBytes (sliceB x.bytes o a.len) s else s
  let y := if a.kind == .write then
      { x with bytes := x.bytes.take o ++ padTo a.len a.data ++ x.bytes.drop (o + a.len), dirty := x.dirty || mtype == 0 }
    else x
  let s2 := if a.kind == .write && mtype != 0 then memWrite a s1 else s1
  let stays := (nthD (freeBytes s 1) 0 0).getLsbD 0
  let s3 := { s2 with world := { s2.world with
    lines := (s2.world.lines.filter fun z => !(z.core == c && z.addr == la)) ++ [y] } }
  useBytes 1 (if stays then s3 else evictLine s3 y)

/-- The access goes through the core's cache: memory that can be reached, with MTYPE WB or WT. -/
def cacheable (n mtype : Nat) (a : Access) (s : State) : Bool :=
  decide (a.master < 8) && decide (mtype < 2) && decide (n < 3 ∨ 9 ≤ n) && decide (n < 13) && !hbmDown s a.addr

/-- The register and the half that a CSR access covers. -/
def csrTarget (a : Access) : Nat × Half :=
  let off := a.addr - 0x1000000
  (off / 8 * 8, if a.len = 8 then .whole else if off % 8 = 0 then .low else .high)

/-- A master that is a core. -/
def coreOf (a : Access) : Option Nat := if a.master < 8 then some a.master else none

/-- The effect of an admitted access with its MTYPE. -/
def perform (n mtype : Nat) (a : Access) (s : State) : State :=
  if 4 ≤ n ∧ n ≤ 8 then
    let t := csrTarget a
    match a.kind with
    | .write =>
      csrWrite { core := coreOf a, world := worldOf s a.master, debug := a.master == 0x1F } t.1 t.2 (BitVec.ofNat 64 (leNat (a.data.take 8))) s
    | _ => csrRead (coreOf a) (mtype == 3) t.1 t.2 s
  else if cacheable n mtype a s then cachedAccess a.master mtype a s
  else match a.kind with
    | .write => memWrite a (if a.atomic then memRead a s else s)
    | _ => memRead a s

/-! ### Denied accesses (13 R403) -/

/-- The exception of a core: instruction, load, or store/AMO access fault. -/
def accessCause : AccKind → Nat
  | .fetch => 1
  | .read => 5
  | .write => 7

/-- What a denied access brings: the record, the error response with zero data, and the core's exception or
the end of the job. A posted write is only dropped and noted. -/
def deny (n reg : Nat) (a : Access) (s : State) : State :=
  let s1 := recordDenial n a.master (worldOf s a.master) reg a.kind a.addr s
  let silent := a.kind == .write && posted n
  let s2 := if silent then s1 else emit .busError s1
  match coreOf a with
  | some c => if silent then s2 else excep c (accessCause a.kind) (BitVec.ofNat 64 a.addr) s2
  | none =>
    let s3 := collect 544 0 a.master s2
    match a.ctx with
    | some x => denyJob x s3
    | none => s3

/-- The check of an access; an atomic needs both permissions. -/
def verdict (s : State) (n : Nat) (a : Access) : Verdict :=
  let w := worldOf s a.master
  match acuCheck s n a.master w a.kind a.addr a.len with
  | .denied r => .denied r
  | .admitted mt o => if a.atomic then acuCheck s n a.master w .read a.addr a.len else .admitted mt o

/-- An access that no ACU makes wait. -/
def checked (n : Nat) (a : Access) (s : State) : State :=
  match verdict s n a with
  | .admitted mt _ => perform n mt a s
  | .denied r => deny n r a s

/-- One access on the fabric: outside every port, or with a width that the port does not take, it gets an
error response and nothing is recorded; at an ACU that changes its rules it waits unchecked (13 R405). -/
def fabric (a : Access) (s : State) : State :=
  match portFor s a with
  | none => emit .busError s
  | some n =>
    if !widthOk n a then emit .busError s
    else if (acuRec s n).wait then { s with acu := { s.acu with waiting := s.acu.waiting ++ [a] } }
    else checked n a s

/-! ### The epoch switch (13 R405, R406) -/

/-- The ACUs of a commit admit accesses again, and those that waited are checked now. -/
def admitAgain (s : State) : State :=
  let l := s.acu.waiting
  l.foldl (fun t a => fabric a t) { s with acu := { s.acu with waiting := [], recs := tmap s.acu.recs fun _ r => { r with wait := false } } }

/-- Every core writes back and invalidates its lines that lie in the ports of the ACUs (13 R405). -/
def flushLines (acus : List Nat) (s : State) : State :=
  (s.world.lines.filter fun x => (portOf x.addr).any acus.contains).foldl evictLine s

/-- The new rules bind in every ACU of the image at once, and each EPOCH rises by one; a proposal that has
become void meanwhile binds nothing. -/
def epochSwitch (s : State) : State :=
  match s.acu.commit with
  | none => admitAgain s
  | some (tok, ctx) =>
    let s1 := { s with acu := { s.acu with commit := none } }
    match commitProp s1 tok with
    | none => admitAgain (endCommit s1 ctx (failedCommit s1 tok) s1)
    | some (slot, p) =>
      let s2 := applyImage slot p (flushLines (imageAcus p) s1)
      let rise (t : Tab AcuRec) (n : Nat) : Tab AcuRec := tput t n { tgetD t n {} with epoch := ((tgetD t n {}).epoch + 1) % 2 ^ 32 }
      admitAgain (endCommit s1 ctx 1 { s2 with acu := { s2.acu with recs := (imageAcus p).foldl rise s2.acu.recs } })

/-! ### Debug accesses (13 R395, R396, 17 R521) -/

/-- Some enable admits accesses of master 0x1F. -/
def dbgAdmits (s : State) : Bool := s.dbg.enabled.getLsbD 0 || s.dbg.enabled.getLsbD 2

/-- A halt request: a core in the base world halts at once; one in the summit world only under
SUMMIT_INVASIVE, else the request is held until it enters the base world. -/
def haltCore (c : Nat) (s : State) : State :=
  let r := getCore s c
  if 8 ≤ c ∨ dbgAdmits s = false then s
  else if r.base || s.dbg.enabled.getLsbD 0 then setCore c { r with halted := true } s
  else setCore c { r with haltHeld := true } s

/-- DBG_ACCESS: the access runs as master 0x1F. -/
def dbgAccess (a : Access) (halt : Option Nat) (s : State) : State :=
  let s1 := loadIr 0x13 s
  let s2 := match halt with | some c => haltCore c s1 | none => s1
  if dbgAdmits s then fabric { a with master := 0x1F, ctx := none } s2 else s2

/-! ### Meanings -/

/-- FABRIC_ACCESS. A core that does not run makes none. -/
def execFabricAccess (acc : Access) (s : State) : Host.Outcome State Fault Refusal :=
  .next (if !dieOn s || (decide (acc.master < 8) && !coreRuns s acc.master) then s else fabric acc s)

/-- ACU_EPOCH_SWITCH. -/
def execAcuEpochSwitch (s : State) : Host.Outcome State Fault Refusal := .next (epochSwitch s)

/-- DBG_ACCESS. The debug module lies in PD19. -/
def execDbgAccess (acc : Access) (halt : Option Nat) (s : State) : Host.Outcome State Fault Refusal :=
  .next (
    if !tapOn s then s
    else if tapDead s then actBypass 0x13 s
    else if domOn s 19 then dbgAccess acc halt s else loadIr 0x13 s)

end Sys2Proof.Machine
end

