-- ==== Sys2Proof/Machine/Card.lean ====
section
/-! DEFINITION. Route cards: the Sahly image, its sections and signatures, and the checks of a card (17
R509-R517, R527). -/

namespace Sys2Proof.Machine

/-! ### The image (17 R510, R511) -/

/-- Fields of the header. -/
def cardSigner (b : List Byte) : Nat := leAt b 6 1
def cardSvn (b : List Byte) : Nat := leAt b 7 1
def cardDev (b : List Byte) : Nat := leAt b 8 8
def cardBody (b : List Byte) : Nat := leAt b 16 4
def cardSections (b : List Byte) : Nat := leAt b 20 2

/-- One entry of the section table. -/
structure Section where
  type : Nat := 0
  flags : Nat := 0
  off : Nat := 0
  len : Nat := 0
  deriving DecidableEq, Repr

def sections (b : List Byte) : List Section :=
  (List.range (cardSections b)).map fun i =>
    let t := sliceB b (128 + 16 * i) 16
    { type := leAt t 0 2, flags := leAt t 2 2, off := leAt t 4 4, len := leAt t 8 4 }

/-- The bytes of a section. -/
def secBytes (b : List Byte) (x : Section) : List Byte := sliceB b x.off x.len

/-- The sections of a type, in table order. -/
def secsOf (b : List Byte) (ty : Nat) : List (List Byte) := ((sections b).filter fun x => x.type == ty).map (secBytes b)

/-- Every byte is 0. -/
def zeros (b : List Byte) : Bool := b.all (· == 0)

/-- The 128-byte header; a signed image also holds the whole signature block. -/
def cardHeaderOk (b : List Byte) : Bool :=
  let n := cardBody b
  b.take 4 == [0x53, 0x48, 0x4C, 0x59] && leAt b 4 2 == 1 && decide (cardSigner b ≤ 2) && decide (cardSvn b < 64)
    && n % 64 == 0 && decide (n ≤ 0x2000000 - 8192) && decide (1 ≤ cardSections b ∧ cardSections b ≤ 1024)
    && zeros (sliceB b 22 106) && decide (128 + 16 * cardSections b ≤ n)
    && decide (n + (if cardSigner b = 0 then 0 else 7419) ≤ b.length)

/-- Byte ranges that do not meet. -/
def apart (x y : Nat × Nat) : Bool := decide (x.1 + x.2 ≤ y.1) || decide (y.1 + y.2 ≤ x.1)

/-- No two ranges of a list meet. -/
def allApart : List (Nat × Nat) → Bool
  | [] => true
  | x :: t => t.all (apart x) && allApart t

/-- The section table: places, known types, one SUMMIT_FW section. -/
def tableOk (b : List Byte) : Bool :=
  let l := sections b
  let low := 128 + 16 * cardSections b
  l.all (fun x => x.flags == 0 && x.off % 64 == 0 && decide (low ≤ x.off) && decide (x.off + x.len ≤ cardBody b) && decide (1 ≤ x.type ∧ x.type ≤ 6))
    && allApart ((l.filter fun x => decide (0 < x.len)).map fun x => (x.off, x.len))
    && (l.filter fun x => x.type == 1).length == 1

/-! ### Contents of sections -/

/-- Credentials one after the other, each behind SCOPE, PARTITION and six reserved bytes; `none` when the
bytes do not end with a credential. -/
def cardCreds (officer : Bool) : Nat → List Byte → Option (List Cred)
  | _, [] => some []
  | 0, _ => none
  | fuel + 1, b =>
    let scope := leAt b 0 1
    let part := if scope = 0 then 0 else leAt b 1 1
    let c := credAt (b.drop 8) part
    let role := if officer then c.1.role else 4
    if b.length < 8 + c.2 ∨ credAlgOk (b.drop 8) = false ∨ 1 < scope ∨ 4 < role then none
    else (cardCreds officer fuel (b.drop (8 + c.2))).map fun t => { c.1 with role := role, card := true } :: t

/-- The credentials of all sections of a type, in card order. -/
def credsOf (officer : Bool) (b : List Byte) : Option (List Cred) :=
  (secsOf b (if officer then 4 else 5)).foldl (fun acc x =>
    match acc, cardCreds officer x.length x with
    | some l, some m => some (l ++ m)
    | _, _ => none) (some [])

/-- Certificates: length and DER. -/
def certList : Nat → List Byte → Option (List (List Byte))
  | 0, b => if b.isEmpty then some [] else none
  | n + 1, b =>
    let len := leAt b 0 4
    if b.length < 4 + len then none else (certList n (b.drop (4 + len))).map fun t => sliceB b 4 len :: t

/-- The certificates of a card. -/
def certsOf (b : List Byte) : Option (List (List Byte)) :=
  (secsOf b 6).foldl (fun acc x =>
    match acc, (if x.length < 4 then none else certList (leAt x 0 4) (x.drop 4)) with
    | some l, some m => some (l ++ m)
    | _, _ => none) (some [])

/-- REG_IMAGE entries, in card order: CSR offset and value. -/
def regEntries (b : List Byte) : List (Nat × Nat) :=
  ((secsOf b 3).map fun x => (List.range (x.length / 16)).map fun i => (leAt x (16 * i) 4, leAt x (16 * i + 8) 8)).flatten

/-- The tenant area (19 R556, R557). -/
def tenantBase : Nat := 0x10300000000
def tenantEnd : Nat := 0x10400000000

/-- The 32-byte header of a TENANT_FN section: slot, function record, ENTRY and CODE_LEN. -/
def tfSlot (x : List Byte) : Nat := leAt x 0 1
def tfEntry (x : List Byte) : Nat := leAt x 16 8
def tfCodeLen (x : List Byte) : Nat := leAt x 24 4
def tfRecord (x : List Byte) : TenantFn :=
  { part := leAt x 1 1, func := leAt x 2 1, line := leAt x 3 1, inboxLog2 := leAt x 4 1, limitMs := leAt x 6 2, addr := leAt x 8 8 }

/-- The code of a function lies at ENTRY (log 29); code and inbox lie in the tenant area. -/
def tfRanges (x : List Byte) : List (Nat × Nat) := [(tfEntry x, tfCodeLen x), (leAt x 8 8, 2 ^ leAt x 4 1)]

/-- The form of one TENANT_FN section. -/
def tfOk (x : List Byte) : Bool :=
  let t := tfRecord x
  decide (32 + tfCodeLen x ≤ x.length) && tfCodeLen x % 4 == 0 && decide (32 ≤ t.line ∧ t.line < 128)
    && decide (16 ≤ t.inboxLog2 ∧ t.inboxLog2 ≤ 24) && decide (1 ≤ t.limitMs ∧ t.limitMs ≤ 10000) && t.addr % 2 ^ t.inboxLog2 == 0
    && (tfRanges x).all fun r => decide (tenantBase ≤ r.1 ∧ r.1 + r.2 ≤ tenantEnd)

/-- The TENANT_FN sections of a card together: one per slot, F unique in its partition, nothing meets. -/
def tfsOk (l : List (List Byte)) : Bool :=
  l.all tfOk && (l.map tfSlot).eraseDups.length == l.length
    && (l.map fun x => ((tfRecord x).part, (tfRecord x).func)).eraseDups.length == l.length
    && allApart ((l.map tfRanges).flatten.filter fun r => decide (0 < r.2))

/-- SUMMIT_FW: ENTRY and the image. -/
def fwOk (x : List Byte) : Bool := decide (8 ≤ x.length ∧ x.length ≤ 8 + 0x3F0000)

/-- The sections satisfy R511: result code 3 otherwise. -/
def contentsOk (b : List Byte) : Bool :=
  (secsOf b 1).all fwOk && (secsOf b 3).all (fun x => x.length % 16 == 0) && (credsOf true b).isSome && (credsOf false b).isSome
    && (certsOf b).isSome && tfsOk (secsOf b 2)

/-! ### Signatures (17 R512, R513) -/

/-- The key reference of a signature block. -/
def blockRefOk (ref blk : List Byte) : Bool :=
  crypto .hash [algSha3x384] [blk.take 2592 ++ sliceB blk 2592 97] 48 == padTo 48 ref

/-- Both signatures of a block verify over a label and a body. -/
def blockSigsOk (label body blk : List Byte) : Bool :=
  zeros (sliceB blk 2689 7)
    && Config.cryptoOk .lattice [0x412, 3] [blk.take 2592, label ++ body, sliceB blk 2696 4627]
    && Config.cryptoOk .ecc [0x311, 2, algSha384] [sliceB blk 2592 97, label ++ body, sliceB blk 7323 96]

/-- A package's signature: by the officer of its partition at position SIGNER; an unsigned card may carry
packages that are not checked. -/
def packageOk (b : List Byte) (officers : List Cred) (x : List Byte) : Bool :=
  let n := leAt x 28 1
  let alg := leAt x 29 1
  let body := x.take (32 + tfCodeLen x)
  let sig := x.drop (32 + tfCodeLen x)
  if cardSigner b = 0 ∧ n = 0xFF ∧ sig = [] then true
  else match (officers.filter fun c => c.role == 3 && c.part == leAt x 1 1)[n]? with
    | none => false
    | some c =>
      c.alg == alg && Config.cryptoOk (if alg = 1 then .lattice else .ecc) (if alg = 1 then [0x412, 2] else [0x311, 2, algSha384])
        [c.key, ascii "Yalzia tenant function 1" ++ body, sig]

/-! ### The register image (17 R514) -/

/-- RW registers with effects of their own (19 R555). -/
def rwOwn (off : Nat) : Bool :=
  [0x10020, 0xA0000, 0xB0000, 0xC0000, 0xD0000, 0xF0040, 0x100038, 0x120020, 0x120030, 0x120068, 0x160000, 0x190010, 0x190018].contains off
    || (decide (0x40000 ≤ off ∧ off < 0x80000) && [0x00, 0x18, 0x20, 0x28].contains (off % 0x10000))
    || (decide (0x160200 ≤ off ∧ off < 0x160300) && off % 8 == 0)

/-- Blocks whose registers a card may set. -/
def cardBlocks : List Nat := [1, 3, 4, 5, 6, 7, 10, 11, 12, 13, 15, 16, 17, 18, 19, 22, 24, 25, 26, 28, 31]

/-- The entry names an RW or RWQ register of those blocks. -/
def regAllowed (off : Nat) : Bool :=
  cardBlocks.contains (off / 0x10000) && ((rwqMask off).isSome || (rwBits off).isSome || rwOwn off)

/-! ### The check of a card (17 R517) -/

/-- The signer is permitted in the present state (17 R498). -/
def signerOk (s : State) (n : Nat) : Bool :=
  match s.life.code with
  | 1 | 2 | 5 => n == 0 || n == 1
  | 3 => n == 1
  | 4 => n == 2 || (n == 1 && bitAt (inForce s 0x1C0000) 1)
  | _ => false

/-- The first check that a card fails, as a result code of 17 R527; 1 when it passes. -/
def cardResult (s : State) (b : List Byte) : Nat :=
  let n := cardSigner b
  let blk := sliceB b (cardBody b) 7419
  if !cardHeaderOk b || !tableOk b || !contentsOk b then 3
  else if !signerOk s n then 4
  else if n != 0 && !blockRefOk (if n = 2 then s.life.owner else Config.vendorRef) blk then 5
  else if n != 0 && !blockSigsOk (ascii "Yalzia route card 1") (b.take (cardBody b)) blk then 6
  else if cardDev b != 0 && cardDev b != s.life.devId.toNat then 7
  else if cardSvn b < svnFloor s.life then 8
  else if !((regEntries b).all fun e => regAllowed e.1) then 9
  else if !((secsOf b 2).all (packageOk b ((credsOf true b).getD []))) then 6
  else 1

/-! ### What a verified card brings (17 R514, R516) -/

/-- Card officers with their index inside their scope, and client keys: each key once, and at most 32 device-level
officers (12 R351, log 16). -/
def cardOfficers (b : List Byte) : List Cred :=
  admitCreds [] [] (enrolAll [] ((credsOf true b).getD []) ++ (credsOf false b).getD [])

/-- One REG_IMAGE entry as the boot ROM writes it: RWQ values are staged and put into force, those of the ACUs
only staged; RW registers are written whole. -/
def applyReg (s : State) (e : Nat × Nat) : State :=
  match rwqMask e.1 with
  | some m =>
    if e.1 / 0x10000 = 0x11 then setStaged e.1 (e.2 &&& m) s
    else
      let s1 := { s with rwq := rwqPut s.rwq e.1 (e.2 &&& m) (e.2 &&& m) }
      if e.1 / 0x10000 = 0x13 then tamperCommitted s s1 else s1
  | none => csrWrite {} e.1 .whole (BitVec.ofNat 64 e.2) s

/-- The owner policy digest: entries of QUORUM, TAMPER and DEBUG, then those of PAIR but for PAIR_CFG,
PAIR_PEER and MEMBER_ID (17 R514). -/
def policyDigest (b : List Byte) : List Byte :=
  let l := regEntries b
  let enc (o v : Nat) : List Byte := leBytes 4 o ++ leBytes 4 0 ++ leBytes 8 v
  let first := (l.filter fun e => [16, 19, 24].contains (e.1 / 0x10000)).map fun e => enc e.1 e.2
  let pair := (l.filter fun e => e.1 / 0x10000 == 31 && e.1 != 0x1F0000 && e.1 != 0x1F0008).map fun e =>
    enc e.1 (if e.1 = 0x1F0018 then putField e.2 16 9 0 else e.2)
  crypto .hash [algSha3x256] [(first ++ pair).flatten] 32

/-- A tenant function is loaded: its record, and its code at ENTRY. -/
def loadFn (s : State) (x : List Byte) : State :=
  setFn (tfSlot x) (tfRecord x) { s with mem := writeBytes s.mem (tfEntry x) (sliceB x 32 (tfCodeLen x)) }

/-- TENANT_FN sections in slot order. -/
def fnsBySlot (b : List Byte) : List (List Byte) :=
  ((List.range 256).map fun n => (secsOf b 2).filter fun x => tfSlot x == n).flatten

/-- The summit firmware: its copy and its protected copy in HBM, its digest into WORLD_MEAS1. -/
def loadFw (b : List Byte) (s : State) : State :=
  let x := (secsOf b 1).headD []
  let img := x.drop 8
  let d := imageDigest img
  let s0 := storeMem 0x10080000000 img s
  let s1 := { s0 with
    mem := writeBytes s0.mem 0x100000 img
    world := { s0.world with fwLen := img.length, fwDigest := d, fwEntry := 0x100000 + leAt x 0 8 } }
  extendMeas 1 d s1

/-- Steps 6 and 7 of the boot: measurements, the register image, credentials, firmware, tenant functions. -/
def applyCard (b : List Byte) (s : State) : State :=
  let s1 := extendMeas 0 (b.take 128) (extendMeas 0 Config.bootRomDigest s)
  let s2 := (regEntries b).foldl applyReg s1
  let s3 := bootCommit s2
  let s4 := { s3 with
    quorum := { s3.quorum with creds := cardOfficers b }
    nvm := { s3.nvm with policyDigest := policyDigest b, certs := (certsOf b).getD [], svn := cardSvn b } }
  let s5 := loadFw b s4
  (fnsBySlot b).foldl (fun t x => extendMeas 2 (crypto .hash [algSha3x384] [x] 48) (loadFn t x)) s5

end Sys2Proof.Machine
end

