-- ==== Sys2Proof/Machine/Boot.lean ====
section
/-! DEFINITION. Power and reset: the supplies of the two dies and of the bivouac domain, the resets of the
compute die, the boot sequence and route card updates (01 R35-R38, 15 R454, R468, 17 R507-R520, 18 R541-R543). -/

namespace Sys2Proof.Machine

/-! ### What a reset of the compute die leaves (18 R542, 15 R463) -/

/-- Registers whose values in force are kept in the configuration bank (15 R463, 17 R527, 18 R545). -/
def inBank (off : Nat) : Bool :=
  decide (0x130000 ≤ off ∧ off ≤ 0x130040) || off == 0x1A0000 || off == 0x1A0008 || off == 0x1C0000

/-- The bank after a reset: the staged values are those in force (log 30). -/
def keptBank (t : Tab (Word × Word)) : Tab (Word × Word) :=
  (t.filter fun p => inBank p.1).foldl (fun u p => rwqPut u p.1 p.2.2.toNat p.2.2.toNat) []

/-- The guard die's record of alarms goes on; what counts since STARTUP starts anew. -/
def keptTamper (t : Tamper) : Tamper := { t with levelMax := 0, alerted := 0 }

/-- A transition goes on without the job that asked for it. -/
def keptLife (l : Life) : Life := { l with chal := none, trans := l.trans.map fun t => { t with ctx := none } }

/-- The state of the block with everything on the compute die at its reset value. The guard die, the bivouac
domain, the flash, the board and the model's own fields stay. -/
def dieState (s : State) : State :=
  { State.reset with
    tam := keptTamper s.tam
    cairn := { s.cairn with waiting := [] }
    life := keptLife s.life
    board := { s.board with liveOut := false }
    vault := { State.reset.vault with roots := s.vault.roots, binds := s.vault.binds, seeds := s.vault.seeds, trk := s.vault.trk }
    dbg := { s.dbg with chal := none, waitEn := 0, ir := 0xFF }
    mgmt := { State.reset.mgmt with asel := s.mgmt.asel }
    clk := { State.reset.clk with cause := s.clk.cause, resets := s.clk.resets }
    rwq := keptBank s.rwq
    mem := s.mem.filter fun c => decide (0x10000000 ≤ c.1 ∧ c.1 < 0x20000000)
    out := s.out, freeCtr := s.freeCtr, pending := s.pending }

/-- A reset of the compute die with its RST_CAUSE.CAUSE. The debug enables and the Test Root Key outlast it. -/
def dieReset (cause : Nat) (s : State) : State :=
  let t := dieState s
  { t with clk := { t.clk with refSys := true, refEth0 := true, refEth1 := true, cause := cause, resets := min 65535 (s.clk.resets + 1) } }

/-! ### The first boot steps (17 R507, R516) -/

/-- A stage field with 13-15 bits set is completed. -/
def completeField (f : BitVec 16) : BitVec 16 := if 13 ≤ setBits f then 0xFFFF else f

def completeFields (l : Life) : Life :=
  { l with s1 := completeField l.s1, s2 := completeField l.s2, s3 := completeField l.s3, s4 := completeField l.s4, s5 := completeField l.s5 }

/-- The life-cycle word is decoded; PENDING_PWR has been answered. -/
def decodeLife (s : State) : State :=
  let l := if holdReady s then completeFields s.life else s.life
  { s with life := { l with code := lifeCode l, pendingPwr := false, nextSt := 0 } }

/-- A missing 0xE0 record is programmed. INVALID is no state that a transition leads to, and gets none. -/
def missingRecord (s : State) : State :=
  if s.life.code = s.cairn.lastLc ∨ s.life.code = 15 then s else transitionRecord s.cairn.lastLc s.life.code s

/-- An overwrite that a power loss cut short goes on, step by step. -/
def resumeOverwrite (s : State) : State :=
  if s.life.code = 6 ∧ overwritten s.life = false ∧ s.life.trans.isNone then
    { s with life := { s.life with trans := some { old := s.cairn.lastLc, target := 6, left := 25, paused := !holdReady s } } }
  else s

/-- Step 1 on the guard die, then steps 2 and 3: in SCRAPPED and INVALID the sequence stops, else the boot ROM
asks for the HBM keys. -/
def startup (s : State) : State :=
  let s0 := resumeOverwrite (missingRecord (decodeLife (cairnStartup s)))
  let s1 := { s0 with fab := { s0.fab with boot := s0.tam.rtc } }
  if s1.life.code = 6 ∨ s1.life.code = 15 then { s1 with sys := { s1.sys with held := true } }
  else requestDraw .hbmKeys 128 { s1 with sys := { s1.sys with bootStep := 1, unkeyed := (tget s1.vault.roots 0).isNone } }

/-- Main power is lost: the compute die's state ends, debug enables too, and the line falls once its time has
passed (01 R35, 17 R524, 15 R459). -/
def mainLost (s : State) : State :=
  let t := dieState s
  { t with
    sys := { t.sys with mode := .vault }
    vault := { t.vault with trk := false }
    dbg := {}
    board := { t.board with mainPower := false }
    life := { t.life with holdOk := false }
    tam := settleLine false { t.tam with holdDie := false } }

/-! ### The guard die and the bivouac domain (15 R454, R468, 17 R508, 20 R578) -/

/-- Old bits and the new ones that a mask of free bits let through. -/
def blendBytes (old new mask : List Byte) : List Byte :=
  (List.range new.length).map fun i => nthD old i 0 ||| (nthD new i 0 &&& nthD mask i 0)

def blend16 (old new : BitVec 16) (m : List Byte) : BitVec 16 := old ||| (new &&& BitVec.ofNat 16 (leNat (m.take 2)))

/-- Power fails during a programming step: any of its bits may have been programmed (17 R508). -/
def tornStep (s : State) : State :=
  match s.life.trans with
  | none => s
  | some t =>
    let l := s.life
    let n := burnStep t (stepsOf t.target - t.left) l
    let m := freeBytes s 1314
    let l1 := { l with
      s1 := blend16 l.s1 n.s1 m, s2 := blend16 l.s2 n.s2 (m.drop 2), s3 := blend16 l.s3 n.s3 (m.drop 4)
      s4 := blend16 l.s4 n.s4 (m.drop 6), s5 := blend16 l.s5 n.s5 (m.drop 8)
      devId := l.devId ||| (n.devId &&& BitVec.ofNat 64 (leAt m 10 8))
      otpSeed := blendBytes l.otpSeed n.otpSeed (m.drop 18)
      helper := blendBytes l.helper n.helper (m.drop 50)
      owner := blendBytes l.owner n.owner (m.drop 242)
      trims := trimsOf (blendBytes (trimBytes l.trims) (trimBytes n.trims) (m.drop 290)) }
    useBytes 1314 { s with life := { (if t.paused then l else l1) with trans := none } }

/-- The bivouac domain has lost all power: roots, bindings and seeds, the write buffer, the counts of BBRAM,
the configuration bank and the RTC are gone, and the line falls. -/
def bivouacLost (s : State) : State :=
  { s with
    vault := { s.vault with roots := [], binds := [], seeds := [] }
    cairn := { s.cairn with buf := [], waiting := [], ovf := 0, lost := 0 }
    rwq := s.rwq.filter fun p => !inBank p.1
    tam := { s.tam with active := 0, fails := [], checked := [], rtc := 0, rtcFrac := 0, line := false, confirmed := false, released := false } }

/-- The bivouac domain is powered again and checks its BBRAM signature. -/
def bivouacFound (bbramOk : Bool) (s : State) : State :=
  if bbramOk then s
  else cairnPlace 0x71 0 { s with vault := { s.vault with roots := [], binds := [], seeds := [] } }

/-- Sources that only main power senses leave alarm. -/
def onDieEnd (s : State) : State := alarmClear ((List.range' 10 11).filter (inAlarm s)) s

/-- VDD_GUARD fails: that is a loss of main power; the guard die stops, and without VBAT the bivouac domain
does too. -/
def guardLost (s : State) : State :=
  let s1 := onDieEnd (tornStep (if s.sys.mode = .vault then s else mainLost s))
  let s2 := { s1 with
    board := { s1.board with vddGuard := false }
    life := { s1.life with stable := 0, holdOk := false }
    clk := { s1.clk with resets := 0 } }
  if s.board.vbat then s2 else bivouacLost s2

/-! ### The route card boot (17 R516-R518) -/

/-- The slot that the boot ROM reads: the preferred one, then the other. -/
def bootSlot (s : State) : Nat :=
  let pref := fld (inForce s 0x1C0000) 0 1
  if s.sys.bootStep = 1 then pref else 1 - pref

/-- NVM_STAT.A_RESULT or B_RESULT. -/
def setResult (slot code : Nat) (s : State) : State :=
  { s with nvm := if slot = 0 then { s.nvm with aResult := code } else { s.nvm with bResult := code } }

/-- A slot has failed: the other one is read, or the device holds (01 R37). -/
def slotFailed (s : State) : State :=
  if s.sys.bootStep = 1 then { s with sys := { s.sys with bootStep := 2 }, nvm := { s.nvm with fallback := true } }
  else cairnPlace 0x60 3 { s with
    sys := { s.sys with held := true, bootStep := 3 }
    pair := { s.pair with port0 := {}, port1 := {} } }

/-- The key engine derives the hierarchy and the identity keys (11 R327). -/
def deriveHierarchy (s : State) : State :=
  let trk := s.vault.trk || s.dbg.enabled.getLsbD 0 || s.dbg.enabled.getLsbD 1 || s.dbg.enabled.getLsbD 2
  { s with vault := { s.vault with trk := trk, pufOk := true, derived := true, lcs := s.life.code, dbg := b2n (s.dbg.enabled.getLsbD 3) } }

/-- The boot self-tests of units 0-107; the conditioners' tests are those of the entropy startup. -/
def bootTests (bad : List Nat) (s : State) : State :=
  let enter (t : State) (u : Nat) : State :=
    let r := unitRec t u
    if r.st = .fenced || bad.contains u || !r.en then t else setUnit u { r with st := .inService, lastPass := t.sched.pitch, step := 0 } t
  let s1 := (List.range 108).foldl enter s
  ((List.range 108).filter fun u => bad.contains u).foldl (fun t u => unitFault u 2 (t.sched.pitch + 2) t) s1

/-- The SVN floor is raised to the card's SVN, under the hold-up conditions. -/
def raiseFloor (svn : Nat) (s : State) : State :=
  if svnFloor s.life < svn ∧ holdReady s = true then
    { s with life := { s.life with svn := s.life.svn ||| BitVec.ofNat 64 (2 ^ svn - 1) } }
  else s

/-- Step 10: every core goes to the summit firmware. -/
def releaseCores (s : State) : State :=
  let go (t : State) (c : Nat) : State := setCore c { pc := BitVec.ofNat 64 t.world.fwEntry } t
  let s1 := (List.range 8).foldl go s
  { s1 with sys := { s1.sys with bootStep := 4 } }

/-- A verified card boots. -/
def bootCard (slot : Nat) (b : List Byte) (pufOk : Bool) (bad : List Nat) (s : State) : State :=
  let s1 := { s with nvm := { s.nvm with booted := slot } }
  if pufOk then
    let s2 := bootTests bad (applyCard b (deriveHierarchy s1))
    releaseCores (raiseFloor (cardSvn b) { s2 with qm := { s2.qm with arena := true } })
  else f3Fault 487 0 s1

/-- The boot ROM has read the slot. -/
def slotRead (readOk octal : Bool) (image : List Byte) (pufOk : Bool) (bad : List Nat) (s : State) : State :=
  let slot := bootSlot s
  let code := if readOk then cardResult s image else 2
  let s0 := if readOk then storeMem 0x10082000000 (image.take 0x2000000) s else s
  let s1 := setResult slot code { s0 with nvm := { s0.nvm with octal := octal } }
  if code = 1 then bootCard slot image pufOk bad s1 else slotFailed s1

/-! ### Meanings: power and reset -/

/-- MAIN_POWER_UP: with the guard die powered and no avalanche held, the compute die leaves reset. -/
def execMainPowerUp (s : State) : Host.Outcome State Fault Refusal :=
  let off := s.sys.mode == .vault || (s.sys.mode == .startup && s.sys.bootStep == 0 && !s.sys.held)
  .next (
    if off && s.board.vddGuard && !s.tam.line && !s.tam.holdDie then
      startup (dieReset 1 { s with board := { s.board with mainPower := true } })
    else s)

/-- MAIN_POWER_LOST. -/
def execMainPowerLost (s : State) : Host.Outcome State Fault Refusal :=
  .next (if s.sys.mode = .vault then s else mainLost s)

/-- VDD_GUARD_APPEAR: the guard die leaves reset; a bivouac domain that had no power checks its BBRAM. -/
def execVddGuardAppear (bbramOk : Bool) (s : State) : Host.Outcome State Fault Refusal :=
  .next (
    if s.board.vddGuard then s
    else
      let s1 := { s with board := { s.board with vddGuard := true } }
      if s.board.vbat then s1 else bivouacFound bbramOk s1)

/-- VDD_GUARD_DISAPPEAR. -/
def execVddGuardDisappear (s : State) : Host.Outcome State Fault Refusal :=
  .next (if s.board.vddGuard then guardLost s else s)

/-- BACKUP_CELL_CONNECT: VBAT appears; with VDD_GUARD absent it powers the bivouac domain. -/
def execBackupCellConnect (bbramOk : Bool) (s : State) : Host.Outcome State Fault Refusal :=
  .next (
    if s.board.vbat then s
    else
      let s1 := { s with board := { s.board with vbat := true } }
      if s.board.vddGuard then s1 else bivouacFound bbramOk s1)

/-- BACKUP_CELL_REMOVE: without VDD_GUARD the bivouac domain loses all power. -/
def execBackupCellRemove (s : State) : Host.Outcome State Fault Refusal :=
  .next (
    if s.board.vbat then
      let s1 := { s with board := { s.board with vbat := false } }
      if s.board.vddGuard then s1 else bivouacLost s1
    else s)

/-- SYS_RESET_N_ASSERT: ten low samples; ignored in LOCKDOWN and while the guard die holds the compute die. -/
def execSysResetNAssert (s : State) : Host.Outcome State Fault Refusal :=
  .next (if s.sys.mode = .vault ∨ s.sys.mode = .lockdown ∨ s.tam.holdDie = true ∨ s.board.mainPower = false then s else startup (dieReset 3 s))

/-- SYSTEM_RESET_RELEASE: the line's time has passed and every target is confirmed clear (01 R38), and the
programming that the guard die has begun is complete (17 R500, R525), as is every scrub of a domain (18 R547). -/
def execSystemResetRelease (s : State) : Host.Outcome State Fault Refusal :=
  let t := s.tam
  .next (
    if t.line && t.released && t.confirmed && t.after == .systemReset && !t.holdDie && s.board.mainPower && s.life.trans.isNone
        && (List.range 20).all (fun d => (domRec s d).st != 3) then
      startup (dieReset 2 { s with tam := { t with line := false, released := false, confirmed := false } })
    else s)

/-- ROUTE_CARD_SLOT_READ: the boot ROM has read a slot into staging; the HBM has its keys. -/
def execRouteCardSlotRead (readOk octal : Bool) (image : List Byte) (pufOk : Bool) (selfTestFails : List Nat) (s : State) :
    Host.Outcome State Fault Refusal :=
  let due := s.sys.mode == .startup && (s.sys.bootStep == 1 || s.sys.bootStep == 2) && (s.hbm.ready || s.ent.stopped) && !s.tam.line
  .next (if due then slotRead readOk octal image pufOk selfTestFails s else s)

/-- HBM_TEMPERATURE_HIGH: the stack passes 85 C, or falls back below it (20 R577). -/
def execHbmTemperatureHigh (high : Bool) (s : State) : Host.Outcome State Fault Refusal :=
  .next (if dieOn s then { s with hbm := { s.hbm with refreshDoubled := high } } else s)

/-! ### Route card updates (17 R519, R520) -/

/-- First byte of the slot that did not boot, in the NVM window. -/
def inactiveBase (s : State) : Nat := 0x10000000 + (1 - s.nvm.booted) * 0x2000000

/-- The entry of a queue taken over that the failed partner had fetched (17 R519). -/
def wasFetched (s : State) (j : Job) : Bool :=
  match getQueue s j.slot with
  | some q => match q.replayTo with
    | some p => decide (2 ^ 31 ≤ dist j.entry p)
    | none => false
  | none => false

/-- What every update opcode checks first. -/
def rcRefusal (s : State) (j : Job) : Option Nat :=
  if wasFetched s j then some stUnitUnavailable
  else if s.sys.mode ≠ .maintenance then some stUsageDenied
  else none

/-- RC_BEGIN: the token is consumed, the inactive slot erased, and the update opens (the BAD_PARAM cases are a DESIGN
CHOICE, log 131). -/
def rcBegin (j : Job) (s : State) : State × Res :=
  match rcRefusal s j with
  | some st => fail st s
  | none =>
    let len := leAt j.input 16 4
    if j.hdr.inBytes ≠ 72 then fail stBadLength s
    else if tokenValid s j = false then fail stQuorumRequired s
    else if len = 0 ∨ 0x2000000 < len ∨ zeros (sliceB j.input 20 4) = false then fail stBadParam s
    else
      let s1 := consumeToken (j.input.take 16) s
      let a := inactiveBase s
      ({ s1 with
        mem := clearRange s1.mem a (a + 0x2000000)
        nvm := { s1.nvm with updSt := 2, written := 0, updLen := len, updDigest := sliceB j.input 24 48
                             updSession := (getQueue s j.slot).elim 0 fun q => q.session, updData := [] } }, {})

/-- RC_DATA: the data at the next offset (data beyond LENGTH: log 131). -/
def rcData (j : Job) (s : State) : State × Res :=
  match rcRefusal s j with
  | some st => fail st s
  | none =>
    let off := leAt j.input 0 4
    let data := j.input.drop 8
    if j.hdr.inBytes < 8 ∨ (j.hdr.inBytes - 8) % 256 ≠ 0 then fail stBadLength s
    else if s.nvm.updSt ≠ 2 ∨ zeros (sliceB j.input 4 4) = false ∨ off ≠ s.nvm.written ∨ s.nvm.updLen + 255 < off + data.length then fail stBadParam s
    else
      ({ s with
        mem := writeBytes s.mem (inactiveBase s + off) data
        nvm := { s.nvm with written := s.nvm.written + data.length, updData := s.nvm.updData ++ data } }, {})

/-- RC_FINISH: the digest, then the checks of a card; a success makes the slot preferred. -/
def rcFinish (j : Job) (s : State) : State × Res :=
  match rcRefusal s j with
  | some st => fail st s
  | none =>
    let card := s.nvm.updData.take s.nvm.updLen
    if j.hdr.inBytes ≠ 0 then fail stBadLength s
    else if s.nvm.updSt ≠ 2 then fail stBadParam s
    else if card.length == s.nvm.updLen && crypto .hash [algSha3x384] [card] 48 == padTo 48 s.nvm.updDigest && cardResult s card == 1 then
      let n := 1 - s.nvm.booted
      let v (x : Nat) : Nat := x / 2 * 2 + n
      ({ s with
        rwq := rwqPut s.rwq 0x1C0000 (v (staged s 0x1C0000)) (v (inForce s 0x1C0000))
        nvm := { s.nvm with updSt := 3 } }, {})
    else fail stAuthFail { s with nvm := { s.nvm with updSt := 5 } }

/-- RC_BEGIN. -/
def execRcBegin (ctx : Nat) (s : State) : Host.Outcome State Fault Refusal := .next (runAdmin 0x020 ctx rcBegin s)

/-- RC_DATA. -/
def execRcData (ctx : Nat) (s : State) : Host.Outcome State Fault Refusal := .next (runAdmin 0x021 ctx rcData s)

/-- RC_FINISH. -/
def execRcFinish (ctx : Nat) (s : State) : Host.Outcome State Fault Refusal := .next (runAdmin 0x022 ctx rcFinish s)

end Sys2Proof.Machine
end

