-- ==== Sys2Proof/Machine/Grants.lean ====
section
/-! DEFINITION. Grants of pool bytes to the consumers that wait for them (10 R297, R298). -/

namespace Sys2Proof.Machine

/-- The job that waits for its draw gets the bytes; its row then completes it (10 R297, log 5). -/
def drawForJob (ctx : Nat) (b : List Byte) (s : State) : State :=
  match getJob s ctx with
  | some j => if j.drawWait then setJob ctx { j with drawWait := false, nonce := some b } s else s
  | none => s

/-- What a consumer does with the bytes of its draw. -/
def drawn (d : Draw) (b : List Byte) (s : State) : State :=
  match d with
  | .hbmKeys => { s with
      hbm := { s.hbm with ready := true }, mem := clearRange s.mem 0x10000000000 0x10400000000
      world := dropLines 0x10000000000 0x10400000000 s.world }
  | .accept sid => acceptGrant sid b s
  | .join => joinDrawn b s
  | .proposal ctx | .token ctx | .seed ctx | .lcChal ctx => drawForJob ctx b s
  | .dbgChal => newChallenge b s
  | .salts => serveSalts { s with vault := { s.vault with salts := (s.vault.salts ++ [b]).take 4096 } }
  | .job _ => s
  | .replica member slot gen oper => replicaDrawn member slot gen oper b s

/-- The internal request that has waited longest is granted whole, or blocks those behind it. -/
def grantFirst (s : State) : State :=
  match s.ent.internalQ with
  | [] => s
  | (d, n) :: rest =>
    if canGrant s n then
      drawn d (s.ent.pool.take n) (grantInternal n { s with ent := { s.ent with internalQ := rest } })
    else s

/-- ENTROPY_GRANT: job reservations and the ENT_DATA FIFO come after every internal request. -/
def execEntropyGrant (forJob : Bool) (s : State) : Host.Outcome State Fault Refusal :=
  .next (
    if forJob = false then grantFirst s
    else if s.ent.internalQ.isEmpty && entServes s then grantSecond s
    else s)

end Sys2Proof.Machine
end

