-- ==== Sys2Proof/Machine/Telemetry.lean ====
section
/-! DEFINITION. The SMBus telemetry target (18 R546, R550). -/

namespace Sys2Proof.Machine

/-- The target is powered in every mode but VAULT. -/
def smbusOn (s : State) : Bool := s.sys.mode != .vault

/-- Command 0x01. -/
def telMode (s : State) : Nat := sumF [putF s.sys.mode.code 0 3, bitF 3 s.sys.unkeyed, bitF 4 s.sys.paired]

/-- Command 0x03: NVM_STAT [7:0], or [11:4] in a device held by 01 R37. -/
def telNvm (s : State) : Nat := if s.sys.held then fld (nvmStat s) 4 8 else fld (nvmStat s) 0 8

/-- Block 0x30. -/
def telFaults (s : State) : List Byte :=
  leBytes 4 (fltFirst s) ++ leBytes 4 s.flt.f2 ++ leBytes 4 s.flt.f3 ++
    leBytes 1 s.tam.levelMax ++ leBytes 1 s.sys.fenced ++ leBytes 1 (pairShown s) ++ leBytes 1 0

/-- The values of commands 0x01-0x03 and 0x30 as they stand. -/
def telNow (s : State) : List Byte :=
  leBytes 1 (telMode s) ++ leBytes 1 (s.life.code % 16) ++ leBytes 1 (telNvm s) ++ telFaults s

/-- The values of the latest refresh; before the first one, those that stand (DESIGN CHOICE, log 25). -/
def telSnap (s : State) : List Byte := if s.mgmt.snap.isEmpty then telNow s else s.mgmt.snap

/-- The address that MGMT_ASEL selects. -/
def smbusAddr (s : State) : Nat := 0x4C + b2n s.mgmt.asel

/-- One byte into the CRC-8 of SMBus, x^8 + x^2 + x + 1 (PRESUMED, log 130). -/
def pecStep (c b : Byte) : Byte :=
  (List.range 8).foldl (fun r _ => if r.getLsbD 7 then (r <<< 1) ^^^ 7 else r <<< 1) (c ^^^ b)

/-- PEC of a read of `cmd`: both address bytes, the command, and the bytes that return. -/
def pecOf (addr cmd : Nat) (b : List Byte) : Byte :=
  (leBytes 1 (2 * addr) ++ leBytes 1 cmd ++ leBytes 1 (2 * addr + 1) ++ b).foldl pecStep 0

/-- The target is powered and the transfer is for its address. -/
def smbusHears (x : SmbXfer) (s : State) : Bool := smbusOn s && x.addr == smbusAddr s

/-- A NACKed command or a PEC error. -/
def smbusError (s : State) : State := { s with mgmt := { s.mgmt with errors := satAdd 16 s.mgmt.errors 1 } }

/-- A listed command is answered, with PEC when the host asks for it, and counted in MGMT_STAT.READS; a wrong PEC is
counted in ERRORS and not answered (log 130). `head` is the byte count of a block read, which only the PEC covers
here. -/
def smbusAnswer (x : SmbXfer) (cmd : Nat) (head bytes : List Byte) (s : State) : State :=
  if !smbusHears x s then s
  else if x.pecBad then smbusError s
  else
    emit (.smbus (bytes ++ if x.pec then [pecOf x.addr cmd (head ++ bytes)] else []))
      { s with mgmt := { s.mgmt with reads := satAdd 32 s.mgmt.reads 1 } }

/-- SMBUS_READ_ID: the word 0x9640. -/
def execSmbusReadId (x : SmbXfer) (s : State) : Host.Outcome State Fault Refusal :=
  .next (smbusAnswer x 0 [] (leBytes 2 0x9640) s)

/-- SMBUS_READ_MODE. -/
def execSmbusReadMode (x : SmbXfer) (s : State) : Host.Outcome State Fault Refusal :=
  .next (smbusAnswer x 1 [] (sliceB (telSnap s) 0 1) s)

/-- SMBUS_READ_LIFECYCLE. -/
def execSmbusReadLifecycle (x : SmbXfer) (s : State) : Host.Outcome State Fault Refusal :=
  .next (smbusAnswer x 2 [] (sliceB (telSnap s) 1 1) s)

/-- SMBUS_READ_NVM. -/
def execSmbusReadNvm (x : SmbXfer) (s : State) : Host.Outcome State Fault Refusal :=
  .next (smbusAnswer x 3 [] (sliceB (telSnap s) 2 1) s)

/-- SMBUS_READ_TEMPERATURE: compute die, guard die, HBM stack, SerDes region. -/
def execSmbusReadTemperature (n : Nat) (x : SmbXfer) (s : State) : Host.Outcome State Fault Refusal :=
  .next (smbusAnswer x (0x10 + n) [] (leBytes 2 (nthD s.mgmt.temps n 0)) s)

/-- SMBUS_READ_VOLTAGE: VDD_CORE, VDD_SRAM, VDD_HBM, VDD_GUARD, VBAT. -/
def execSmbusReadVoltage (n : Nat) (x : SmbXfer) (s : State) : Host.Outcome State Fault Refusal :=
  .next (smbusAnswer x (0x20 + n) [] (leBytes 2 (nthD s.mgmt.volts n 0)) s)

/-- SMBUS_READ_FAULT_SUMMARY: 16 bytes of one snapshot. -/
def execSmbusReadFaultSummary (x : SmbXfer) (s : State) : Host.Outcome State Fault Refusal :=
  .next (smbusAnswer x 0x30 (leBytes 1 16) (sliceB (telSnap s) 3 16) s)

/-- SMBUS_UNSUPPORTED_COMMAND: the command byte of a write or of an unlisted command is NACKed and counted in
MGMT_STAT.ERRORS. -/
def execSmbusUnsupportedCommand (x : SmbXfer) (s : State) : Host.Outcome State Fault Refusal :=
  .next (if smbusHears x s then emit .smbusNack (smbusError s) else s)

/-- TELEMETRY_REFRESH: every 1 ms, with the temperatures and voltages measured. -/
def execTelemetryRefresh (temps volts : List Nat) (s : State) : Host.Outcome State Fault Refusal :=
  .next (
    if smbusOn s then { s with mgmt := { s.mgmt with temps := temps, volts := volts, snap := telNow s } } else s)

end Sys2Proof.Machine
end

