-- ==== Sys2Proof/Machine/Dispatch.lean ====
section
/-! DEFINITION. One arm per command: the meaning of each row of the table. -/

namespace Sys2Proof.Machine

def exec (i : Instr) (s : State) : Host.Outcome State Fault Refusal :=
  match i with
  | .railExcursionShort rail mv ns => Sys2Proof.Machine.execRailExcursionShort rail mv ns s
  | .vddGuardAppear bbramOk => Sys2Proof.Machine.execVddGuardAppear bbramOk s
  | .routeCardSlotRead readOk octal image pufOk selfTestFails => Sys2Proof.Machine.execRouteCardSlotRead readOk octal image pufOk selfTestFails s
  | .pitchBoundary ev => Sys2Proof.Machine.execPitchBoundary ev s
  | .contextWaitLimit slot => Sys2Proof.Machine.execContextWaitLimit slot s
  | .segmentEnd unit v => Sys2Proof.Machine.execSegmentEnd unit v s
  | .jobWorkComplete ctx => Sys2Proof.Machine.execJobWorkComplete ctx s
  | .keyLoad ctx ke v => Sys2Proof.Machine.execKeyLoad ctx ke v s
  | .hbmUncorrectableError addr what => Sys2Proof.Machine.execHbmUncorrectableError addr what s
  | .hbmCorrectedError quarter => Sys2Proof.Machine.execHbmCorrectedError quarter s
  | .coldRecordRefetched slot obj => Sys2Proof.Machine.execColdRecordRefetched slot obj s
  | .sweepReservation unit => Sys2Proof.Machine.execSweepReservation unit s
  | .streamTimeout slot sid => Sys2Proof.Machine.execStreamTimeout slot sid s
  | .entropyWaitExpiry ctx => Sys2Proof.Machine.execEntropyWaitExpiry ctx s
  | .entropyGrant forJob => Sys2Proof.Machine.execEntropyGrant forJob s
  | .linkUp port mode => Sys2Proof.Machine.execLinkUp port mode s
  | .linkDown port => Sys2Proof.Machine.execLinkDown port s
  | .arpRequest port ip hdr => Sys2Proof.Machine.execArpRequest port ip hdr s
  | .neighbourSolicitation port ip dad hdr => Sys2Proof.Machine.execNeighbourSolicitation port ip dad hdr s
  | .icmpEcho port src dst payload hdr => Sys2Proof.Machine.execIcmpEcho port src dst payload hdr s
  | .udpDatagramReceive port d => Sys2Proof.Machine.execUdpDatagramReceive port d s
  | .hello port src dst ver tag msg hdr => Sys2Proof.Machine.execHello port src dst ver tag msg hdr s
  | .helloStep3 port src dst sid msg hdr => Sys2Proof.Machine.execHelloStep3 port src dst sid msg hdr s
  | .handshakeTimeout port tag => Sys2Proof.Machine.execHandshakeTimeout port tag s
  | .keyUpdate sess dseq epoch response => Sys2Proof.Machine.execKeyUpdate sess dseq epoch response s
  | .keyUpdateStart sess => Sys2Proof.Machine.execKeyUpdateStart sess s
  | .epochGraceExpiry sess => Sys2Proof.Machine.execEpochGraceExpiry sess s
  | .seqExhausted sess => Sys2Proof.Machine.execSeqExhausted sess s
  | .ringWrite sess dseq qnum units first newPidx data => Sys2Proof.Machine.execRingWrite sess dseq qnum units first newPidx data s
  | .tolyrAck sess cum window delayUs ranges => Sys2Proof.Machine.execTolyrAck sess cum window delayUs ranges s
  | .retransmitTimeout sess dseq => Sys2Proof.Machine.execRetransmitTimeout sess dseq s
  | .ping sess id reply => Sys2Proof.Machine.execPing sess id reply s
  | .idlePing sess => Sys2Proof.Machine.execIdlePing sess s
  | .idleClose sess => Sys2Proof.Machine.execIdleClose sess s
  | .close sess => Sys2Proof.Machine.execClose sess s
  | .pairMoveRepeat sess => Sys2Proof.Machine.execPairMoveRepeat sess s
  | .entryFetch slot => Sys2Proof.Machine.execEntryFetch slot s
  | .createQueue ctx => Sys2Proof.Machine.execCreateQueue ctx s
  | .resizeQueue ctx => Sys2Proof.Machine.execResizeQueue ctx s
  | .resetQueue ctx => Sys2Proof.Machine.execResetQueue ctx s
  | .destroyQueue ctx => Sys2Proof.Machine.execDestroyQueue ctx s
  | .queryQueue ctx => Sys2Proof.Machine.execQueryQueue ctx s
  | .aesEcbEncrypt ctx => Sys2Proof.Machine.execAesEcbEncrypt ctx s
  | .aesEcbDecrypt ctx => Sys2Proof.Machine.execAesEcbDecrypt ctx s
  | .aesCbcEncrypt ctx => Sys2Proof.Machine.execAesCbcEncrypt ctx s
  | .aesCbcDecrypt ctx => Sys2Proof.Machine.execAesCbcDecrypt ctx s
  | .aesCfbEncrypt ctx => Sys2Proof.Machine.execAesCfbEncrypt ctx s
  | .aesCfbDecrypt ctx => Sys2Proof.Machine.execAesCfbDecrypt ctx s
  | .aesOfbEncrypt ctx => Sys2Proof.Machine.execAesOfbEncrypt ctx s
  | .aesOfbDecrypt ctx => Sys2Proof.Machine.execAesOfbDecrypt ctx s
  | .aesCtrEncrypt ctx => Sys2Proof.Machine.execAesCtrEncrypt ctx s
  | .aesCtrDecrypt ctx => Sys2Proof.Machine.execAesCtrDecrypt ctx s
  | .xtsAesEncrypt ctx => Sys2Proof.Machine.execXtsAesEncrypt ctx s
  | .xtsAesDecrypt ctx => Sys2Proof.Machine.execXtsAesDecrypt ctx s
  | .aesGcmEncrypt ctx => Sys2Proof.Machine.execAesGcmEncrypt ctx s
  | .aesGcmDecrypt ctx => Sys2Proof.Machine.execAesGcmDecrypt ctx s
  | .aesGmacGenerate ctx => Sys2Proof.Machine.execAesGmacGenerate ctx s
  | .aesGmacVerify ctx => Sys2Proof.Machine.execAesGmacVerify ctx s
  | .aesCcmEncrypt ctx => Sys2Proof.Machine.execAesCcmEncrypt ctx s
  | .aesCcmDecrypt ctx => Sys2Proof.Machine.execAesCcmDecrypt ctx s
  | .aesGcmSivEncrypt ctx => Sys2Proof.Machine.execAesGcmSivEncrypt ctx s
  | .aesGcmSivDecrypt ctx => Sys2Proof.Machine.execAesGcmSivDecrypt ctx s
  | .aesKwWrap ctx => Sys2Proof.Machine.execAesKwWrap ctx s
  | .aesKwUnwrap ctx => Sys2Proof.Machine.execAesKwUnwrap ctx s
  | .aesKwpWrap ctx => Sys2Proof.Machine.execAesKwpWrap ctx s
  | .aesKwpUnwrap ctx => Sys2Proof.Machine.execAesKwpUnwrap ctx s
  | .chacha20Poly1305Encrypt ctx => Sys2Proof.Machine.execChacha20Poly1305Encrypt ctx s
  | .chacha20Poly1305Decrypt ctx => Sys2Proof.Machine.execChacha20Poly1305Decrypt ctx s
  | .tdeaEcbEncrypt ctx => Sys2Proof.Machine.execTdeaEcbEncrypt ctx s
  | .tdeaEcbDecrypt ctx => Sys2Proof.Machine.execTdeaEcbDecrypt ctx s
  | .tdeaCbcEncrypt ctx => Sys2Proof.Machine.execTdeaCbcEncrypt ctx s
  | .tdeaCbcDecrypt ctx => Sys2Proof.Machine.execTdeaCbcDecrypt ctx s
  | .hash ctx => Sys2Proof.Machine.execHash ctx s
  | .hashVerify ctx => Sys2Proof.Machine.execHashVerify ctx s
  | .xof ctx => Sys2Proof.Machine.execXof ctx s
  | .hmacGen ctx => Sys2Proof.Machine.execHmacGen ctx s
  | .hmacVerify ctx => Sys2Proof.Machine.execHmacVerify ctx s
  | .kmacGen ctx => Sys2Proof.Machine.execKmacGen ctx s
  | .kmacVerify ctx => Sys2Proof.Machine.execKmacVerify ctx s
  | .cmacGen ctx => Sys2Proof.Machine.execCmacGen ctx s
  | .cmacVerify ctx => Sys2Proof.Machine.execCmacVerify ctx s
  | .kdfCtr ctx => Sys2Proof.Machine.execKdfCtr ctx s
  | .kdfFb ctx => Sys2Proof.Machine.execKdfFb ctx s
  | .kdfDp ctx => Sys2Proof.Machine.execKdfDp ctx s
  | .hkdf ctx => Sys2Proof.Machine.execHkdf ctx s
  | .kdfOnestep ctx => Sys2Proof.Machine.execKdfOnestep ctx s
  | .pbkdf2HmacSha256 ctx => Sys2Proof.Machine.execPbkdf2HmacSha256 ctx s
  | .pbkdf2HmacSha512 ctx => Sys2Proof.Machine.execPbkdf2HmacSha512 ctx s
  | .rsaSignPkcs1 ctx => Sys2Proof.Machine.execRsaSignPkcs1 ctx s
  | .rsaVerifyPkcs1 ctx => Sys2Proof.Machine.execRsaVerifyPkcs1 ctx s
  | .rsaSignPss ctx => Sys2Proof.Machine.execRsaSignPss ctx s
  | .rsaVerifyPss ctx => Sys2Proof.Machine.execRsaVerifyPss ctx s
  | .rsaEncryptOaep ctx => Sys2Proof.Machine.execRsaEncryptOaep ctx s
  | .rsaDecryptOaep ctx => Sys2Proof.Machine.execRsaDecryptOaep ctx s
  | .rsaKeygen ctx => Sys2Proof.Machine.execRsaKeygen ctx s
  | .ecdsaSign ctx => Sys2Proof.Machine.execEcdsaSign ctx s
  | .ecdsaVerify ctx => Sys2Proof.Machine.execEcdsaVerify ctx s
  | .eddsaSign ctx => Sys2Proof.Machine.execEddsaSign ctx s
  | .eddsaVerify ctx => Sys2Proof.Machine.execEddsaVerify ctx s
  | .ecdh ctx => Sys2Proof.Machine.execEcdh ctx s
  | .xdh ctx => Sys2Proof.Machine.execXdh ctx s
  | .ecKeygen ctx => Sys2Proof.Machine.execEcKeygen ctx s
  | .mlkemKeygen ctx => Sys2Proof.Machine.execMlkemKeygen ctx s
  | .mlkemEncaps ctx => Sys2Proof.Machine.execMlkemEncaps ctx s
  | .mlkemDecaps ctx => Sys2Proof.Machine.execMlkemDecaps ctx s
  | .mldsaKeygen ctx => Sys2Proof.Machine.execMldsaKeygen ctx s
  | .mldsaSign ctx => Sys2Proof.Machine.execMldsaSign ctx s
  | .mldsaVerify ctx => Sys2Proof.Machine.execMldsaVerify ctx s
  | .slhdsaKeygen ctx => Sys2Proof.Machine.execSlhdsaKeygen ctx s
  | .slhdsaSign ctx => Sys2Proof.Machine.execSlhdsaSign ctx s
  | .slhdsaVerify ctx => Sys2Proof.Machine.execSlhdsaVerify ctx s
  | .lmsBuild ctx => Sys2Proof.Machine.execLmsBuild ctx s
  | .lmsSign ctx => Sys2Proof.Machine.execLmsSign ctx s
  | .lmsVerify ctx => Sys2Proof.Machine.execLmsVerify ctx s
  | .xmssBuild ctx => Sys2Proof.Machine.execXmssBuild ctx s
  | .xmssSign ctx => Sys2Proof.Machine.execXmssSign ctx s
  | .xmssVerify ctx => Sys2Proof.Machine.execXmssVerify ctx s
  | .hybridCombine ctx => Sys2Proof.Machine.execHybridCombine ctx s
  | .rngBytes ctx => Sys2Proof.Machine.execRngBytes ctx s
  | .entStatus ctx => Sys2Proof.Machine.execEntStatus ctx s
  | .keyGenerate ctx => Sys2Proof.Machine.execKeyGenerate ctx s
  | .keyDestroy ctx => Sys2Proof.Machine.execKeyDestroy ctx s
  | .keySetAttr ctx => Sys2Proof.Machine.execKeySetAttr ctx s
  | .keyQuery ctx => Sys2Proof.Machine.execKeyQuery ctx s
  | .keyGetPublic ctx => Sys2Proof.Machine.execKeyGetPublic ctx s
  | .keyExportPack ctx => Sys2Proof.Machine.execKeyExportPack ctx s
  | .keyRestorePack ctx => Sys2Proof.Machine.execKeyRestorePack ctx s
  | .keyWrapExport ctx => Sys2Proof.Machine.execKeyWrapExport ctx s
  | .keyUnwrapImport ctx => Sys2Proof.Machine.execKeyUnwrapImport ctx s
  | .keyRootDerive ctx => Sys2Proof.Machine.execKeyRootDerive ctx s
  | .rootInit ctx => Sys2Proof.Machine.execRootInit ctx s
  | .rootAssign ctx => Sys2Proof.Machine.execRootAssign ctx s
  | .rootBackup ctx => Sys2Proof.Machine.execRootBackup ctx s
  | .rootRestore ctx => Sys2Proof.Machine.execRootRestore ctx s
  | .qPropose ctx => Sys2Proof.Machine.execQPropose ctx s
  | .qProposeOp ctx => Sys2Proof.Machine.execQProposeOp ctx s
  | .qApprove ctx => Sys2Proof.Machine.execQApprove ctx s
  | .qWithdraw ctx => Sys2Proof.Machine.execQWithdraw ctx s
  | .qCommit ctx => Sys2Proof.Machine.execQCommit ctx s
  | .qStatus ctx => Sys2Proof.Machine.execQStatus ctx s
  | .qJournal ctx => Sys2Proof.Machine.execQJournal ctx s
  | .maintEnter ctx => Sys2Proof.Machine.execMaintEnter ctx s
  | .maintExit ctx => Sys2Proof.Machine.execMaintExit ctx s
  | .zeroize ctx => Sys2Proof.Machine.execZeroize ctx s
  | .partCreate ctx => Sys2Proof.Machine.execPartCreate ctx s
  | .partDelete ctx => Sys2Proof.Machine.execPartDelete ctx s
  | .officerEnrol ctx => Sys2Proof.Machine.execOfficerEnrol ctx s
  | .officerRemove ctx => Sys2Proof.Machine.execOfficerRemove ctx s
  | .clientEnrol ctx => Sys2Proof.Machine.execClientEnrol ctx s
  | .clientRemove ctx => Sys2Proof.Machine.execClientRemove ctx s
  | .regBackup ctx => Sys2Proof.Machine.execRegBackup ctx s
  | .regRestore ctx => Sys2Proof.Machine.execRegRestore ctx s
  | .proposalDeadlineExpiry pslot => Sys2Proof.Machine.execProposalDeadlineExpiry pslot s
  | .tokenExpiry pslot => Sys2Proof.Machine.execTokenExpiry pslot s
  | .stagedRegisterWrite off v => Sys2Proof.Machine.execStagedRegisterWrite off v s
  | .cairnRead ctx => Sys2Proof.Machine.execCairnRead ctx s
  | .lcTransition ctx => Sys2Proof.Machine.execLcTransition ctx s
  | .lcChallenge ctx => Sys2Proof.Machine.execLcChallenge ctx s
  | .lcTrim index v => Sys2Proof.Machine.execLcTrim index v s
  | .rcBegin ctx => Sys2Proof.Machine.execRcBegin ctx s
  | .rcData ctx => Sys2Proof.Machine.execRcData ctx s
  | .rcFinish ctx => Sys2Proof.Machine.execRcFinish ctx s
  | .tenantFunctionCall ctx => Sys2Proof.Machine.execTenantFunctionCall ctx s
  | .tenantFunctionTimeout ctx => Sys2Proof.Machine.execTenantFunctionTimeout ctx s
  | .worldTfDone core tf unit => Sys2Proof.Machine.execWorldTfDone core tf unit s
  | .qmIpidx core slot newPidx => Sys2Proof.Machine.execQmIpidx core slot newPidx s
  | .worldIqCreate sizeLog2 tf => Sys2Proof.Machine.execWorldIqCreate sizeLog2 tf s
  | .worldIqReset slot => Sys2Proof.Machine.execWorldIqReset slot s
  | .worldIqDestroy slot => Sys2Proof.Machine.execWorldIqDestroy slot s
  | .belay core rd rs1 tag => Sys2Proof.Machine.execBelay core rd rs1 tag s
  | .lower core rs1 => Sys2Proof.Machine.execLower core rs1 s
  | .anchor core => Sys2Proof.Machine.execAnchor core s
  | .gatewayInstructionIllegal core word => Sys2Proof.Machine.execGatewayInstructionIllegal core word s
  | .worldCsrAccess core csr wr rd => Sys2Proof.Machine.execWorldCsrAccess core csr wr rd s
  | .summitInterrupt core => Sys2Proof.Machine.execSummitInterrupt core s
  | .baseInterrupt core => Sys2Proof.Machine.execBaseInterrupt core s
  | .worldSclaim core => Sys2Proof.Machine.execWorldSclaim core s
  | .worldBclaim core => Sys2Proof.Machine.execWorldBclaim core s
  | .worldSdone src => Sys2Proof.Machine.execWorldSdone src s
  | .worldBdone src => Sys2Proof.Machine.execWorldBdone src s
  | .doubleTrap core cause tval => Sys2Proof.Machine.execDoubleTrap core cause tval s
  | .summitFirmwareCopyDone integrityOk => Sys2Proof.Machine.execSummitFirmwareCopyDone integrityOk s
  | .fabricAccess acc => Sys2Proof.Machine.execFabricAccess acc s
  | .entDataRead width64 devMtype => Sys2Proof.Machine.execEntDataRead width64 devMtype s
  | .entKatIn v => Sys2Proof.Machine.execEntKatIn v s
  | .entropyStartupTestsEnd badBanks badConds => Sys2Proof.Machine.execEntropyStartupTestsEnd badBanks badConds s
  | .aptWindowClose bank => Sys2Proof.Machine.execAptWindowClose bank s
  | .estimatorWindowClose bank ones corrs => Sys2Proof.Machine.execEstimatorWindowClose bank ones corrs s
  | .healthTestFail bank cause cell value => Sys2Proof.Machine.execHealthTestFail bank cause cell value s
  | .conditionerBlockDone cond bank => Sys2Proof.Machine.execConditionerBlockDone cond bank s
  | .laneDisable n => Sys2Proof.Machine.execLaneDisable n s
  | .laneEnable n => Sys2Proof.Machine.execLaneEnable n s
  | .hashCoreDisable n => Sys2Proof.Machine.execHashCoreDisable n s
  | .hashCoreEnable n => Sys2Proof.Machine.execHashCoreEnable n s
  | .pkeCoreDisable n => Sys2Proof.Machine.execPkeCoreDisable n s
  | .pkeCoreEnable n => Sys2Proof.Machine.execPkeCoreEnable n s
  | .latSliceDisable n => Sys2Proof.Machine.execLatSliceDisable n s
  | .latSliceEnable n => Sys2Proof.Machine.execLatSliceEnable n s
  | .keSlotDisable n => Sys2Proof.Machine.execKeSlotDisable n s
  | .keSlotEnable n => Sys2Proof.Machine.execKeSlotEnable n s
  | .unitDrainEnd unit => Sys2Proof.Machine.execUnitDrainEnd unit s
  | .unitScrubEnd unit => Sys2Proof.Machine.execUnitScrubEnd unit s
  | .ethCfgWrite port v => Sys2Proof.Machine.execEthCfgWrite port v s
  | .tolSclose sid => Sys2Proof.Machine.execTolSclose sid s
  | .pitchCtxwaitWrite v => Sys2Proof.Machine.execPitchCtxwaitWrite v s
  | .pitchPcapWrite v => Sys2Proof.Machine.execPitchPcapWrite v s
  | .evcValWrite n v => Sys2Proof.Machine.execEvcValWrite n v s
  | .eventCounterOverflow n => Sys2Proof.Machine.execEventCounterOverflow n s
  | .registerWrite off half v => Sys2Proof.Machine.execRegisterWrite off half v s
  | .pwrReqSummit dom req => Sys2Proof.Machine.execPwrReqSummit dom req s
  | .pwrReqBase dom req => Sys2Proof.Machine.execPwrReqBase dom req s
  | .pwrCancel dom => Sys2Proof.Machine.execPwrCancel dom s
  | .pwrOwnerWrite dom base => Sys2Proof.Machine.execPwrOwnerWrite dom base s
  | .pwrLeaseWrite dom lease => Sys2Proof.Machine.execPwrLeaseWrite dom lease s
  | .domainDrainEnd dom => Sys2Proof.Machine.execDomainDrainEnd dom s
  | .domainScrubEnd dom => Sys2Proof.Machine.execDomainScrubEnd dom s
  | .domainPowerGood dom => Sys2Proof.Machine.execDomainPowerGood dom s
  | .domainSelfTestEnd dom bad => Sys2Proof.Machine.execDomainSelfTestEnd dom bad s
  | .pinLoopCheck tampIn mesh reads => Sys2Proof.Machine.execPinLoopCheck tampIn mesh reads s
  | .meshCheck outer inner reads => Sys2Proof.Machine.execMeshCheck outer inner reads s
  | .detectorAlarm reads => Sys2Proof.Machine.execDetectorAlarm reads s
  | .detectorAlarmClear src => Sys2Proof.Machine.execDetectorAlarmClear src s
  | .disagreementWindowExpiry cls us => Sys2Proof.Machine.execDisagreementWindowExpiry cls us s
  | .ropeLinkUp port => Sys2Proof.Machine.execRopeLinkUp port s
  | .ropePortLost port => Sys2Proof.Machine.execRopePortLost port s
  | .joinHello hd devId role dir nonce => Sys2Proof.Machine.execJoinHello hd devId role dir nonce s
  | .joinAttest hd att => Sys2Proof.Machine.execJoinAttest hd att s
  | .joinKey hd kem point => Sys2Proof.Machine.execJoinKey hd kem point s
  | .bulk hd seq r => Sys2Proof.Machine.execBulk hd seq r s
  | .heartbeat hd seq mode state pitch acked trust holds rttNs => Sys2Proof.Machine.execHeartbeat hd seq mode state pitch acked trust holds rttNs s
  | .ropeAck hd seq acked => Sys2Proof.Machine.execRopeAck hd seq acked s
  | .ropeResendTimeout cls seq => Sys2Proof.Machine.execRopeResendTimeout cls seq s
  | .portSilence port => Sys2Proof.Machine.execPortSilence port s
  | .fence hd seq reason => Sys2Proof.Machine.execFence hd seq reason s
  | .state hd seq c => Sys2Proof.Machine.execState hd seq c s
  | .head hd seq session qnum chead streams => Sys2Proof.Machine.execHead hd seq session qnum chead streams s
  | .session hd seq pos => Sys2Proof.Machine.execSession hd seq pos s
  | .entryUnits hd seq session qnum first data => Sys2Proof.Machine.execEntryUnits hd seq session qnum first data s
  | .forward hd seq m => Sys2Proof.Machine.execForward hd seq m s
  | .handover hd seq kind sessions addrs => Sys2Proof.Machine.execHandover hd seq kind sessions addrs s
  | .smbusReadTemperature n x => Sys2Proof.Machine.execSmbusReadTemperature n x s
  | .smbusReadVoltage n x => Sys2Proof.Machine.execSmbusReadVoltage n x s
  | .telemetryRefresh temps volts => Sys2Proof.Machine.execTelemetryRefresh temps volts s
  | .arpReply port ip mac hdr => Sys2Proof.Machine.execArpReply port ip mac hdr s
  | .neighbourAdvertisement port ip mac hdr => Sys2Proof.Machine.execNeighbourAdvertisement port ip mac hdr s
  | .mainPowerUp => Sys2Proof.Machine.execMainPowerUp s
  | .mainPowerLost => Sys2Proof.Machine.execMainPowerLost s
  | .vddGuardDisappear => Sys2Proof.Machine.execVddGuardDisappear s
  | .sysResetNAssert => Sys2Proof.Machine.execSysResetNAssert s
  | .systemResetRelease => Sys2Proof.Machine.execSystemResetRelease s
  | .quoCmtGo => Sys2Proof.Machine.execQuoCmtGo s
  | .acuEpochSwitch => Sys2Proof.Machine.execAcuEpochSwitch s
  | .lcChallengeExpiry => Sys2Proof.Machine.execLcChallengeExpiry s
  | .antifuseStepComplete => Sys2Proof.Machine.execAntifuseStepComplete s
  | .holdupRestored => Sys2Proof.Machine.execHoldupRestored s
  | .worldSwdogKick => Sys2Proof.Machine.execWorldSwdogKick s
  | .worldBwdogKick => Sys2Proof.Machine.execWorldBwdogKick s
  | .summitWatchdogExpiry => Sys2Proof.Machine.execSummitWatchdogExpiry s
  | .baseWatchdogExpiry => Sys2Proof.Machine.execBaseWatchdogExpiry s
  | .worldCtlRestart => Sys2Proof.Machine.execWorldCtlRestart s
  | .worldCtlReady => Sys2Proof.Machine.execWorldCtlReady s
  | .restartTimeout => Sys2Proof.Machine.execRestartTimeout s
  | .acuBootcmt => Sys2Proof.Machine.execAcuBootcmt s
  | .entKatStart => Sys2Proof.Machine.execEntKatStart s
  | .entKatOutRead => Sys2Proof.Machine.execEntKatOutRead s
  | .entropyStartup => Sys2Proof.Machine.execEntropyStartup s
  | .entropyOutputOpen => Sys2Proof.Machine.execEntropyOutputOpen s
  | .evcCtlClear => Sys2Proof.Machine.execEvcCtlClear s
  | .vbatLow mv => Sys2Proof.Machine.execVbatLow mv s
  | .xtalStop => Sys2Proof.Machine.execXtalStop s
  | .avalancheLineRelease => Sys2Proof.Machine.execAvalancheLineRelease s
  | .clearConfirmation => Sys2Proof.Machine.execClearConfirmation s
  | .clearConfirmationTimeout => Sys2Proof.Machine.execClearConfirmationTimeout s
  | .cairnBufferProgram => Sys2Proof.Machine.execCairnBufferProgram s
  | .cairnRecordProgrammed => Sys2Proof.Machine.execCairnRecordProgrammed s
  | .joinStart => Sys2Proof.Machine.execJoinStart s
  | .bulkCopyEnd => Sys2Proof.Machine.execBulkCopyEnd s
  | .joinWaitExpiry => Sys2Proof.Machine.execJoinWaitExpiry s
  | .heartbeatTimer => Sys2Proof.Machine.execHeartbeatTimer s
  | .liveLineStop => Sys2Proof.Machine.execLiveLineStop s
  | .addressAnnounceRepeat => Sys2Proof.Machine.execAddressAnnounceRepeat s
  | .announceTimer => Sys2Proof.Machine.execAnnounceTimer s
  | .fabDupClear => Sys2Proof.Machine.execFabDupClear s
  | .bypass => Sys2Proof.Machine.execBypass s
  | .idcode => Sys2Proof.Machine.execIdcode s
  | .samplePreload => Sys2Proof.Machine.execSamplePreload s
  | .extest => Sys2Proof.Machine.execExtest s
  | .clamp => Sys2Proof.Machine.execClamp s
  | .highz => Sys2Proof.Machine.execHighz s
  | .dbgChal => Sys2Proof.Machine.execDbgChal s
  | .dbgChallengeExpiry => Sys2Proof.Machine.execDbgChallengeExpiry s
  | .dbgStatus => Sys2Proof.Machine.execDbgStatus s
  | .dbgDrop => Sys2Proof.Machine.execDbgDrop s
  | .smbusReadId x => Sys2Proof.Machine.execSmbusReadId x s
  | .smbusReadMode x => Sys2Proof.Machine.execSmbusReadMode x s
  | .smbusReadLifecycle x => Sys2Proof.Machine.execSmbusReadLifecycle x s
  | .smbusReadNvm x => Sys2Proof.Machine.execSmbusReadNvm x s
  | .smbusReadFaultSummary x => Sys2Proof.Machine.execSmbusReadFaultSummary x s
  | .smbusUnsupportedCommand x => Sys2Proof.Machine.execSmbusUnsupportedCommand x s
  | .liveLineStart => Sys2Proof.Machine.execLiveLineStart s
  | .backupCellRemove => Sys2Proof.Machine.execBackupCellRemove s
  | .lldpTimer port => Sys2Proof.Machine.execLldpTimer port s
  | .lldpReceive port hdr => Sys2Proof.Machine.execLldpReceive port hdr s
  | .neighbourResolutionRetry port ip => Sys2Proof.Machine.execNeighbourResolutionRetry port ip s
  | .neighbourExpiry port ip => Sys2Proof.Machine.execNeighbourExpiry port ip s
  | .pfcPauseReceive port prio quanta => Sys2Proof.Machine.execPfcPauseReceive port prio quanta s
  | .pfcPauseSend port fillPct => Sys2Proof.Machine.execPfcPauseSend port fillPct s
  | .ethMsecKey port handle => Sys2Proof.Machine.execEthMsecKey port handle s
  | .ethMsecTxAn port an => Sys2Proof.Machine.execEthMsecTxAn port an s
  | .refclkEthLoss n => Sys2Proof.Machine.execRefclkEthLoss n s
  | .relay hd seq port src datagram => Sys2Proof.Machine.execRelay hd seq port src datagram s
  | .announce hd second fromSelf routes => Sys2Proof.Machine.execAnnounce hd second fromSelf routes s
  | .routeExpiry dst => Sys2Proof.Machine.execRouteExpiry dst s
  | .replicate hd oper slot gen pack => Sys2Proof.Machine.execReplicate hd oper slot gen pack s
  | .replAck hd slot gen => Sys2Proof.Machine.execReplAck hd slot gen s
  | .replicateRetry member slot => Sys2Proof.Machine.execReplicateRetry member slot s
  | .fabricRelay hd => Sys2Proof.Machine.execFabricRelay hd s
  | .dbgToken token => Sys2Proof.Machine.execDbgToken token s
  | .dbgAccess acc halt => Sys2Proof.Machine.execDbgAccess acc halt s
  | .duplicateAddressDetectionEnd port => Sys2Proof.Machine.execDuplicateAddressDetectionEnd port s
  | .pfcPauseExpiry port prio => Sys2Proof.Machine.execPfcPauseExpiry port prio s
  | .backupCellConnect bbramOk => Sys2Proof.Machine.execBackupCellConnect bbramOk s
  | .mret core => Sys2Proof.Machine.execMret core s
  | .trapEntry core cause tval => Sys2Proof.Machine.execTrapEntry core cause tval s
  | .hbmTemperatureHigh high => Sys2Proof.Machine.execHbmTemperatureHigh high s

end Sys2Proof.Machine
end

