-- ==== Sys2Proof/Safety.lean ====
section
/-! DEFINITION. What a safe run of the block is. -/

namespace Sys2Proof.Machine

/-- A step that leaves the block in a state: neither a fault nor a refusal. -/
def Completes (o : Host.Outcome State Fault Refusal) : Prop := ∃ t, o = .next t

/-- A run of `n` steps is safe when no step of it stops. -/
def SafeRun (n : Nat) (s : State) : Prop := Completes (Sys2Proof.core.run n s)

end Sys2Proof.Machine
end

