-- ==== Sys2Proof/Certificates/Slice0/Obligations.lean ====
section
/-! DEFINITION. The statements about the block that the provers prove, and the few words they are said in. -/

namespace Sys2Proof.Machine

/-! ### The words of the statements -/

/-- A row of an opcode: the opcode, and the command that runs it for the job in a context. -/
abbrev OpRow := Nat × (Nat → Instr)

/-- Between the two states only the job in `ctx` and the counters of jobs and events differ: every register,
every key, every queue, every session, every byte of memory and every other job stands. -/
def JobOnly (ctx : Nat) (s t : State) : Prop :=
  { t with sched := { t.sched with jobs := s.sched.jobs }, cnt := s.cnt, evc := s.evc } = s
    ∧ ∀ c, c ≠ ctx → getJob t c = getJob s c

/-- Between the two states only the job in `ctx` differs. -/
def JobAlone (ctx : Nat) (s t : State) : Prop :=
  { t with sched := { t.sched with jobs := s.sched.jobs } } = s ∧ ∀ c, c ≠ ctx → getJob t c = getJob s c

/-- The data of the stream so far and those of the entry are whole blocks of `n` bytes. -/
abbrev WholeBlocks (n : Nat) (s : State) (j : Job) : Prop :=
  (streamOf s j).data.length % n = 0 ∧ (paddedData j).length % n = 0

/-- What a first or single entry puts before its ciphertext: the IV or nonce bound to it. -/
def headOf (j : Job) : List Byte := if j.hdr.isFirst then j.nonce.getD [] else []

/-- The command answers the state given, but for the counters of jobs and events. -/
def Gives (c : Instr) (s u : State) : Prop := ∃ t, exec c s = .next t ∧ { t with cnt := u.cnt, evc := u.evc } = u

/-- Between the two states only the record of unit `u` differs. -/
def UnitOnly (u : Nat) (s t : State) : Prop :=
  { t with units := s.units } = s ∧ ∀ v, v ≠ u → unitRec t v = unitRec s v

/-- Between the two states only the record of power domain `d` differs. -/
def DomainOnly (d : Nat) (s t : State) : Prop :=
  { t with clk := { t.clk with doms := s.clk.doms } } = s ∧ ∀ e, e ≠ d → domRec t e = domRec s e

/-- Between the two states request `q` (0 on, 1 gated, 2 off) of a world has begun to act on domain `d`: an on
request during a shutdown is pending and leaves it as it is; an off domain powers up, an on one drains, a gated one
waits for the boundary or is switched off. -/
def Requested (d q : Nat) (base : Bool) (s t : State) : Prop :=
  let r := domRec s d
  let k := domRec t d
  if q = 0 ∧ (r.st = 2 ∨ r.st = 3 ∨ (r.st = 0 ∧ r.goingOff = true)) then k.st = r.st ∧ k.req = r.req ∧ k.byBase = r.byBase ∧ k.pend = true
  else k.req = q ∧ k.byBase = base ∧ (q ≠ 0 → k.pend = false) ∧ (q = 0 ∧ r.st = 4 → k.pend = true)
    ∧ k.goingOff = (r.goingOff || (q == 2 && r.st == 4))
    ∧ k.st = if q = 0 then (if r.st = 0 then 5 else r.st) else if r.st = 1 then 2 else if r.st = 4 ∧ q = 2 then 0 else r.st

/-- The accesses of a host port to its frame buffers are let through. -/
def BuffersOpen (p : Nat) (s : State) : Prop := ∀ len k, bufferAccess p len k s = (true, s)

/-- A frame without a MACsec tag that a port without MACsec takes: the port is up and may use its buffers, its FCS is
good and its VLAN tag is one that the port accepts. -/
abbrev PlainIn (p : Nat) (h : LinkHdr) (s : State) : Prop :=
  (getEth s p).up = true ∧ BuffersOpen p s ∧ (getEth s p).macsec = false ∧ h.fcsOk = true ∧ h.sec = none
    ∧ vlanOk (getEth s p) h = true

/-- A frame as it leaves a port unsecured, with its MAC addresses and the tag of the port. -/
def unsecuredOut (p : Nat) (s : State) (f : OutEv) : OutEv :=
  let e := getEth s p
  withNet { netOf f with macs := frameMacs s p f, tag := if e.vlan then some (e.vid, framePrio e f) else none } f

/-- A frame of an address or control protocol as it leaves a port unsecured, from the source address `src` of a reply. -/
def taggedOut (p kind : Nat) (b : List Byte) (src : Nat) (s : State) : OutEv :=
  unsecuredOut p s (.eth p kind b { src, bytes := b })

/-- A frame of the partner with the body `b` is whole: its fields fit the port and the body, and its class is `cls`. -/
abbrev FitsFor (h : RopeHdr) (cls : Nat) (b : RopeBody) (s : State) : Prop :=
  ropeFits s h b = true ∧ h.cls = cls ∧ h.type.all (· == ropeType b) = true

/-- A protected frame of the partner that is whole, and whose bytes nothing disturbed. -/
abbrev Intact (h : RopeHdr) (cls : Nat) (b : RopeBody) (s : State) : Prop :=
  s.pair.keys = true ∧ FitsFor h cls b s ∧ h.flips.all (· == 0) = true

/-- A cleartext frame of a join that fits the port, before there are pair keys. -/
abbrev JoinIn (h : RopeHdr) (b : RopeBody) (s : State) : Prop := s.pair.keys = false ∧ FitsFor h 0 b s

/-- A frame of a fabric member that is whole and new: its fields fit the port, nothing disturbed its bytes, and the
window of its sender becomes `w`. -/
abbrev Heard (h : FabHdr) (w : Nat × List Nat) (s : State) : Prop :=
  fabricFits s h = true ∧ s.sys.unkeyed = false ∧ h.flips.all (· == 0) = true ∧ fabricWindow s h.src h.boot h.seq = some w

/-- A complete HELLO message under a SESSION_ID field reaches the device on a port that is up without MACsec, at an
address that the port answers for, and no fragments of it wait there. -/
abbrev HelloIn (p src dst key : Nat) (h : LinkHdr) (s : State) : Prop :=
  p < 4 ∧ PlainIn p h s ∧ portsAllowed s = true ∧ answersFor s p dst = true ∧ s.sys.handedOver = false
    ∧ ∀ a ∈ (getEth s p).asm, ¬ (a.src = src ∧ a.key = key)

/-- The session in slot `i` is closing. -/
def Closing (t : State) (i : Nat) : Prop := ∃ y, getSess t i = some y ∧ y.st = 3

/-- Core `c` has taken a trap of machine level with a cause and a value: its pc is saved in mepc, the cause and
the value in mcause and mtval, and it goes on at mtvec at machine level with its general registers as they were. -/
def TrapsTo (c : Nat) (intr : Bool) (cause tval : Nat) (s t : State) : Prop :=
  let r := getCore s c
  let k := getCore t c
  k.priv = 3 ∧ k.base = r.base ∧ k.x = r.x ∧ k.pc = vecTarget (r.csr 0x305) intr cause ∧ k.csr 0x341 = r.pc.toNat
    ∧ k.csr 0x342 = causeWord intr cause ∧ k.csr 0x343 = tval ∧ fld (k.csr 0x300) 11 2 = r.priv ∧ bitAt (k.csr 0x300) 3 = false

/-- The restart of the summit world alone has begun for a trigger: no core is left in it but parked ones, its
SRAM lists no byte; every core of the base world goes on as it was, and so do jobs, queues, keys and quorum. -/
def Restarted (trigger : Nat) (s t : State) : Prop :=
  t.sys.summitRestarting = true ∧ t.world.ready = false ∧ t.world.trigger = trigger ∧ t.world.restarts = satAdd 16 s.world.restarts 1
    ∧ t.world.restartAt = s.sched.pitch ∧ (∀ e ∈ t.mem, e ∈ s.mem ∧ (e.1 < 0x100000 ∨ 0x500000 ≤ e.1))
    ∧ (∀ c < 8, (getCore t c).base = true ∨ (getCore t c).parked = true)
    ∧ (∀ c < 8, (getCore s c).base = true → (getCore t c).base = true ∧ (getCore t c).x = (getCore s c).x
        ∧ (getCore t c).pc = (getCore s c).pc ∧ (getCore t c).priv = (getCore s c).priv ∧ (getCore t c).csrB = (getCore s c).csrB)
    ∧ t.sched = s.sched ∧ t.qm = s.qm ∧ t.vault = s.vault ∧ t.quorum = s.quorum ∧ t.sys.mode = s.sys.mode

/-- A trigger now restarts the summit world: it meets no restart, or one that has failed at most once. -/
abbrev RestartLeft (s : State) : Prop := s.sys.summitRestarting = true → s.world.fails < 2

/-- Unit `u` is fenced, and the job in `ctx` that it ran is on no unit: it starts over, has gone to the
partner, or is complete. -/
def FencedAndFreed (u ctx : Nat) (t : State) : Prop :=
  (unitRec t u).st = .fenced
    ∧ ∃ k, getJob t ctx = some k ∧ k.unit = none ∧ (k.phase = .ready ∨ k.phase = .forwarded ∨ k.phase = .completed)

/-- The job in `ctx` has done its work, which wrote its output from unit `u`: it holds no key any more, and the unit is
free; a core or slice holds nothing of it. No other job and no other unit differs. -/
def Worked (u ctx : Nat) (j : Job) (s t : State) : Prop :=
  getJob t ctx = some { j with workDone := true, keyA := none, keyB := none }
    ∧ { t with sched := { t.sched with jobs := s.sched.jobs }, units := s.units } = s
    ∧ (unitRec t u).job = none ∧ (unitRec t u).seg = false ∧ (unitRec t u).st = (unitRec s u).st
    ∧ (20 ≤ u → u < 100 → (unitRec t u).mem = {})
    ∧ (∀ c, c ≠ ctx → getJob t c = getJob s c) ∧ ∀ v, v ≠ u → unitRec t v = unitRec s v

/-- An F3 fault has led to LOCKDOWN: the line is asserted, and no object and no job is left. -/
def LockedDown (t : State) : Prop := t.sys.mode = .lockdown ∧ t.tam.line = true ∧ t.vault.objs = [] ∧ t.sched.jobs = []

/-- The job in `ctx` holds the result. -/
def Holds (t : State) (ctx : Nat) (r : Res) : Prop := ∃ k, getJob t ctx = some k ∧ k.result = some r

/-- For a job of one of the rows that is past its commit point and has no result, the command answers a next
state in which the job holds a result of which `P` is true. -/
def Answers (rows : List OpRow) (P : Nat → Job → State → State → Res → Prop) : Prop :=
  ∀ p ∈ rows, ∀ (ctx : Nat) (s : State) (j : Job), jobFor s ctx p.1 = some j →
    ∃ t r, exec (p.2 ctx) s = .next t ∧ Holds t ctx r ∧ P ctx j s t r

/-- A result without output: OK where `P` holds, else VERIFY_FAIL. -/
def PassesIff (r : Res) (P : Prop) : Prop := r.out = [] ∧ (P → r.status = stOk) ∧ (¬ P → r.status = stVerifyFail)

/-- For a firmware entry of one of the rows whose turn has come, and whose result no failed partner has
mirrored, the command answers a next state in which the entry holds a result of which `P` is true. -/
def AdminAnswers (rows : List OpRow) (P : Nat → Job → State → State → Res → Prop) : Prop :=
  ∀ p ∈ rows, ∀ (ctx : Nat) (s : State) (j : Job), adminFor s ctx p.1 = some j → j.result = none →
    ∃ t r, exec (p.2 ctx) s = .next t ∧ Holds t ctx r ∧ P ctx j s t r

/-- An object stands in a slot for a plan's partition, family and class; it is live under its handle, and the
output `out` has that handle at `off`. -/
def Made (t : State) (slot part fam cls : Nat) (link : Option Nat) (out : List Byte) (off : Nat) : Prop :=
  ∃ o, tget t.vault.objs slot = some o ∧ o.part = part ∧ o.fam = fam ∧ o.cls = cls ∧ o.link = link ∧ o.lost = false
    ∧ sliceB out off 8 = leBytes 8 (handleOf slot o)

/-- Rows that may write the memory of the address map: accesses and stores of the cores, the rings, staging and
inboxes, firmware copies, a new draw of the memory keys, and whatever may lead to a fault of class F3, an avalanche,
a restart of the summit world or a reset. -/
def mayWrite : Instr → Bool
  | .acuEpochSwitch | .anchor _ | .backupCellRemove | .baseInterrupt _ | .belay _ _ _ _ | .bulkCopyEnd
  | .dbgAccess _ _ | .detectorAlarm _ | .disagreementWindowExpiry _ _ | .domainScrubEnd _ | .domainSelfTestEnd _ _
  | .doubleTrap _ _ _ | .entropyGrant _ | .entropyStartupTestsEnd _ _ | .fabricAccess _ | .fence _ _ _
  | .gatewayInstructionIllegal _ _ | .handover _ _ _ _ _ | .hbmUncorrectableError _ _ | .jobWorkComplete _
  | .keyLoad _ _ _ | .keyUpdate _ _ _ _ | .lcTransition _ | .liveLineStop | .lower _ _ | .mainPowerLost
  | .mainPowerUp | .meshCheck _ _ _ | .mret _ | .pinLoopCheck _ _ _ | .pitchBoundary _ | .portSilence _
  | .railExcursionShort _ _ _ | .rcBegin _ | .rcData _ | .refclkEthLoss _ | .registerWrite _ _ _
  | .restartTimeout | .ringWrite _ _ _ _ _ _ _ | .ropePortLost _ | .routeCardSlotRead _ _ _ _ _ | .rsaKeygen _
  | .segmentEnd _ _ | .summitFirmwareCopyDone _ | .summitInterrupt _ | .summitWatchdogExpiry
  | .sysResetNAssert | .systemResetRelease | .tenantFunctionCall _ | .trapEntry _ _ _ | .unitScrubEnd _
  | .vbatLow _ | .vddGuardDisappear | .worldCsrAccess _ _ _ _ | .worldCtlRestart | .xtalStop | .zeroize _ => true
  | _ => false

/-- Rows that set PITCH_COUNT: the pitch boundary, and what resets the compute die. -/
def setsTime : Instr → Bool
  | .mainPowerLost | .mainPowerUp | .pitchBoundary _ | .sysResetNAssert | .systemResetRelease
  | .vddGuardDisappear => true
  | _ => false

/-- What every step keeps: the memory of the address map in its one canonical form (addresses rising, none in
the boot ROM, no byte listed that an unlisted address reads as), and every statistics and event counter inside
its 48 bits. -/
def Inv (s : State) : Prop :=
  Memory.wf s.mem = true ∧ (∀ p ∈ s.cnt, p.2 < 2 ^ 48) ∧ ∀ p ∈ s.evc.vals, p.2 < 2 ^ 48

end Sys2Proof.Machine

open Sys2Proof Sys2Proof.Machine

/-- Decryption without a tag (06 R184, R185, R199): OK, the mode's plaintext, as many bytes as the entry's data,
nothing else changed. -/
def Obligations.DecryptOpcodesAnswer : Prop :=
  Answers [(0x101, .aesEcbDecrypt), (0x105, .aesCbcDecrypt), (0x109, .aesCfbDecrypt), (0x10D, .aesOfbDecrypt),
      (0x111, .aesCtrDecrypt), (0x119, .xtsAesDecrypt), (0x151, .tdeaEcbDecrypt), (0x155, .tdeaCbcDecrypt)]
    (fun ctx j s t r => r.status = stOk ∧ r.out = cipherOut j.hdr (symIn s j) ∧ JobOnly ctx s t)
  ∧ Answers [(0x109, .aesCfbDecrypt), (0x10D, .aesOfbDecrypt), (0x111, .aesCtrDecrypt)]
      (fun _ j _ _ r => r.out.length = (entryData j).length)
  ∧ Answers [(0x101, .aesEcbDecrypt), (0x105, .aesCbcDecrypt), (0x119, .xtsAesDecrypt)] (fun _ j s _ r =>
      WholeBlocks 16 s j → (j.hdr.opcode = 0x105 → (symIn s j).iv.length = 16) → (j.hdr.opcode = 0x119 → 4 ≤ j.hdr.p1 0 5) →
        r.out.length = (entryData j).length)
  ∧ Answers [(0x151, .tdeaEcbDecrypt), (0x155, .tdeaCbcDecrypt)] (fun _ j s _ r =>
      WholeBlocks 8 s j → (j.hdr.opcode = 0x155 → (symIn s j).iv.length = 8) → r.out.length = (entryData j).length)

/-- Encryption without a tag (06 R184, R185, R188, R191): on a first or single entry the IV bound to it, then the
ciphertext, as long as the data with its padding; the modes that add a key stream are their own inverses. -/
def Obligations.EncryptOpcodesAnswer : Prop :=
  Answers [(0x100, .aesEcbEncrypt), (0x104, .aesCbcEncrypt), (0x108, .aesCfbEncrypt), (0x10C, .aesOfbEncrypt),
      (0x110, .aesCtrEncrypt), (0x118, .xtsAesEncrypt), (0x150, .tdeaEcbEncrypt), (0x154, .tdeaCbcEncrypt)]
    (fun ctx j s t r => r.status = stOk ∧ r.out = headOf j ++ cipherOut j.hdr (symIn s j) ∧ JobOnly ctx s t)
  ∧ Answers [(0x108, .aesCfbEncrypt), (0x10C, .aesOfbEncrypt), (0x110, .aesCtrEncrypt)]
      (fun _ j _ _ r => r.out.length = (headOf j).length + (paddedData j).length)
  ∧ Answers [(0x100, .aesEcbEncrypt), (0x104, .aesCbcEncrypt), (0x118, .xtsAesEncrypt)] (fun _ j s _ r =>
      WholeBlocks 16 s j → 4 ≤ j.hdr.p1 0 5 ∨ j.hdr.opcode ≠ 0x118 → r.out.length = (headOf j).length + (paddedData j).length)
  ∧ Answers [(0x150, .tdeaEcbEncrypt), (0x154, .tdeaCbcEncrypt)] (fun _ j s _ r =>
      WholeBlocks 8 s j → r.out.length = (headOf j).length + (paddedData j).length)
  ∧ ∀ key b d, ctrMode key b (ctrMode key b d) = d ∧ ofbMode key b (ofbMode key b d) = d
      ∧ gcmCrypt key b (gcmCrypt key b d) = d ∧ ccmCrypt key b (ccmCrypt key b d) = d
      ∧ chachaCrypt key b (chachaCrypt key b d) = d

/-- Authenticated encryption (06 R188): nonce on the first entry, ciphertext, tag on the last. -/
def Obligations.SealOpcodesAnswer : Prop :=
  Answers [(0x120, .aesGcmEncrypt), (0x128, .aesCcmEncrypt), (0x12C, .aesGcmSivEncrypt),
      (0x140, .chacha20Poly1305Encrypt)]
    fun ctx j s t r =>
      JobOnly ctx s t ∧ r.status = stOk
        ∧ r.out = headOf j ++ cipherOut j.hdr (symIn s j) ++ (if j.hdr.isLast then tagOut j.hdr (symIn s j) else [])
        ∧ r.out.length = (headOf j).length + (entryData j).length + (if j.hdr.isLast then min 16 (tagLen j.hdr) else 0)

/-- Authenticated decryption (05 R163): middle entries return nothing; the last returns the whole held
plaintext when the tag verifies and AUTH_FAIL without output when it does not. -/
def Obligations.OpenOpcodesHoldPlaintext : Prop :=
  Answers [(0x121, .aesGcmDecrypt), (0x129, .aesCcmDecrypt), (0x12D, .aesGcmSivDecrypt),
      (0x141, .chacha20Poly1305Decrypt)]
    fun ctx j s t r =>
      JobOnly ctx s t
        ∧ (j.hdr.isLast = false → r.status = stOk ∧ r.out = [])
        ∧ (j.hdr.isLast = true → tagOk j.hdr (symIn s j) (inputTag j) = true →
            r.status = stOk ∧ r.out = cipherWhole j.hdr (symIn s j)
              ∧ r.out.length = (streamOf s j).data.length + (entryData j).length)
        ∧ (j.hdr.isLast = true → tagOk j.hdr (symIn s j) (inputTag j) = false → r.status = stAuthFail ∧ r.out = [])

/-- GMAC, KW and KWP (06 R184, R188). -/
def Obligations.MacAndWrapOpcodesAnswer : Prop :=
  Answers [(0x124, .aesGmacGenerate)] (fun ctx j s t r =>
      let x := symIn s j
      JobOnly ctx s t ∧ r.status = stOk ∧ r.out = (if j.hdr.isLast then x.iv ++ tagOut j.hdr x else [])
        ∧ r.out.length = if j.hdr.isLast then x.iv.length + min 16 (tagLen j.hdr) else 0)
  ∧ Answers [(0x125, .aesGmacVerify)] (fun ctx j s t r =>
      JobOnly ctx s t ∧ r.out = []
        ∧ r.status = if !j.hdr.isLast || tagOk j.hdr (symIn s j) (inputTag j) then stOk else stAuthFail)
  ∧ Answers [(0x130, .aesKwWrap)] (fun _ j _ _ r =>
      r.status = stOk ∧ (j.input.length % 8 = 0 → r.out.length = j.input.length + 8))
  ∧ Answers [(0x132, .aesKwpWrap)] (fun _ j _ _ r => r.status = stOk ∧ r.out.length = kwpLen j.input.length)
  ∧ Answers [(0x131, .aesKwUnwrap)] (fun ctx j s t r =>
      JobOnly ctx s t ∧ r.status = (if unwrapOk 0 (keyMat j) j.input then stOk else stAuthFail)
        ∧ (unwrapOk 0 (keyMat j) j.input = false → r.out = [])
        ∧ (unwrapOk 0 (keyMat j) j.input = true → j.input.length % 8 = 0 → r.out.length = j.input.length - 8))
  ∧ Answers [(0x133, .aesKwpUnwrap)] (fun ctx j s t r =>
      JobOnly ctx s t ∧ r.status = (if unwrapOk 1 (keyMat j) j.input then stOk else stAuthFail)
        ∧ (unwrapOk 1 (keyMat j) j.input = false → r.out = [])
        ∧ (unwrapOk 1 (keyMat j) j.input = true → r.out.length = kwpInner (keyMat j) j.input))

/-- Generate and verify opcodes of the hash engine (07 R216, R222). -/
def Obligations.HashOpcodesAnswer : Prop :=
  (∀ g ∈ ([((0x200, .hash), hashOf), ((0x204, .xof), xofOf), ((0x210, .hmacGen), hmacOf), ((0x214, .kmacGen), kmacOf),
        ((0x218, .cmacGen), cmacOf)] : List (OpRow × (State → Job → List Byte))),
    Answers [g.1] fun ctx j s t r =>
      JobOnly ctx s t ∧ r.status = stOk
        ∧ r.out = if j.hdr.isLast then (g.2 s j).take (hashOutLen j.hdr) else [])
  ∧ ∀ g ∈ ([((0x201, .hashVerify), hashOf, stVerifyFail), ((0x211, .hmacVerify), hmacOf, stAuthFail),
        ((0x215, .kmacVerify), kmacOf, stAuthFail), ((0x219, .cmacVerify), cmacOf, stAuthFail)] :
        List (OpRow × (State → Job → List Byte) × Nat)),
    Answers [g.1] fun ctx j s t r =>
      JobOnly ctx s t ∧ r.out = []
        ∧ r.status = if j.hdr.isLast = true ∧ (g.2.1 s j).take (hashOutLen j.hdr) ≠ expected j then g.2.2 else stOk

/-- Derivations to bytes (07 R217): OUT_LEN bytes, no key. -/
def Obligations.DerivationsAnswerBytes : Prop :=
  Answers [(0x220, .kdfCtr), (0x221, .kdfFb), (0x222, .kdfDp), (0x224, .hkdf), (0x226, .kdfOnestep)] (fun ctx j s t r =>
      destOf j.hdr = 0 → JobOnly ctx s t ∧ r.status = stOk ∧ r.out.length ≤ j.hdr.p0 16 16
        ∧ (0 < algLen (algOf j) → r.out.length = j.hdr.p0 16 16))
  ∧ Answers [(0x228, .pbkdf2HmacSha256), (0x229, .pbkdf2HmacSha512)] (fun ctx j s t r =>
      destOf j.hdr = 0 → JobOnly ctx s t ∧ r.status = stOk ∧ r.out.length = j.hdr.p0 16 16)

/-- Signing and OAEP opcodes (08 R232-R241, 09 R262): output lengths, one failure status, and nothing else. -/
def Obligations.SignatureOpcodesAnswer : Prop :=
  Answers [(0x300, .rsaSignPkcs1), (0x302, .rsaSignPss)] (fun ctx j s t r =>
      JobAlone ctx s t ∧ r.status = stOk ∧ r.out.length = modBytes j)
  ∧ Answers [(0x310, .ecdsaSign)] (fun ctx j s t r =>
      JobAlone ctx s t ∧ r.status = stOk ∧ r.out.length = 2 * (curveLens j).2)
  ∧ Answers [(0x314, .eddsaSign)] (fun ctx j s t r =>
      JobAlone ctx s t ∧ r.status = stOk ∧ r.out.length = if psetOf j = 10 then 64 else 114)
  ∧ Answers [(0x411, .mldsaSign), (0x421, .slhdsaSign)] (fun ctx j s t r =>
      JobAlone ctx s t ∧ r.status = stOk ∧ r.out.length = latOut j.hdr)
  ∧ Answers [(0x304, .rsaEncryptOaep)] (fun ctx j s t r =>
      JobAlone ctx s t
        ∧ if rsaInlineOk j.hdr (modBytes j) (pubKey j) then r.status = stOk ∧ r.out.length = modBytes j
          else r.status = stDecapReject ∧ r.out = [])
  ∧ Answers [(0x305, .rsaDecryptOaep)] (fun ctx j s t r =>
      JobAlone ctx s t
        ∧ let ct := j.input.drop (j.hdr.p0 40 8)
          if beNat ct < rsaN (modBytes j) (keyMat j) ∧ 2 * halgLen j + 2 ≤ modBytes j
              ∧ Config.cryptoOk .rsa [0x305, halgOf j] [keyMat j, j.input.take (j.hdr.p0 40 8), ct] = true
          then r.status = stOk ∧ r.out.length + 2 * halgLen j + 2 ≤ modBytes j
          else r.status = stAuthFail ∧ r.out = [])

/-- Verifications (08 R240, 09 R264): a status and nothing else. -/
def Obligations.VerifyOpcodesAnswer : Prop :=
  Answers [(0x301, .rsaVerifyPkcs1), (0x303, .rsaVerifyPss)] (fun ctx j s t r =>
      let sig := (afterKey j).drop (halgLen j)
      JobAlone ctx s t ∧ PassesIff r
        (rsaInlineOk j.hdr (modBytes j) (pubKey j) = true ∧ beNat sig < rsaN (modBytes j) (pubKey j)
          ∧ Config.cryptoOk .rsa [j.hdr.opcode, halgOf j, j.hdr.p0 16 8] [pubKey j, (afterKey j).take (halgLen j), sig] = true))
  ∧ Answers [(0x311, .ecdsaVerify)] (fun ctx j s t r =>
      let n := j.hdr.p0 24 8
      JobAlone ctx s t ∧ PassesIff r
        ((isInline j.hdr = true → pointOk (psetOf j) (pubKey j) = true)
          ∧ Config.cryptoOk .ecc [0x311, psetOf j] [pubKey j, (afterKey j).take n, (afterKey j).drop n] = true))
  ∧ Answers [(0x315, .eddsaVerify)] (fun ctx j s t r =>
      let k := (afterKey j).length - if psetOf j = 10 then 64 else 114
      let m := (afterKey j).take k
      JobAlone ctx s t ∧ PassesIff r
        (Config.cryptoOk .ecc (edPs 0x315 j) [pubKey j, m.take (edCtx j), m.drop (edCtx j), (afterKey j).drop k] = true))
  ∧ ∀ g ∈ ([((0x412, .mldsaVerify), .lattice, mldsaSig), ((0x422, .slhdsaVerify), .hashSig, slhSig),
        ((0x432, .lmsVerify), .hashSig, statefulSig), ((0x436, .xmssVerify), .hashSig, statefulSig)] :
        List (OpRow × CryptoFn × (Job → Nat))),
      Answers [g.1] fun ctx j s t r =>
        let m := (latBody j).drop (ctxLen j)
        let sig := m.drop (j.hdr.p1 0 16)
        JobAlone ctx s t ∧ PassesIff r
          (sig.length = g.2.2 j ∧ Config.cryptoOk g.2.1 (sigPs j.hdr.opcode j)
            [latKey j, (latBody j).take (ctxLen j), m.take (j.hdr.p1 0 16), sig] = true)

/-- Agreements to bytes (08 R240, 09 R262, R264, R276). -/
def Obligations.AgreementOpcodesAnswer : Prop :=
  Answers [(0x318, .ecdh)] (fun _ j _ _ r =>
      (pointOk (psetOf j) (peerValue j) = false → r.status = stDecapReject ∧ r.out = [])
        ∧ (pointOk (psetOf j) (peerValue j) = true → destOf j.hdr = 0 →
            r.status = stOk ∧ r.out.length = (curveLens j).1))
  ∧ Answers [(0x319, .xdh)] (fun _ j _ _ r =>
      let z := crypto .ecc [0x319, psetOf j] [keyMat j, peerValue j] (curveLens j).1
      (z.all (· == 0) = true → r.status = stDecapReject ∧ r.out = [])
        ∧ (z.all (· == 0) = false → destOf j.hdr = 0 → r.status = stOk ∧ r.out = z))
  ∧ Answers [(0x401, .mlkemEncaps)] (fun _ j _ _ r =>
      let bad := isInline j.hdr && !Config.cryptoOk .lattice [0x401, psetOf j] [afterTemplate j]
      (bad = true → r.status = stDecapReject ∧ r.out = [])
        ∧ (bad = false → destOf j.hdr = 0 → r.status = stOk ∧ r.out.length = (kemLens j).2.2 + 32))
  ∧ Answers [(0x402, .mlkemDecaps)] (fun _ j _ _ r =>
      let ct := (afterTemplate j).drop (if carriesPack j.hdr then (packBytes j.hdr j.input).length else 0)
      (ct.length ≠ (kemLens j).2.2 → r.status = stDecapReject ∧ r.out = [])
        ∧ (ct.length = (kemLens j).2.2 → destOf j.hdr = 0 → r.status = stOk ∧ r.out.length = 32))
  ∧ Answers [(0x440, .hybridCombine)] (fun ctx j s t r =>
      destOf j.hdr = 0 → JobAlone ctx s t ∧ r.status = stOk ∧ r.out.length = j.hdr.p1 0 16)

/-- Creation of keys (07 R219, 09 R262, 11 R317-R325). -/
def Obligations.KeysAreMade : Prop :=
  (∀ g ∈ ([(0x220, .kdfCtr), (0x221, .kdfFb), (0x222, .kdfDp), (0x224, .hkdf), (0x226, .kdfOnestep),
        (0x228, .pbkdf2HmacSha256), (0x229, .pbkdf2HmacSha512), (0x31C, .ecKeygen),
        (0x400, .mlkemKeygen), (0x410, .mldsaKeygen), (0x420, .slhdsaKeygen), (0x500, .keyGenerate)] : List OpRow),
    Answers [g] (fun _ j _ t r =>
      let m := jobTemplate j
      (∀ x l, destOf j.hdr = 1 → m.fam ≠ 2 → j.resSlots = x :: l →
        r.status = stOk ∧ Made t x j.hdr.part m.fam m.cls none r.out 0)
      ∧ ∀ x y l, destOf j.hdr = 2 → m.fam ≠ 2 → x ≠ y → j.resSlots = x :: y :: l →
        r.status = stOk ∧ Made t x j.hdr.part m.fam m.cls (some y) r.out 0
          ∧ Made t y j.hdr.part m.fam m.cls2 (some x) r.out 8))
  ∧ (∀ (ctx : Nat) (s : State) (j : Job), jobFor s ctx 0x308 = some j →
      (rsaAccepts j = true → ∃ t r, exec (.rsaKeygen ctx) s = .next t ∧ Holds t ctx r
        ∧ let m := jobTemplate j
          (∀ x l, destOf j.hdr = 1 → m.fam ≠ 2 → j.resSlots = x :: l →
            r.status = stOk ∧ Made t x j.hdr.part m.fam m.cls none r.out 0)
          ∧ ∀ x y l, destOf j.hdr = 2 → m.fam ≠ 2 → x ≠ y → j.resSlots = x :: y :: l →
            r.status = stOk ∧ Made t x j.hdr.part m.fam m.cls (some y) r.out 0
              ∧ Made t y j.hdr.part m.fam m.cls2 (some x) r.out 8)
      ∧ (rsaAccepts j = false → ∃ t, exec (.rsaKeygen ctx) s = .next t
          ∧ t.vault = s.vault ∧ ∀ k, getJob t ctx = some k → k.result = none))
  ∧ Answers [(0x530, .keyRootDerive)] (fun _ j s t r =>
      let m := jobTemplate j
      (tget s.vault.binds (j.hdr.p0 0 6) ≠ some j.hdr.part → r.status = stPartitionDenied ∧ t.vault = s.vault)
      ∧ ∀ x l, tget s.vault.binds (j.hdr.p0 0 6) = some j.hdr.part → m.fam ≠ 2 → j.resSlots = x :: l →
          r.status = stOk ∧ Made t x j.hdr.part m.fam m.cls none r.out 0)
  ∧ Answers [(0x511, .keyRestorePack)] (fun _ j _ t r =>
      ∀ o x l, j.keyA = some o → o.fam ≠ 2 → j.resSlots = x :: l →
        r.status = stOk ∧ Made t x j.hdr.part o.fam o.cls none r.out 0)

/-- Build streams and stateful signatures (09 R270, R272, R273, R275). -/
def Obligations.StatefulKeysAnswer : Prop :=
  Answers [(0x430, .lmsBuild), (0x434, .xmssBuild)] (fun ctx j s t r =>
      j.hdr.isLast = false → JobAlone ctx s t ∧ r.status = stOk ∧ r.out = []
        ∧ (j.hdr.isFirst = true → ∃ k, getJob t ctx = some k ∧ k.partialOut = jobDraw j))
  ∧ (∀ g ∈ ([(0x431, .lmsSign), (0x435, .xmssSign)] : List OpRow), ∀ (ctx : Nat) (s : State) (j : Job) (o : KeyObj),
      getJob s ctx = some j → j.phase = .ready → j.hdr.opcode = g.1 → j.leaf = none →
      leafHolder s = true → keyAt s j.hdr.keyA = some o →
      ∃ t, exec (g.2 ctx) s = .next t
        ∧ (o.next < leafCount o →
            (∃ k, getJob t ctx = some k ∧ k.leaf = some o.next)
            ∧ ∃ k, tget t.vault.objs (handleSlot j.hdr.keyA) = some k ∧ k.next = o.next + 1 ∧ k.mat = o.mat)
        ∧ (leafCount o ≤ o.next → Holds t ctx { status := stKeyExhausted } ∧ t.vault = s.vault))
  ∧ Answers [(0x431, .lmsSign), (0x435, .xmssSign)] (fun _ j _ _ r =>
      ∀ n o, j.leaf = some n → j.keyA = some o →
        r.status = stOk ∧ r.out.length = statefulSig j + 8
          ∧ r.out.drop (statefulSig j) = leBytes 8 (leafCount o - (n + 1)))

/-- Opcodes on one object (11 R321, R330, R334, R337). -/
def Obligations.VaultOpcodesAnswer : Prop :=
  Answers [(0x504, .keyDestroy), (0x505, .keySetAttr)] (fun ctx j s t r =>
      keyAt s j.hdr.keyA = none → r.status = stBadHandle ∧ r.out = [] ∧ JobAlone ctx s t)
  ∧ Answers [(0x508, .keyQuery), (0x509, .keyGetPublic), (0x510, .keyExportPack)] (fun ctx j s t r =>
      (keyAt s j.hdr.keyA).or j.keyA = none → r.status = stBadHandle ∧ r.out = [] ∧ JobAlone ctx s t)
  ∧ Answers [(0x508, .keyQuery)] (fun ctx j s t r => ∀ o, (keyAt s j.hdr.keyA).or j.keyA = some o →
      JobAlone ctx s t ∧ r.status = stOk ∧ r.out = objHeader (handleSlot j.hdr.keyA) o)
  ∧ Answers [(0x509, .keyGetPublic)] (fun ctx j s t r => ∀ o, (keyAt s j.hdr.keyA).or j.keyA = some o →
      JobAlone ctx s t ∧ r.status = stOk ∧ r.out = objPublic o)
  ∧ Answers [(0x504, .keyDestroy)] (fun _ j s t r => ∀ o, keyAt s j.hdr.keyA = some o → o.link = none →
      r.status = stOk ∧ r.out = [] ∧ t.vault.objs = tdel s.vault.objs (handleSlot j.hdr.keyA)
        ∧ tgetD t.vault.gens (handleSlot j.hdr.keyA) 1 = min 0xFFFFFF (o.gen + 1))
  ∧ Answers [(0x505, .keySetAttr)] (fun _ j s t r => ∀ o, keyAt s j.hdr.keyA = some o →
      (r.status ≠ stOk → t.vault = s.vault)
      ∧ (r.status = stOk → ∃ k, tget t.vault.objs (handleSlot j.hdr.keyA) = some k
          ∧ (k.policy % 16) &&& 3 = ((k.policy % 16) &&& 3) &&& ((o.policy % 16) &&& 3)
          ∧ capValue k.cap ≤ capValue o.cap ∧ k.mat = o.mat ∧ k.gen = o.gen ∧ k.part = o.part))
  ∧ Answers [(0x510, .keyExportPack)] (fun ctx j s t r => ∀ o, (keyAt s j.hdr.keyA).or j.keyA = some o →
      r.status = stOk ∧ r.out.length = o.mat.length + 128 ∧ r.out.take 4 = packMagic
        ∧ JobOnly ctx s t)
  ∧ Answers [(0x520, .keyWrapExport)] (fun ctx j s t r =>
      JobAlone ctx s t ∧ r.status = stOk ∧ r.out.length = kwpLen (keyMat j).length)

/-- The root store (11 R333, R336, R337, R340) and imports (11 R332). -/
def Obligations.RootOpcodesAnswer : Prop :=
  Answers [(0x5F0, .rootInit)] (fun ctx j s t r =>
      (s.sys.unkeyed = false → r.status = stUsageDenied ∧ r.out = [] ∧ JobAlone ctx s t)
      ∧ (s.sys.unkeyed = true → r.status = stOk ∧ t.sys.unkeyed = false ∧ t.vault.binds = []
          ∧ t.vault.roots = [(0, (jobDraw j).take 32)] ∧ t.vault.seeds = [(0, sliceB (jobDraw j) 32 16)]
          ∧ t.freeCtr = s.freeCtr))
  ∧ Answers [(0x5F1, .rootAssign)] (fun _ j s t r =>
      let n := j.hdr.p0 0 6
      (j.hdr.p0 16 1 = 1 → r.status = stOk ∧ t.vault.roots = tdel s.vault.roots n ∧ t.vault.binds = tdel s.vault.binds n)
      ∧ (j.hdr.p0 16 1 ≠ 1 → (tget s.vault.roots n).isSome = true → r.status = stBadParam ∧ t.vault = s.vault)
      ∧ (j.hdr.p0 16 1 ≠ 1 → tget s.vault.roots n = none →
          r.status = stOk ∧ tget t.vault.roots n = some (jobDraw j) ∧ tget t.vault.binds n = some (j.hdr.p0 8 8)))
  ∧ Answers [(0x5F2, .rootBackup)] (fun ctx j s t r =>
      JobAlone ctx s t ∧ r.status = stOk ∧ r.out = rootPack s (jobDraw j))
  ∧ Answers [(0x5F3, .rootRestore)] (fun _ j s t r =>
      (s.sys.unkeyed = false → r.status = stUsageDenied ∧ t.vault = s.vault)
      ∧ (s.sys.unkeyed = true → sliceB (afterToken j) 8 8 ≠ leBytes 8 s.life.devId.toNat →
          r.status = stBadHandle ∧ t.vault = s.vault)
      ∧ (s.sys.unkeyed = true → (afterToken j).take 4 = packMagic → leAt (afterToken j) 4 4 = 1 →
          sliceB (afterToken j) 8 8 = leBytes 8 s.life.devId.toNat →
          match openPack (backupKey s) (afterToken j) with
          | none => r.status = stBadHandle ∧ t.vault = s.vault
          | some m => r.status = stOk ∧ t.vault.roots = (rootsOf (afterToken j) m).1
              ∧ t.vault.binds = (rootsOf (afterToken j) m).2.1 ∧ t.vault.seeds = (rootsOf (afterToken j) m).2.2))
  ∧ Answers [(0x521, .keyUnwrapImport)] (fun _ j s t r =>
      let w := (afterToken j).drop 64
      (unwrapOk 1 (keyMat j) w = false → r.status = stAuthFail ∧ r.out = [] ∧ t.vault = s.vault)
      ∧ (unwrapOk 1 (keyMat j) w = true → (kwpInner (keyMat j) w < 16 ∨ 8192 < kwpInner (keyMat j) w) →
          r.status = stBadParam ∧ t.vault = s.vault)
      ∧ ∀ x l, unwrapOk 1 (keyMat j) w = true → (jobTemplate j).fam < 7 → (jobTemplate j).fam ≠ 2 →
          16 ≤ kwpInner (keyMat j) w → kwpInner (keyMat j) w ≤ 8192 → kwpInner (keyMat j) w = (jobTemplate j).keyLen →
          j.resSlots = x :: l →
          r.status = stOk ∧ Made t x j.hdr.part (jobTemplate j).fam (jobTemplate j).cls none r.out 0)

/-- RNG_BYTES and ENT_STATUS (10 R300, R301). -/
def Obligations.RandomOpcodesAnswer : Prop :=
  (∀ (ctx : Nat) (s : State) (j : Job), jobFor s ctx 0x600 = some j → j.drawWait = true →
    ∃ t k, exec (.rngBytes ctx) s = .next t ∧ getJob t ctx = some k
      ∧ k.partialOut = j.partialOut ++ j.rnd.take (min 2048 (j.hdr.outMax - j.partialOut.length)) ∧ k.rnd = []
      ∧ (j.hdr.outMax ≤ k.partialOut.length → k.result = some { out := k.partialOut })
      ∧ (k.partialOut.length < j.hdr.outMax → k.result = none ∧ k.entNeed = min 2048 (j.hdr.outMax - k.partialOut.length)))
  ∧ Answers [(0x608, .entStatus)] (fun ctx _ s t r =>
      JobAlone ctx s t ∧ r.status = stOk ∧ r.out.length = 16)
  ∧ ∀ (s : State) (ctx b : Nat) (j : Job) (r : Res), s.sched.jobs = [(ctx, j)] → j.hdr.opcode = 0x608 → j.result = some r →
      r.status = stOk → releasable s b j = true →
      releaseAll b s = releaseJob ctx j { r with out := r.out.take 8 ++ leBytes 8 b } b s

/-- The queue commands (04 R137, R138, R139, R140, R142). -/
def Obligations.QueueCommandsAnswer : Prop :=
  AdminAnswers [(1, .createQueue)] (fun _ j s t r =>
      (j.hdr.p0 0 16 = 0 → r.status = stBadQueue ∧ t.qm = s.qm)
      ∧ (∀ slot q, j.hdr.p0 0 16 ≠ 0 → queueOf s (jobSession s j) (j.hdr.p0 0 16) = some (slot, q) → q.st = .active → q.tearAsk = 0 →
          r.status = stBadQueue ∧ t.qm = s.qm)
      ∧ (∀ slot base, j.hdr.p0 0 16 ≠ 0 → queueOf s (jobSession s j) (j.hdr.p0 0 16) = none → freeQueueSlot s = some slot →
          allocRing s (j.hdr.p0 16 5) = some base →
          r.status = stOk ∧ r.out = leBytes 2 slot ++ [0, 0] ++ leBytes 4 (2 ^ (j.hdr.p0 16 5 - 6))
            ∧ ∃ q, tget t.qm.queues slot = some q ∧ q.st = .active ∧ q.qnum = j.hdr.p0 0 16 ∧ q.session = jobSession s j
                ∧ q.sizeLog2 = j.hdr.p0 16 5 ∧ q.base = base ∧ q.applied = BitVec.ofNat 32 (j.hdr.p1 0 32)
                ∧ q.cidx = q.applied ∧ q.chead = q.applied))
  ∧ AdminAnswers [(2, .resizeQueue)] (fun _ j s t r => ∀ slot q, j.hdr.p0 0 16 ≠ 0 →
      queueOf s (jobSession s j) (j.hdr.p0 0 16) = some (slot, q) →
      (q.applied ≠ q.chead → r.status = stQueueBusy ∧ t.qm = s.qm)
      ∧ (∀ base, q.applied = q.chead → allocRing s (j.hdr.p0 16 5) = some base →
          r.status = stOk ∧ t.qm.queues = tput s.qm.queues slot { q with sizeLog2 := j.hdr.p0 16 5, base := base, ahead := [] }))
  ∧ (∀ p ∈ [((3, .resetQueue, 1) : Nat × (Nat → Instr) × Nat), (4, .destroyQueue, 2)], ∀ (ctx : Nat) (s : State) (j : Job),
      adminFor s ctx p.1 = some j → j.result = none →
      let ended := (getSess s (jobSession s j)).bind fun x =>
        x.torn.find? fun e => e.1 == j.hdr.p0 0 16 && e.2.1 == decide (p.2.2 = 2)
      (∀ e, ended = some e → ∃ t, exec (p.2.1 ctx) s = .next t ∧ t.qm = s.qm ∧ Holds t ctx e.2.2)
      ∧ (ended = none →
        (∀ slot q, j.hdr.p0 0 16 ≠ 0 → queueOf s (jobSession s j) (j.hdr.p0 0 16) = some (slot, q) → q.st = .active →
            ∃ t, exec (p.2.1 ctx) s = .next t ∧ tget t.qm.queues slot = some { q with tearAsk := p.2.2, tearJob := some ctx }
              ∧ ∃ k, getJob t ctx = some k ∧ k.phase = .running ∧ k.result = j.result)
        ∧ (queueOf s (jobSession s j) (j.hdr.p0 0 16) = none →
            ∃ t, exec (p.2.1 ctx) s = .next t ∧ t.qm = s.qm ∧ Holds t ctx { status := stBadQueue })))
  ∧ AdminAnswers [(5, .queryQueue)] (fun ctx j s t r =>
      JobAlone ctx s t
      ∧ (queueOf s (jobSession s j) (j.hdr.p0 0 16) = none → r = { status := stBadQueue })
      ∧ ∀ slot q, queueOf s (jobSession s j) (j.hdr.p0 0 16) = some (slot, q) →
          r.status = stOk ∧ r.out.length = 24 ∧ r.out.take 20 = leBytes 1 q.st.code ++ leBytes 1 q.sizeLog2 ++ leBytes 2 slot
            ++ leBytes 4 q.applied.toNat ++ leBytes 4 q.visible.toNat ++ leBytes 4 q.cidx.toNat ++ leBytes 4 q.chead.toNat)

/-- Opening a proposal (12 R354, R355, R357, R361, R586, R589). -/
def Obligations.ProposalsAreOpened : Prop :=
  (∀ (ctx : Nat) (s : State) (j : Job) (st : Nat), adminFor s ctx 0x700 = some j → j.result = none → proposeRefusal s j = some st →
      ∃ t, exec (.qPropose ctx) s = .next t ∧ Holds t ctx { status := st } ∧ t.quorum = s.quorum ∧ t.rwq = s.rwq)
  ∧ (∀ (ctx : Nat) (s : State) (j : Job) (st : Nat), adminFor s ctx 0x701 = some j → j.result = none → proposeOpRefusal s j = some st →
      ∃ t, exec (.qProposeOp ctx) s = .next t ∧ Holds t ctx { status := st } ∧ t.quorum = s.quorum ∧ t.rwq = s.rwq)
  ∧ (∀ (ctx : Nat) (s : State) (j : Job), adminFor s ctx 0x700 = some j → j.result = none → proposeRefusal s j = none → canDrawNow s 8 = true →
      ∃ t slot p, exec (.qPropose ctx) s = .next t ∧ tget t.quorum.props slot = some p ∧ Holds t ctx { out := propRecord p }
        ∧ p.state = 1 ∧ p.kind = 0 ∧ p.cls = imageClass s ((imageOf j.input).map fun e => e.1) ∧ p.part = 0
        ∧ p.m = mOf s p.cls ∧ p.deadline = deadlineOf s (leAt j.input 10 2) ∧ p.approvers = [] ∧ p.token = []
        ∧ p.nonce = s.ent.pool.take 8 ∧ t.ent.pool = s.ent.pool.drop 8
        ∧ (∀ e m, (imageOf j.input).getLast? = some e → rwqMask e.1 = some m → staged t e.1 = (e.2 &&& m) % 2 ^ 64)
        ∧ ∀ o, inForce t o = inForce s o)
  ∧ (∀ (ctx : Nat) (s : State) (j : Job), adminFor s ctx 0x701 = some j → j.result = none → proposeOpRefusal s j = none → canDrawNow s 8 = true →
      ∃ t slot p, exec (.qProposeOp ctx) s = .next t ∧ tget t.quorum.props slot = some p ∧ Holds t ctx { out := propRecord p }
        ∧ p.state = 1 ∧ p.kind = 1 ∧ opClass (leAt j.input 0 2) j.hdr.part = some p.cls
        ∧ p.part = (if p.cls ≤ 9 then 0 else j.hdr.part) ∧ p.opcode = leAt j.input 0 2 ∧ p.digest = sliceB j.input 8 32
        ∧ p.m = mOf s p.cls ∧ p.deadline = deadlineOf s (leAt j.input 4 2) ∧ p.approvers = [] ∧ p.nonce = s.ent.pool.take 8
        ∧ t.rwq = s.rwq)

/-- Approvals (12 R358, R359, R368, R589). -/
def Obligations.ApprovalsAreCounted : Prop :=
  ∀ (ctx : Nat) (s : State) (j : Job), adminFor s ctx 0x702 = some j → j.result = none →
    leAt j.input 6 1 = 1 ∧ j.hdr.inBytes = 3317 ∨ leAt j.input 6 1 = 2 ∧ j.hdr.inBytes = 104 →
    (propById s (leAt j.input 0 4) = none →
      ∃ t, exec (.qApprove ctx) s = .next t ∧ Holds t ctx { status := stQuorumRequired } ∧ t.quorum = s.quorum)
    ∧ ∀ slot p, propById s (leAt j.input 0 4) = some (slot, p) →
      let who := (officerAt s (leAt j.input 4 1) (leAt j.input 5 1) j.hdr.part).filter (eligible s p.cls p.part)
      (who = none ∨ p.state ≠ 1 ∨ p.expires ≤ s.sched.pitch →
        ∃ t, exec (.qApprove ctx) s = .next t ∧ Holds t ctx { status := stQuorumRequired }
          ∧ t.quorum.props = s.quorum.props ∧ t.quorum.journalSeq = s.quorum.journalSeq + 1)
      ∧ ∀ c, who = some c → p.state = 1 → s.sched.pitch < p.expires → c.alg = leAt j.input 6 1 →
        let new := (c.part, leAt j.input 5 1)
        ∃ t, exec (.qApprove ctx) s = .next t
          ∧ if approvalSigOk p c (j.input.drop 8) = false then
              Holds t ctx { status := stVerifyFail } ∧ t.quorum.props = s.quorum.props
            else if new ∈ p.approvers then
              Holds t ctx (approveOut p []) ∧ t.quorum = s.quorum
            else if p.approvers.length + 1 < p.m then
              Holds t ctx (approveOut { p with approvers := p.approvers ++ [new] } [])
                ∧ t.quorum.props = tput s.quorum.props slot { p with approvers := p.approvers ++ [new] }
            else canDrawNow s 8 = true →
              ∃ q tok, tget t.quorum.props slot = some q ∧ q.state = 2 ∧ q.approvers = p.approvers ++ [new] ∧ q.token = tok
                ∧ tok.take 8 = leBytes 4 p.id ++ leBytes 4 ((s.quorum.serial + 1) % 2 ^ 32) ∧ tok.length = 16
                ∧ q.tokenEnd = s.sched.pitch + second * tokenLife s ∧ Holds t ctx (approveOut q tok)

/-- The other opcodes of proposals (12 R360, R362, R365, R366, R589). -/
def Obligations.ProposalsAreReadAndWithdrawn : Prop :=
  (∀ p ∈ ([(0x700, .qPropose), (0x701, .qProposeOp), (0x702, .qApprove), (0x703, .qWithdraw), (0x704, .qCommit),
      (0x705, .qStatus), (0x706, .qJournal), (0x709, .maintExit), (0x710, .partCreate), (0x711, .partDelete),
      (0x714, .officerEnrol), (0x715, .officerRemove), (0x718, .clientEnrol), (0x719, .clientRemove), (0x720, .regBackup),
      (0x721, .regRestore)] : List OpRow), ∀ (ctx : Nat) (s : State) (j : Job) (r : Res), adminFor s ctx p.1 = some j →
      j.result = some r → ∃ t, exec (p.2 ctx) s = .next t ∧ JobAlone ctx s t ∧ Holds t ctx r)
  ∧ AdminAnswers [(0x703, .qWithdraw)] (fun _ j s t r => j.hdr.inBytes = 4 →
      (propById s (leAt j.input 0 4) = none → r.status = stQuorumRequired ∧ t.quorum = s.quorum)
      ∧ ∀ slot p, propById s (leAt j.input 0 4) = some (slot, p) →
          (p.session ≠ jobSid s j → (jobSender s j).role ≠ 0 → r.status = stPartitionDenied ∧ t.quorum = s.quorum)
          ∧ (p.session = jobSid s j → p.state ≠ 1 → r.status = stQuorumRequired ∧ t.quorum = s.quorum)
          ∧ (p.session = jobSid s j → p.state = 1 →
              r.status = stOk ∧ tget t.quorum.props slot = none ∧ t.quorum.journalSeq = s.quorum.journalSeq + 1))
  ∧ AdminAnswers [(0x705, .qStatus)] (fun ctx j s t r => j.hdr.inBytes = 4 →
      JobAlone ctx s t
      ∧ (propById s (leAt j.input 0 4) = none → r = { status := stQuorumRequired })
      ∧ ∀ slot p, propById s (leAt j.input 0 4) = some (slot, p) →
          r.status = stOk ∧ r.out.length = 72 ∧ r.out.take 64 = propRecord p
            ∧ sliceB r.out 64 2 = leBytes 1 p.state ++ leBytes 1 p.approvers.length)
  ∧ AdminAnswers [(0x706, .qJournal)] (fun ctx j s t r => j.hdr.inBytes = 0 →
      JobAlone ctx s t ∧ r.status = stOk ∧ r.out.length = 32 * j.hdr.p0 32 16
        ∧ ∀ n < j.hdr.p0 32 16, s.quorum.journalSeq ≤ j.hdr.p0 0 32 + n → sliceB r.out (32 * n) 32 = List.replicate 32 0)
  ∧ ∀ (ctx : Nat) (s : State) (j : Job), adminFor s ctx 0x704 = some j → j.result = none → j.hdr.inBytes = 16 →
      ∃ t, exec (.qCommit ctx) s = .next t
        ∧ ((commitProp s (j.input.take 16)).isSome = true →
            t.quorum.commits = s.quorum.commits ++ [(j.input.take 16, some ctx)] ∧ t.rwq = s.rwq
              ∧ ∃ k, getJob t ctx = some k ∧ k.phase = .running ∧ k.result = j.result)
        ∧ (commitProp s (j.input.take 16) = none → JobAlone ctx s t ∧ Holds t ctx { status := stQuorumRequired })

/-- Modes and erasure (01 R39, 12 R589, R590, 05 R172). -/
def Obligations.MaintenanceIsEnteredAndLeft : Prop :=
  (∀ (ctx : Nat) (s : State) (j : Job), adminFor s ctx 0x708 = some j → j.hdr.inBytes = 16 →
    (tokenValid s j = false → ∃ t, exec (.maintEnter ctx) s = .next t ∧ JobAlone ctx s t ∧ Holds t ctx { status := stQuorumRequired })
    ∧ (tokenValid s j = true → s.sys.mode = .maintenance →
        ∃ t, exec (.maintEnter ctx) s = .next t ∧ JobAlone ctx s t ∧ Holds t ctx { status := stUsageDenied })
    ∧ (∀ slot p, tokenProp s (j.input.take 16) = some (slot, p) → tokenValid s j = true → s.sys.mode ≠ .maintenance →
        s.sys.maintPending = none →
        ∃ t, exec (.maintEnter ctx) s = .next t ∧ t.sys = { s.sys with maintPending := some ctx }
          ∧ t.quorum.props = tdel s.quorum.props slot
          ∧ ∃ k, getJob t ctx = some k ∧ k.phase = .running ∧ k.result = j.result))
  ∧ AdminAnswers [(0x709, .maintExit)] (fun ctx j s t r => j.hdr.inBytes = 0 →
      (s.sys.mode ≠ .maintenance → r = { status := stUsageDenied } ∧ JobAlone ctx s t)
      ∧ (s.sys.mode = .maintenance → s.life.pendingPwr = true → r = { status := stUsageDenied } ∧ JobAlone ctx s t)
      ∧ (s.sys.mode = .maintenance → s.life.pendingPwr = false →
          r = {} ∧ t.sys.mode = (if s.sys.fenced = 0 then .service else .degraded)))
  ∧ (∀ (ctx : Nat) (s : State) (j : Job), adminFor s ctx 0x70C = some j → j.hdr.inBytes = 24 →
    (tokenValid s j = false → ∃ t, exec (.zeroize ctx) s = .next t ∧ JobAlone ctx s t ∧ Holds t ctx { status := stQuorumRequired })
    ∧ (tokenValid s j = true → leAt j.input 16 8 ≠ s.life.devId.toNat →
        ∃ t, exec (.zeroize ctx) s = .next t ∧ JobAlone ctx s t ∧ Holds t ctx { status := stBadParam })
    ∧ (tokenValid s j = true → leAt j.input 16 8 = s.life.devId.toNat →
        ∃ t, exec (.zeroize ctx) s = .next t ∧ t.sched.jobs = [] ∧ t.qm.queues = [] ∧ t.tol.sess = [] ∧ t.vault.objs = []
          ∧ t.vault.roots = [] ∧ t.vault.seeds = [] ∧ t.quorum.props = [] ∧ t.sys.unkeyed = true ∧ t.tam.line = true
          ∧ t.hbm.ready = false ∧ (∀ e ∈ t.mem, e.1 < 0x10000000000 ∨ 0x10400000000 ≤ e.1)
          ∧ (t.tam.after = .systemReset ∨ s.sys.mode = .lockdown ∨ s.tam.after = .lockdown)))

/-- Partitions, officers, client keys and the registry (12 R350, R351, R353, R366, R367, R586, R589). -/
def Obligations.PartitionsAndOfficersChange : Prop :=
  AdminAnswers [(0x711, .partDelete)] (fun _ j s t r => j.hdr.inBytes = 24 →
      let part := leAt j.input 16 1
      (tokenValid s j = false → r.status = stQuorumRequired ∧ t.quorum = s.quorum ∧ t.vault = s.vault)
      ∧ (tokenValid s j = true → (part = 0 ∨ part ∉ s.quorum.parts) → r.status = stBadParam ∧ t.quorum = s.quorum ∧ t.vault = s.vault)
      ∧ (tokenValid s j = true → part ≠ 0 → part ∈ s.quorum.parts →
          r.status = stOk ∧ part ∉ t.quorum.parts ∧ (∀ o ∈ t.vault.objs, o.2.part ≠ part)
            ∧ t.vault.seeds = tdel s.vault.seeds part ∧ (∀ c ∈ t.quorum.creds, c.card = true ∨ c.part ≠ part)))
  ∧ (∀ (ctx : Nat) (s : State) (j : Job) (st : Nat), adminFor s ctx 0x710 = some j → j.result = none → partCreateRefusal s j = some st →
      ∃ t, exec (.partCreate ctx) s = .next t ∧ Holds t ctx { status := st } ∧ t.quorum = s.quorum ∧ t.vault = s.vault)
  ∧ (∀ (ctx : Nat) (s : State) (j : Job), adminFor s ctx 0x710 = some j → j.result = none → partCreateRefusal s j = none → canDrawNow s 16 = true →
      ∃ t, exec (.partCreate ctx) s = .next t ∧ Holds t ctx {}
        ∧ t.quorum.parts = s.quorum.parts ++ [leAt j.input 16 1]
        ∧ t.quorum.creds.length = s.quorum.creds.length + leAt j.input 17 1
        ∧ tget t.vault.seeds (leAt j.input 16 1) = some (s.ent.pool.take 16) ∧ t.ent.pool = s.ent.pool.drop 16)
  ∧ AdminAnswers [(0x714, .officerEnrol), (0x718, .clientEnrol)] (fun _ j s t r =>
      let c := (credAt (j.input.drop 16) j.hdr.part).1
      20 ≤ j.hdr.inBytes → j.hdr.inBytes = 24 + c.key.length → c.key.length = leAt (j.input.drop 16) 2 2 →
      (tokenValid s j = false → r.status = stQuorumRequired ∧ t.quorum = s.quorum)
      ∧ (tokenValid s j = true → enrolled s.quorum.creds c = true → r.status = stBadParam ∧ t.quorum = s.quorum))
  ∧ AdminAnswers [(0x714, .officerEnrol)] (fun _ j s t r =>
      let c := (credAt (j.input.drop 16) j.hdr.part).1
      20 ≤ j.hdr.inBytes → j.hdr.inBytes = 24 + leAt (j.input.drop 16) 2 2 → tokenValid s j = true →
      (if j.hdr.part = 0 then c.role ≤ 2 else c.role = 3) → credAlgOk (j.input.drop 16) = true → enrolled s.quorum.creds c = false →
      (officerLimit j.hdr.part ≤ (officersOf s j.hdr.part).length → r.status = stQuorumRequired ∧ t.quorum = s.quorum)
      ∧ ((officersOf s j.hdr.part).length < officerLimit j.hdr.part →
          r = { out := leBytes 1 (freeIndex s.quorum.creds j.hdr.part) ++ List.replicate 7 0 }
            ∧ t.quorum.creds = s.quorum.creds ++ [{ c with index := freeIndex s.quorum.creds j.hdr.part }]))
  ∧ AdminAnswers [(0x718, .clientEnrol)] (fun _ j s t r =>
      let c := (credAt (j.input.drop 16) j.hdr.part).1
      20 ≤ j.hdr.inBytes → j.hdr.inBytes = 24 + leAt (j.input.drop 16) 2 2 → tokenValid s j = true →
      credAlgOk (j.input.drop 16) = true → enrolled s.quorum.creds c = false →
      (c.role ≤ 4 → r = {} ∧ t.quorum.creds = s.quorum.creds ++ [{ c with role := 4 }])
      ∧ (4 < c.role → r.status = stBadParam ∧ t.quorum = s.quorum))
  ∧ AdminAnswers [(0x715, .officerRemove)] (fun _ j s t r => j.hdr.inBytes = 24 → tokenValid s j = true →
      leAt j.input 16 1 = (if j.hdr.part = 0 then 0 else 1) → ∀ c, officerAt s (leAt j.input 16 1) (leAt j.input 17 1) j.hdr.part = some c →
      (c.card = true → r.status = stBadParam ∧ t.quorum = s.quorum)
      ∧ (c.card = false → leavesShort s c = true → r.status = stQuorumRequired ∧ t.quorum = s.quorum)
      ∧ (c.card = false → leavesShort s c = false →
          r = {} ∧ c ∉ t.quorum.creds ∧ ∀ p ∈ t.quorum.props, p.2.state = 1 → (c.part, c.index) ∉ p.2.approvers))
  ∧ AdminAnswers [(0x719, .clientRemove)] (fun _ j s t r => j.hdr.inBytes = 48 →
      (tokenValid s j = false → r.status = stQuorumRequired ∧ t.quorum = s.quorum)
      ∧ (tokenValid s j = true →
          match s.quorum.creds.find? fun c => c.role == 4 && c.part == j.hdr.part && !c.card && keyId c == sliceB j.input 16 32 with
          | none => r.status = stBadParam ∧ t.quorum = s.quorum
          | some c => r = {} ∧ t.quorum.creds = s.quorum.creds.filter fun x => x != c))
  ∧ AdminAnswers [(0x720, .regBackup)] (fun _ j s t r => j.hdr.inBytes = 16 → tokenValid s j = true →
      r = { out := regPack s (j.rnd.take 32) }
        ∧ t.quorum.creds = s.quorum.creds ∧ t.quorum.parts = s.quorum.parts)
  ∧ AdminAnswers [(0x721, .regRestore)] (fun _ j s t r => 144 ≤ j.hdr.inBytes → tokenValid s j = true →
      (sliceB (j.input.drop 16) 8 8 ≠ domainId s → r.status = stBadHandle ∧ t.quorum = s.quorum)
      ∧ (sliceB (j.input.drop 16) 8 8 = domainId s → (j.input.drop 16).take 4 = packMagic → leAt (j.input.drop 16) 4 4 = 2 →
          match openPack (packKey s 0) (j.input.drop 16) with
          | none => r.status = stBadHandle ∧ t.quorum = s.quorum
          | some m => r = {} ∧ (∀ c ∈ s.quorum.creds, c.card = true → c ∈ t.quorum.creds)
              ∧ t.quorum.parts = (List.range 256).filter fun p => p == 0 || bitAt (leAt m 0 32) p))

/-- The life cycle and the cairn log (15 R471, 17 R500, R501, R502, R506). -/
def Obligations.LifeCycleAndLogAnswer : Prop :=
  AdminAnswers [(0x010, .cairnRead)] (fun ctx j s t r =>
      JobAlone ctx s t ∧ r.status = stOk ∧ r.out.length = 16 + 16 * j.hdr.p0 16 10 ∧ r.out.take 8 = leBytes 8 (cairnStat s)
        ∧ sliceB r.out 8 4 = leBytes 4 s.cairn.lost
        ∧ ∀ n < j.hdr.p0 16 10, sliceB r.out (16 + 16 * n) 16 = leBytes 16 (tgetD s.cairn.log (j.hdr.p0 0 13 + n) 0).toNat)
  ∧ (∀ (ctx : Nat) (s : State) (j : Job), adminFor s ctx 0x031 = some j → j.result = none → j.hdr.inBytes = 0 → canDrawNow s 32 = true →
      ∃ t, exec (.lcChallenge ctx) s = .next t ∧ Holds t ctx { out := s.ent.pool.take 32 }
        ∧ t.life = { s.life with chal := some (s.ent.pool.take 32, s.sched.pitch) } ∧ t.ent.pool = s.ent.pool.drop 32)
  ∧ ∀ (ctx : Nat) (s : State) (j : Job), adminFor s ctx 0x030 = some j →
      let new := leAt j.input 16 1
      (s.sys.mode ≠ .maintenance →
        ∃ t, exec (.lcTransition ctx) s = .next t ∧ JobAlone ctx s t ∧ Holds t ctx { status := stUsageDenied })
      ∧ (s.sys.mode = .maintenance → 24 ≤ j.hdr.inBytes → transitionOk (presentState s) new = false →
          ∃ t, exec (.lcTransition ctx) s = .next t ∧ JobAlone ctx s t ∧ Holds t ctx { status := stBadParam })
      ∧ (transitionRefusal s j = none → new ≠ 5 → holdReady s = false →
          ∃ t, exec (.lcTransition ctx) s = .next t ∧ JobAlone ctx s t ∧ Holds t ctx { status := stUnitUnavailable })
      ∧ (∀ slot p, transitionRefusal s j = none → new ≤ 4 → holdReady s = true → tokenProp s (j.input.take 16) = some (slot, p) →
          ∃ t, exec (.lcTransition ctx) s = .next t ∧ t.quorum.props = tdel s.quorum.props slot
            ∧ if fieldsFit s.life (transitionOf s ctx new j) = true then
                t.life = { s.life with trans := some (transitionOf s ctx new j) }
                  ∧ (new = 4 → t.vault.roots = [] ∧ t.vault.binds = [] ∧ t.vault.seeds = []) ∧ (new ≠ 4 → t.vault = s.vault)
                  ∧ t.freeCtr = s.freeCtr + (if new = 3 then 192 else 0)
              else Holds t ctx { status := stBadParam } ∧ t.life = s.life)

/-- Route card updates (17 R519). -/
def Obligations.UpdatesAnswer : Prop :=
  AdminAnswers [(0x020, .rcBegin), (0x021, .rcData), (0x022, .rcFinish)] (fun ctx j s t r =>
      wasFetched s j = false → s.sys.mode ≠ .maintenance → r = { status := stUsageDenied } ∧ JobAlone ctx s t)
  ∧ AdminAnswers [(0x020, .rcBegin)] (fun _ j s t r => rcRefusal s j = none → j.hdr.inBytes = 72 → tokenValid s j = true →
      0 < leAt j.input 16 4 → leAt j.input 16 4 ≤ 0x2000000 → zeros (sliceB j.input 20 4) = true →
      r = {} ∧ t.nvm.updSt = 2 ∧ t.nvm.written = 0 ∧ t.nvm.updLen = leAt j.input 16 4 ∧ t.nvm.updDigest = sliceB j.input 24 48
        ∧ (∀ e ∈ t.mem, e ∈ s.mem ∧ ¬ (inactiveBase s ≤ e.1 ∧ e.1 < inactiveBase s + 0x2000000)))
  ∧ AdminAnswers [(0x021, .rcData)] (fun ctx j s t r => rcRefusal s j = none → 8 ≤ j.hdr.inBytes → (j.hdr.inBytes - 8) % 256 = 0 →
      s.nvm.updSt = 2 →
      ((leAt j.input 0 4 ≠ s.nvm.written ∨ zeros (sliceB j.input 4 4) = false) → r = { status := stBadParam } ∧ JobAlone ctx s t)
      ∧ (leAt j.input 0 4 = s.nvm.written → zeros (sliceB j.input 4 4) = true → s.nvm.written + (j.input.drop 8).length ≤ s.nvm.updLen + 255 →
          r = {} ∧ t.nvm.written = s.nvm.written + (j.input.drop 8).length
            ∧ (Memory.wf s.mem = true → readBytes t.mem (inactiveBase s + s.nvm.written) (j.input.drop 8).length = j.input.drop 8)
            ∧ (Memory.wf s.mem = true → ∀ a, ¬ (inactiveBase s + s.nvm.written ≤ a ∧ a < inactiveBase s + s.nvm.written + (j.input.drop 8).length) →
                readByte t.mem a = readByte s.mem a)))
  ∧ AdminAnswers [(0x022, .rcFinish)] (fun _ j s t r => rcRefusal s j = none → j.hdr.inBytes = 0 →
      (s.nvm.updSt ≠ 2 → r = { status := stBadParam } ∧ t.nvm = s.nvm ∧ t.rwq = s.rwq)
      ∧ (s.nvm.updSt = 2 →
          let card := s.nvm.updData.take s.nvm.updLen
          if card.length = s.nvm.updLen ∧ crypto .hash [algSha3x384] [card] 48 = padTo 48 s.nvm.updDigest ∧ cardResult s card = 1 then
            r = {} ∧ t.nvm = { s.nvm with updSt := 3 } ∧ inForce t 0x1C0000 % 2 = (1 - s.nvm.booted) % 2
              ∧ inForce t 0x1C0000 / 2 = inForce s 0x1C0000 / 2
          else r = { status := stAuthFail } ∧ t.nvm = { s.nvm with updSt := 5 } ∧ t.rwq = s.rwq))

/-- Tenant function calls (13 R390, R391). -/
def Obligations.TenantCallsAreMadeAndAnswered : Prop :=
  (∀ (ctx : Nat) (s : State) (j : Job) (n : Nat) (f : TenantFn) (q : Queue),
    getJob s ctx = some j → j.phase = .ready → unitClass j.hdr = .tenant → serving s = true → slotTurn s j = true → calledFn s j.hdr = some (n, f) →
    getQueue s j.slot = some q → callUnits j.hdr ≤ f.room → (engineBursts 8 .write (f.span f.pidx.toNat j.hdr.lenUnits) (some ctx) s).1 = true →
    ∃ t g k, exec (.tenantFunctionCall ctx) s = .next t ∧ getFn t n = some g ∧ g.pidx = idxAdd f.pidx (callUnits j.hdr)
      ∧ g.free = f.free ∧ getJob t ctx = some k ∧ k.phase = .running ∧ k.result = j.result
      ∧ (∃ c ∈ t.world.calls, c.tf = n ∧ c.unit = f.pidx ∧ c.units = callUnits j.hdr ∧ c.ctx = ctx ∧ c.done = false
          ∧ c.due = s.sched.pitch + 500 * f.limitMs)
      ∧ (Memory.wf s.mem = true → ∀ a, (∀ i < callUnits j.hdr, ¬ (f.unitAt (f.pidx.toNat + i) ≤ a ∧ a < f.unitAt (f.pidx.toNat + i) + 64)) →
          readByte t.mem a = readByte s.mem a))
  ∧ (∀ (core tf : Nat) (unit : W32) (s : State),
      (8 ≤ core ∨ bitAt (getCore s core).wten.toNat 8 = false ∨ fld (getCore s core).wten.toNat 0 8 ≠ tf) →
      exec (.worldTfDone core tf unit) s = .next { s with world := { s.world with tfRej := true } })
  ∧ (∀ (core tf : Nat) (unit : W32) (s : State) (c : Call) (j : Job) (f : TenantFn),
      core < 8 → bitAt (getCore s core).wten.toNat 8 = true → fld (getCore s core).wten.toNat 0 8 = tf →
      s.world.calls.find? (fun c => c.tf == tf && c.unit == unit && !c.done && decide (s.sched.pitch < c.due)) = some c →
      callJob s c = some j → getFn s tf = some f → (engineBursts 8 .read (f.span c.unit.toNat c.units) (some c.ctx) s).1 = true →
      ∃ t, exec (.worldTfDone core tf unit) s = .next t ∧ t.mem = s.mem
        ∧ Holds t c.ctx (callResult j (inboxGet s f c.unit.toNat c.units)))
  ∧ (∀ (core tf : Nat) (unit : W32) (s : State) (c : Call) (j : Job) (f : TenantFn),
      core < 8 → bitAt (getCore s core).wten.toNat 8 = true → fld (getCore s core).wten.toNat 0 8 = tf →
      s.world.calls.find? (fun c => c.tf == tf && c.unit == unit && !c.done && decide (s.sched.pitch < c.due)) = some c →
      callJob s c = some j → getFn s tf = some f → (f.span c.unit.toNat c.units).any (portWaits s) = true →
      ∃ t, exec (.worldTfDone core tf unit) s = .next t ∧ t.acu.waiting.length = s.acu.waiting.length + 1 ∧ { t with acu := s.acu } = s)
  ∧ (∀ (ctx : Nat) (s : State) (c : Call) (j : Job),
      s.world.calls.find? (fun c => c.ctx == ctx && !c.done && decide (c.due ≤ s.sched.pitch)) = some c → callJob s c = some j →
      ∃ t k, exec (.tenantFunctionTimeout ctx) s = .next t ∧ getJob t ctx = some k ∧ k.result = some { status := stUnitUnavailable }
        ∧ k.due = nextBoundary s)

/-- Links and LLDP of the host ports (03 R70, R72, R73, R118, R119). -/
def Obligations.LinksFollowTheirPorts : Prop :=
  (∀ (p mode : Nat) (s : State), p < 4 → (getEth s p).up = false → portsAllowed s = true → portClock s p = true →
      domOn s (portDomain p) = true →
      (modeFits (rw s (ethBlk p)) (getEth s p) mode = true →
        ∃ t, exec (.linkUp p mode) s = .next t ∧ (getEth t p).up = true ∧ (getEth t p).activeMode = mode ∧ (getEth t p).dad = true
          ∧ (getEth t p).dupes = [] ∧ (getEth t p).dadFail = false ∧ ∀ q, q ≠ p → getEth t q = getEth s q)
      ∧ (modeFits (rw s (ethBlk p)) (getEth s p) mode = false → exec (.linkUp p mode) s = .next s))
  ∧ (∀ (p : Nat) (s : State), (getEth s p).up = true →
      exec (.linkDown p) s = .next (setEth p { getEth s p with
        up := false, activeMode := 0, anDone := false, paused := 0, pauseSent := false, held := [] } s))
  ∧ (∀ (p : Nat) (v : Word) (s : State), p < 4 →
      ∃ t, exec (.ethCfgWrite p v) s = .next t ∧ rw t (ethBlk p) = v.toNat &&& ethCfgMask
        ∧ (ethMode (rw s (ethBlk p)) = ethMode (v.toNat &&& ethCfgMask) → t.eth = s.eth)
        ∧ (ethMode (rw s (ethBlk p)) ≠ ethMode (v.toNat &&& ethCfgMask) → (getEth t p).up = false)
        ∧ (ethMode (rw s (ethBlk p)) = 0 → ethMode (v.toNat &&& ethCfgMask) ≠ 0 →
            (getEth t p).cfg.toNat = v.toNat &&& ethCfgMask ∧ (getEth t p).addr = (getEth s p).addrSet))
  ∧ (∀ (p : Nat) (s : State), (getEth s p).up = true → (getEth s p).lldp = true → (getEth s p).isPaused 0 = false →
      Gives (.lldpTimer p) s { s with
        out := s.out ++ [taggedOut p ethLldp (beBytes 6 (getEth s p).mac ++ portName p ++ leBytes 2 120) 0 s] })
  ∧ (∀ (p : Nat) (s : State), (getEth s p).lldp = false → exec (.lldpTimer p) s = .next s)
  ∧ ∀ (p : Nat) (h : LinkHdr) (s : State), Gives (.lldpReceive p h) s s

/-- Addresses and neighbours (03 R73, R75, R78, R79, R80). -/
def Obligations.AddressesAndNeighboursAnswer : Prop :=
  (∀ (p ip mac : Nat) (dad : Bool) (b : List Byte) (h : LinkHdr) (s : State),
      h.fcsOk = false ∨ ((getEth s p).macsec = true ∧ h.sec = none)
        ∨ ((getEth s p).macsec = false ∧ h.sec = none ∧ vlanOk (getEth s p) h = false) →
      ∀ c ∈ [Instr.arpRequest p ip h, .neighbourSolicitation p ip dad h, .arpReply p ip mac h,
          .neighbourAdvertisement p ip mac h, .icmpEcho p ip mac b h], Gives c s s)
  ∧ (∀ (p ip : Nat) (h : LinkHdr) (s : State), PlainIn p h s → (getEth s p).isPaused 0 = false → isV6 ip = false →
      Gives (.arpRequest p ip h) s { s with
        out := s.out ++ (if answersFor s p ip then [taggedOut p ethArpReply (ipBytes ip) (leNat (ipBytes ip).reverse) s] else []) })
  ∧ (∀ (p ip : Nat) (dad : Bool) (h : LinkHdr) (s : State), PlainIn p h s → (getEth s p).isPaused 0 = false → isV6 ip = true →
      Gives (.neighbourSolicitation p ip dad h) s
        (if dad && duplicateAt (getEth s p) ip then
          setEth p { getEth s p with dadFail := true, dupes := (getEth s p).dupes ++ [ip] } s
        else { s with
          out := s.out ++ (if answersFor s p ip then [taggedOut p ethNaReply (ipBytes ip) (leNat (ipBytes ip).reverse) s] else []) }))
  ∧ (∀ (p ip mac : Nat) (h : LinkHdr) (s : State), PlainIn p h s →
      ∀ c ∈ [Instr.arpReply p ip mac h, Instr.neighbourAdvertisement p ip mac h],
      (c = .arpReply p ip mac h → isV6 ip = false) → (c = .neighbourAdvertisement p ip mac h → isV6 ip = true) →
      (c = .neighbourAdvertisement p ip mac h → duplicateAt (getEth s p) ip = false) →
      (tget (getEth s p).neigh ip = none → Gives c s s)
      ∧ ∀ n, tget (getEth s p).neigh ip = some n →
          ∃ t m, exec c s = .next t ∧ tget (getEth t p).neigh ip = some m ∧ m.mac = mac ∧ m.resolved = true
            ∧ m.stamp = s.sched.pitch ∧ m.waiting = [])
  ∧ (∀ (p ip mac : Nat) (h : LinkHdr) (s : State), PlainIn p h s → isV6 ip = true → duplicateAt (getEth s p) ip = true →
      Gives (.neighbourAdvertisement p ip mac h) s
        (setEth p { getEth s p with dadFail := true, dupes := (getEth s p).dupes ++ [ip] } s))
  ∧ (∀ (p ip : Nat) (s : State) (n : Neigh), tget (getEth s p).neigh ip = some n → n.resolved = false →
      n.stamp + second ≤ s.sched.pitch →
      (n.tries < 3 → ∃ t, exec (.neighbourResolutionRetry p ip) s = .next t
        ∧ tget (getEth t p).neigh ip = some { n with tries := n.tries + 1, stamp := s.sched.pitch }
        ∧ ((getEth s p).up = true → (getEth s p).isPaused 0 = false →
            let kind := if isV6 ip then ethNeighbourSolicit else ethArpRequest
            ((getEth s p).macsec = false → t.out = s.out ++ [taggedOut p kind (leBytes 16 ip) 0 s])
            ∧ ∀ a, (getEth s p).macsec = true → tget (getEth s p).sas (getEth s p).txAn = some a →
                tget (getEth t p).sas (getEth s p).txAn = some { a with pn := a.pn + 1 }
                  ∧ ∃ f, t.out = s.out ++ [f] ∧ (netOf f).bytes = gcmCrypt a.sak (a.iv a.pn)
                        (frameHead (getEth s p) (.eth p kind (leBytes 16 ip) { bytes := leBytes 16 ip }) ++ leBytes 16 ip)
                      ∧ ∃ g, (netOf f).sec = some g ∧ g.an = (getEth s p).txAn ∧ g.pn = a.pn ∧ g.sci = (getEth s p).sci))
      ∧ (3 ≤ n.tries → Gives (.neighbourResolutionRetry p ip) s (setEth p { getEth s p with neigh := tdel (getEth s p).neigh ip } s)))
  ∧ (∀ (p ip : Nat) (s : State) (n : Neigh), tget (getEth s p).neigh ip = some n → n.resolved = true →
      n.stamp + 300 * second ≤ s.sched.pitch →
      exec (.neighbourExpiry p ip) s = .next (setEth p { getEth s p with neigh := tdel (getEth s p).neigh ip } s))
  ∧ (∀ (p : Nat) (s : State), (getEth s p).dad = true →
      exec (.duplicateAddressDetectionEnd p) s = .next (setEth p { getEth s p with dad := false } s))
  ∧ ∀ (p src dst : Nat) (payload : List Byte) (h : LinkHdr) (s : State), PlainIn p h s →
      (h.ipOdd = true → Gives (.icmpEcho p src dst payload h) s s)
      ∧ (h.ipOdd = false → answersFor s p dst = true → echoLen dst payload ≤ (getEth s p).mtu →
      (∀ hop n, (getEth s p).nextHop src = some hop → tget (getEth s p).neigh hop = some n → n.resolved = true →
        (getEth s p).isPaused 0 = false → (getEth s p).echoes < 1000 ∨ (getEth s p).echoFrom + second ≤ s.sched.pitch →
        ∃ t, exec (.icmpEcho p src dst payload h) s = .next t
          ∧ t.out = s.out ++ [unsecuredOut p s (.eth p ethEchoReply payload { dest := src * 65536, src := dst, bytes := payload })])
      ∧ (1000 ≤ (getEth s p).echoes → s.sched.pitch < (getEth s p).echoFrom + second → Gives (.icmpEcho p src dst payload h) s s))

/-- Pauses and MACsec (03 R74, R76, R121). -/
def Obligations.PausesAndSecureKeysAct : Prop :=
  (∀ (p prio quanta : Nat) (s : State), (getEth s p).up = true →
      (((getEth s p).vlan && bitAt (getEth s p).pfcEn prio) = false → Gives (.pfcPauseReceive p prio quanta) s s)
      ∧ (((getEth s p).vlan && bitAt (getEth s p).pfcEn prio) = true → quanta ≠ 0 →
          Gives (.pfcPauseReceive p prio quanta) s
            (setEth p { getEth s p with paused := (getEth s p).paused ||| BitVec.ofNat 8 (2 ^ prio) } s)))
  ∧ (∀ (p prio : Nat) (s : State),
      let e1 := { getEth s p with paused := (getEth s p).paused &&& ~~~ BitVec.ofNat 8 (2 ^ prio) }
      let goes (f : OutEv) : Bool := !e1.isPaused (framePrio e1 f)
      ∃ t, exec (.pfcPauseExpiry p prio) s = .next t ∧ (getEth t p).paused = e1.paused
        ∧ (getEth t p).held = e1.held.filter (fun f => !goes f)
        ∧ ((getEth s p).macsec = false → BuffersOpen p s → t.out = s.out ++ (e1.held.filter goes).map (unsecuredOut p s)))
  ∧ (∀ (p fill : Nat) (s : State), (getEth s p).up = true → (getEth s p).vlan = true →
      bitAt (getEth s p).pfcEn (getEth s p).pcp = true →
      (75 ≤ fill → (getEth s p).pauseSent = false →
        Gives (.pfcPauseSend p fill) s { setEth p { getEth s p with pauseSent := true } s with
          out := s.out ++ [taggedOut p ethPause [BitVec.ofNat 8 (getEth s p).pcp] 0 s] })
      ∧ (fill < 50 → (getEth s p).pauseSent = true →
        Gives (.pfcPauseSend p fill) s { setEth p { getEth s p with pauseSent := false } s with
          out := s.out ++ [taggedOut p ethPauseEnd [BitVec.ofNat 8 (getEth s p).pcp] 0 s] }))
  ∧ (∀ (p : Nat) (handle : Word) (s : State), p < 4 →
      let ctl := rw s (ethBlk p + 0x28)
      (∀ o, keyAt s handle = some o → saFits s (fld ctl 5 1) handle = true →
        exec (.ethMsecKey p handle) s = .next (setEth p { getEth s p with
          sas := tput (getEth s p).sas (fld ctl 5 1 * 4 + fld ctl 3 2)
            { handle, sak := o.mat.take 32, salt := sliceB o.mat 32 12, ssci := fld ctl 5 1 + 1 } } s))
      ∧ (saFits s (fld ctl 5 1) handle = false →
          exec (.ethMsecKey p handle) s = .next (setEth p { getEth s p with instErr := true } s)))
  ∧ ∀ (p an : Nat) (s : State), p < 4 →
      ∃ t, exec (.ethMsecTxAn p an) s = .next t ∧ (getEth t p).txAn = an % 4 ∧ rw t (ethBlk p + 0x28) % 4 = an % 4
        ∧ rw t (ethBlk p + 0x28) / 4 = rw s (ethBlk p + 0x28) / 4 ∧ ∀ off, off ≠ ethBlk p + 0x28 → rw t off = rw s off

/-- The rope link (14 R411, R415, R416, R421, R422, R425, 18 R531). -/
def Obligations.RopePortsFollowTheLink : Prop :=
  (∀ (p : Nat) (s : State), p < 2 → dieOn s = true → (if p = 0 then s.clk.refEth0 else s.clk.refEth1) = true → domOn s 17 = true →
      s.sys.held = false → s.sys.bootStep = 4 →
      ∃ t, exec (.ropeLinkUp p) s = .next t ∧ ropePort t p = { up := true, lastAuth := s.sched.pitch, lastBeat := s.sched.pitch }
        ∧ ropePort t (1 - p) = ropePort s (1 - p) ∧ (s.pair.st = 7 → t.pair.st = 0 ∧ t.pair.refuse = 0))
  ∧ (∀ (p : Nat) (s : State), p < 2 → (ropePort s p).up = true →
      ∃ t, exec (.ropePortLost p) s = .next t ∧ (ropePort t p).up = false ∧ (ropePort t p).rtt = 0)
  ∧ (∀ (p : Nat) (s : State), usesRope s p = true → (ropePort s p).silent = false → s.pair.keys = true →
      (ropePort s p).lastAuth + 150 ≤ s.sched.pitch →
      ∃ t, exec (.portSilence p) s = .next t ∧ (ropePort t p).silent = true)
  ∧ (∀ s : State, s.pair.liveIn = false →
      exec .liveLineStart s = .next { s with pair := { s.pair with liveIn := true, liveSince := s.sched.pitch } })
  ∧ (∀ s : State, s.pair.liveIn = true → ∃ t, exec .liveLineStop s = .next t ∧ t.pair.liveIn = false)
  ∧ (∀ s : State, ∃ t, exec (.refclkEthLoss 0) s = .next t ∧ t.clk.refEth0 = false ∧ t.clk.refEth1 = s.clk.refEth1
      ∧ (getEth t 0).up = false ∧ (getEth t 1).up = false ∧ t.pair.port0.up = false)
  ∧ (∀ s : State, ∃ t, exec (.refclkEthLoss 1) s = .next t ∧ t.clk.refEth1 = false ∧ t.clk.refEth0 = s.clk.refEth0
      ∧ (getEth t 2).up = false ∧ (getEth t 3).up = false ∧ t.pair.port1.up = false)
  ∧ (∀ s : State, s.pair.keys = true →
      let q := nthD s.pair.tx 0 0
      let b : RopeBody := .heartbeat s.sys.mode.code (pairShown s) s.sched.pitch (appliedSeqs s) s.pair.trusted
      ∃ t, exec .heartbeatTimer s = .next t ∧ t.pair.tx = setNth s.pair.tx 0 (q + 1)
        ∧ t.pair.unacked = s.pair.unacked ++ [{ cls := 0, seq := q, body := b, sentAt := s.sched.pitch }]
        ∧ t.out = s.out ++ [.rope 0 q b (ropePorts 0 s) (ropeFrame s.pair.keyOut s.pair.ivOut 0 q b)])
  ∧ (∀ (cls seq : Nat) (s : State) (f : RopeTx),
      s.pair.unacked.find? (fun f => f.cls == cls && f.seq == seq && decide (f.sentAt + 10 ≤ s.sched.pitch)) = some f →
      (stillQueued s cls seq = false → (cls = 2 → ∀ p ∈ [0, 1].filter (ropeUp s), portFull s p = false) →
        ∃ t, exec (.ropeResendTimeout cls seq) s = .next t
          ∧ t.pair.unacked = (s.pair.unacked.map fun x => if x = f then { x with sentAt := s.sched.pitch } else x)
          ∧ t.pair.tx = s.pair.tx
          ∧ t.out = s.out ++ [.rope cls seq f.body ([0, 1].filter (ropeUp s)) (ropeFrame s.pair.keyOut s.pair.ivOut cls seq f.body)])
      ∧ (stillQueued s cls seq = true → exec (.ropeResendTimeout cls seq) s = .next s))
  ∧ (∀ (h : RopeHdr) (seq mode st pitch : Nat) (a : Nat × Nat × Nat) (trust holds : Bool) (rtt : Nat) (s : State),
      Intact h 0 (.heartbeat mode st pitch a trust) s →
      seq = nthD s.pair.rx 0 0 →
      ∃ t, exec (.heartbeat h seq mode st pitch a trust holds rtt) s = .next t ∧ t.pair.rx = setNth s.pair.rx 0 (seq + 1)
        ∧ t.pair.acked = [max (nthD s.pair.acked 0 0) a.1, max (nthD s.pair.acked 1 0) a.2.1, max (nthD s.pair.acked 2 0) a.2.2])
  ∧ (∀ (h : RopeHdr) (seq : Nat) (a : Nat × Nat × Nat) (s : State), Intact h 0 (.ack a) s → seq = nthD s.pair.rx 0 0 →
      ∃ t, exec (.ropeAck h seq a) s = .next t ∧ t.pair.rx = setNth s.pair.rx 0 (seq + 1)
        ∧ t.pair.acked = [max (nthD s.pair.acked 0 0) a.1, max (nthD s.pair.acked 1 0) a.2.1, max (nthD s.pair.acked 2 0) a.2.2])
  ∧ ∀ s : State,
      (announceDue s = true →
        ∃ t, exec .addressAnnounceRepeat s = .next t ∧ t.pair = { s.pair with announces := s.pair.announces + 1 })
      ∧ (announceDue s = false → exec .addressAnnounceRepeat s = .next s)

/-- Frames of the partner (14 R415, R418, R419, R424, R429, R431, R435). -/
def Obligations.PartnerFramesAreAppliedInOrder : Prop :=
  (∀ (h : RopeHdr) (q a b d e g : Nat) (k : Nat × Nat × Nat) (v w : Bool) (x : Change) (i : W32) (l : List Stream) (p : SessPos)
      (y : List Byte) (m : FwdMsg) (r : BulkRec) (n : Word) (z : Attest) (u : Tab (List Nat)) (s : State),
      ∀ c ∈ ([(.heartbeat h q a b d k v w e, .heartbeat a b d k v), (.ropeAck h q k, .ack k), (.state h q x, .state x),
        (.head h q a b i l, .head a b i l), (.session h q p, .sessionPos p), (.entryUnits h q a b i y, .entryUnits a b i y),
        (.forward h q m, forwardBody m), (.bulk h q r, .bulk r), (.fence h q a, .fence a), (.relay h q a g y, .relay a g y),
        (.joinHello h n a b y, .joinHello n a b y), (.joinAttest h z, .joinAttest (attestRecord z) z.sig), (.joinKey h y y, .joinKey y y),
        (.handover h q a [] u, .handover a [] u)] : List (Instr × RopeBody)),
      ropeFits s h c.2 = false → exec c.1 s = .next s)
  ∧ (∀ (c : Instr) (h : RopeHdr) (cls seq : Nat) (s : State), s.pair.keys = true → seq ≠ nthD s.pair.rx cls 0 →
      (cls = 1 ∧ ((∃ x, c = .state h seq x) ∨ (∃ a b d l, c = .head h seq a b d l) ∨ (∃ x, c = .session h seq x)
          ∨ ∃ m, c = .forward h seq m))
        ∨ (cls = 2 ∧ ((∃ a b d l, c = .entryUnits h seq a b d l) ∨ (∃ r, c = .bulk h seq r) ∨ ∃ p a d, c = .relay h seq p a d))
        ∨ (cls = 0 ∧ ((∃ r, c = .fence h seq r) ∨ ∃ k l u, c = .handover h seq k l u)) →
      ∃ t, exec c s = .next t ∧ t.vault = s.vault ∧ t.quorum = s.quorum ∧ t.qm = s.qm ∧ t.tol = s.tol ∧ t.sched = s.sched
        ∧ t.mem = s.mem ∧ t.out = s.out ∧ t.pair.rx = s.pair.rx ∧ t.pair.peerQueues = s.pair.peerQueues
        ∧ t.pair.peerSessions = s.pair.peerSessions ∧ t.pair.st = s.pair.st)
  ∧ (∀ (h : RopeHdr) (seq slot gen : Nat) (s : State), Intact h 1 (.state (.keyDel slot gen)) s → seq = nthD s.pair.rx 1 0 →
      notCopied slot s = false →
      ∃ t, exec (.state h seq (.keyDel slot gen)) s = .next t ∧ tget t.vault.objs slot = none
        ∧ tget t.vault.gens slot = some gen ∧ t.pair.rx = setNth s.pair.rx 1 (seq + 1)
        ∧ ((∀ o, tget s.vault.objs slot = some o → o.link = none) → t.vault.objs = tdel s.vault.objs slot)
        ∧ ∀ o n p, tget s.vault.objs slot = some o → o.link = some n → n ≠ slot → tget s.vault.objs n = some p →
            tget t.vault.objs n = some (if p.link = some slot then { p with link := none } else p))
  ∧ (∀ (h : RopeHdr) (seq session qnum : Nat) (chead : W32) (streams : List Stream) (s : State),
      Intact h 1 (.head session qnum chead streams) s → seq = nthD s.pair.rx 1 0 →
      ∃ t, exec (.head h seq session qnum chead streams) s = .next t
        ∧ t.pair.peerStreams = (s.pair.peerStreams.filter fun x => !(x.1 == session && x.2.1 == qnum))
            ++ streams.map fun x => (session, qnum, x))
  ∧ (∀ (h : RopeHdr) (seq : Nat) (p : SessPos) (s : State), Intact h 1 (.sessionPos p) s → seq = nthD s.pair.rx 1 0 →
      ∃ t, exec (.session h seq p) s = .next t
        ∧ (p.event = 1 → (∀ x ∈ t.pair.peerSessions, x.slot ≠ p.slot) ∧ ∀ q ∈ t.pair.peerQueues, q.session ≠ p.slot)
        ∧ (p.event ≠ 1 → p.event ≠ 4 → ∃ x ∈ t.pair.peerSessions, { p with epoch := x.epoch, prk := x.prk } = x
            ∧ p.epoch.toNat ≤ x.epoch.toNat)
        ∧ (p.event = 4 → t.pair.peerSessions = s.pair.peerSessions))
  ∧ (∀ (h : RopeHdr) (seq session qnum : Nat) (first : W32) (data : List Byte) (s : State) (q : PeerQueue),
      Intact h 2 (.entryUnits session qnum first data) s →
      seq = nthD s.pair.rx 2 0 → findPeerQueue s session qnum = some q →
      ∃ t, exec (.entryUnits h seq session qnum first data) s = .next t
        ∧ { q with units := putUnits (2 ^ (q.sizeLog2 - 6)) (data.length / 64) data first.toNat q.units } ∈ t.pair.peerQueues)
  ∧ (∀ (h : RopeHdr) (seq : Nat) (f : Forwarded) (s : State), Intact h 1 (forwardBody (.job f)) s → seq = nthD s.pair.rx 1 0 →
      ∃ t, exec (.forward h seq (.job f)) s = .next t ∧ t.sched.fwdIn = s.sched.fwdIn ++ [f])
  ∧ (∀ (h : RopeHdr) (seq : Nat) (r : Tab (List Byte)) (b : Tab Nat) (d : Tab (List Byte)) (s : State), Intact h 2 (.bulk (.roots r b d)) s →
      seq = nthD s.pair.rx 2 0 → s.pair.st = 2 → s.pair.source = false →
      ∃ t, exec (.bulk h seq (.roots r b d)) s = .next t ∧ t.vault.roots = r ∧ t.vault.binds = b ∧ t.vault.seeds = d
        ∧ t.sys.unkeyed = (tget r 0).isNone)
  ∧ (∀ (h : RopeHdr) (seq reason : Nat) (s : State), Intact h 0 (.fence reason) s → seq = nthD s.pair.rx 0 0 → serving s = true → s.pair.st = 3 → reason ≠ 3 →
      ∃ t, exec (.fence h seq reason) s = .next t ∧ t.sys.paired = false ∧ t.pair.st = 4 ∧ t.pair.keys = false
        ∧ t.pair.takeCause = 2 ∧ t.pair.addrTaken = true ∧ t.pair.addrHeld = true)
  ∧ (∀ (h : RopeHdr) (seq : Nat) (l : List Nat) (u : Tab (List Nat)) (s : State), Intact h 0 (.handover 1 l u) s → seq = nthD s.pair.rx 0 0 →
      ∃ t, exec (.handover h seq 1 l u) s = .next t ∧ t.pair.addrTaken = true ∧ t.pair.takeCause = 3 ∧ t.pair.peerAddrs = u)
  ∧ ∀ (h : RopeHdr) (seq p src : Nat) (d : List Byte) (s : State), Intact h 2 (.relay p src d) s → seq = nthD s.pair.rx 2 0 →
      s.sys.handedOver = false → BuffersOpen p s →
      ∃ t, exec (.relay h seq p src d) s = .next t
        ∧ ((getEth s p).up = false → t.out = s.out)
        ∧ ∀ hop n, (getEth s p).up = true → (getEth s p).macsec = false → (getEth s p).nextHop (src / 65536) = some hop →
            tget (getEth s p).neigh hop = some n → n.resolved = true → (getEth s p).isPaused (getEth s p).pcp = false →
            t.out = s.out ++ [unsecuredOut p s (.eth p ethRelayed d { dest := src, bytes := d })]

/-- Joining (14 R433, R434, R435, R436). -/
def Obligations.JoiningMovesThePairState : Prop :=
  (∀ s : State, joinReady s = true →
      ∃ t, exec .joinStart s = .next t ∧ t.pair.st = 1 ∧ t.pair.helloSent = canDrawNow s (joinDraw s)
        ∧ t.ent.pool = s.ent.pool.drop (if canDrawNow s (joinDraw s) then joinDraw s else 0))
  ∧ (∀ (h : RopeHdr) (devId : Word) (role dir : Nat) (nonce : List Byte) (s : State), JoinIn h (.joinHello devId role dir nonce) s → s.pair.st ≠ 7 →
      ∃ t, exec (.joinHello h devId role dir nonce) s = .next t ∧ t.pair.peerHello = some (devId, role, dir) ∧ t.pair.peerNonce = nonce)
  ∧ (∀ (h : RopeHdr) (a : Attest) (s : State), JoinIn h (.joinAttest (attestRecord a) a.sig) s → s.pair.st = 1 → s.pair.helloSent = true → s.pair.peerHello ≠ none →
      ∃ t, exec (.joinAttest h a) s = .next t
        ∧ (if joinRefusal s a = 0 then
            t.pair.attested = true ∧ t.pair.refuse = 0 ∧ t.pair.st = 1 ∧ isSource s a = some t.pair.source
          else t.pair.st = 7 ∧ t.pair.refuse = joinRefusal s a ∧ t.pair.attested = s.pair.attested))
  ∧ (∀ (h : RopeHdr) (kem point : List Byte) (s : State), JoinIn h (.joinKey kem point) s → s.pair.st = 1 → s.pair.attested = true →
      ∃ t, exec (.joinKey h kem point) s = .next t ∧ t.pair.keys = true ∧ t.pair.st = 2 ∧ t.pair.source = s.pair.source
        ∧ t.pair.rx = [0, 0, 0] ∧ t.pair.acked = [0, 0, 0] ∧ (s.pair.source = false → t.vault.objs = [] ∧ t.quorum.props = []))
  ∧ (∀ s : State, s.pair.st = 2 → (s.pair.source = true → copyDone s = true) →
      ∃ t, exec .bulkCopyEnd s = .next t ∧ t.pair.st = 3 ∧ t.sys.paired = true ∧ t.board.liveOut = true ∧ t.pair.addrTaken = false)
  ∧ ∀ s : State, serving s = true → joinOn s = true → s.pair.addrHeld = false → s.sys.handedOver = false → s.pair.keys = false →
      s.pair.liveIn = false → s.pair.fencedOff = false →
      max s.pair.joinWaitFrom (max s.pair.port0.lastAuth s.pair.port1.lastAuth) + joinWait s ≤ s.sched.pitch →
      ∃ t, exec .joinWaitExpiry s = .next t ∧ t.pair = { s.pair with addrHeld := true }

/-- The fabric (14 R440, R441, R442, R443). -/
def Obligations.FabricMembersReplicate : Prop :=
  (∀ s : State, fabricUp s = true →
      ∃ t, exec .announceTimer s = .next t
        ∧ t.fab.seq = s.fab.seq + ([0, 1].filter fun p => usesFabric s p && (ropePort s p).up).length ∧ t.fab.routes = s.fab.routes)
  ∧ (∀ (h : FabHdr) (v w : Bool) (a b d : Nat) (l : List (Nat × Nat)) (k : Option (List Byte)) (s : State), fabricFits s h = false →
      ∀ c ∈ [Instr.announce h v w l, .replicate h a b d k, .replAck h a b, .fabricRelay h], exec c s = .next s)
  ∧ (∀ (h : FabHdr) (second : Bool) (routes : List (Nat × Nat)) (w : Nat × List Nat) (s : State), Heard h w s →
      (h.src = memberId s → ∃ t, exec (.announce h second false routes) s = .next t ∧ t.pair.fabDup = true ∧ t.pair.fabDupPitch = s.sched.pitch
        ∧ t.fab.routes = s.fab.routes)
      ∧ (h.src ≠ memberId s → betterRoute (tget s.fab.routes h.src) h.src 1 = true →
          ∃ t, exec (.announce h second false []) s = .next t ∧ tget t.fab.windows h.src = some w
            ∧ t.fab.routes = tput s.fab.routes h.src { via := h.src, port := h.port, hops := 1, pitch := s.sched.pitch }))
  ∧ (∀ (dst : Nat) (s : State) (r : Route), tget s.fab.routes dst = some r → r.pitch + 175000 ≤ s.sched.pitch →
      exec (.routeExpiry dst) s = .next { s with fab := { s.fab with routes := tdel s.fab.routes dst } })
  ∧ (∀ s : State, s.pair.fabDup = true → s.pair.fabDupPitch + second ≤ s.sched.pitch →
      exec .fabDupClear s = .next { s with pair := { s.pair with fabDup := false } })
  ∧ (∀ (h : FabHdr) (oper slot gen : Nat) (pack : Option (List Byte)) (s : State) (w : Nat × List Nat), Heard h w s →
      ∃ t, exec (.replicate h oper slot gen pack) s = .next t ∧ tget t.fab.windows h.src = some w ∧ t.fab.seq = s.fab.seq + 1
        ∧ (oper = 2 → tget t.vault.objs slot = none
            ∧ ((∀ o, tget s.vault.objs slot = some o → o.link = none) → t.vault.objs = tdel s.vault.objs slot))
        ∧ (oper ≠ 2 → pack.bind (replicaObj s gen) = none → t.vault = s.vault)
        ∧ ∀ o, oper ≠ 2 → pack.bind (replicaObj s gen) = some o → ∃ n, tget t.vault.objs slot = some n ∧ n.mat = o.mat
            ∧ n.gen = gen ∧ n.policy = o.policy ∧ o.policy &&& polImported = polImported)
  ∧ (∀ (h : FabHdr) (slot gen : Nat) (w : Nat × List Nat) (s : State), Heard h w s →
      Gives (.replAck h slot gen) s { s with fab := { s.fab with
        windows := tput s.fab.windows h.src w
        repl := s.fab.repl.filter fun r => !(r.member == h.src && r.slot == slot && r.gen == gen) } })
  ∧ (∀ (member slot : Nat) (s : State) (r : Repl),
      s.fab.repl.find? (fun r => r.member == member && r.slot == slot && (r.oper == 2 || r.pack.isSome)
        && decide (r.pitch + 5000 ≤ s.sched.pitch)) = some r →
      (s.pair.fabDup = true → exec (.replicateRetry member slot) s = .next s)
      ∧ (s.pair.fabDup = false →
      (r.tries < 3 → ∃ t, exec (.replicateRetry member slot) s = .next t ∧ t.fab.seq = s.fab.seq + 1
        ∧ { r with tries := r.tries + 1, pitch := s.sched.pitch } ∈ t.fab.repl)
      ∧ (3 ≤ r.tries → Gives (.replicateRetry member slot) s { s with fab := { s.fab with repl := s.fab.repl.filter fun x => x != r } })))
  ∧ ∀ (h : FabHdr) (r : Route) (s : State), fabricFits s h = true → h.member ≠ memberId s →
      tget s.fab.routes h.member = some r →
      (h.hops < 16 → Gives (.fabricRelay h) s { s with out := s.out ++ [.fabricRelay h.member r.via (h.hops + 1) r.port] })
      ∧ (16 ≤ h.hops → Gives (.fabricRelay h) s s)

/-- Records and handshakes (03 R73, R75, R80, R82, R86, R88, R89, R91, R96, R99, R101, R117). -/
def Obligations.DatagramsAndHandshakesAct : Prop :=
  (∀ (p : Nat) (d : Datagram) (s : State) (i : Nat) (x : Sess) (e : W32), p < 4 → PlainIn p d.hdr s →
      datagramPasses (getEth s p) d = true → answersFor s p d.dst = true → 32 ≤ d.frame.length →
      leAt d.frame 0 1 = 1 → leAt d.frame 1 1 ∈ hostTypes → s.sys.mode ≠ .lockdown →
      sessById s (leAt d.frame 4 4) (some p) = some (i, x) → mapEpoch x (leAt d.frame 2 1) = some e →
      windowTakes (seenIn x e) (leAt d.frame 8 4) = true →
      (frameOpens x e d.frame = false → Gives (.udpDatagramReceive p d) s s)
      ∧ (frameOpens x e d.frame = true →
          let y := x.heardIn e (leAt d.frame 8 4) d.src d.dst s.sched.pitch (tolCfg s)
          (∃ t, exec (.udpDatagramReceive p d) s = .next t ∧ t.tol = (setSess i y s).tol ∧ t.qm = s.qm ∧ t.sched = s.sched
            ∧ t.vault = s.vault ∧ t.mem = s.mem)
          ∧ (mirroring s = false ∨ (x.dest = d.src ∧ x.loc = d.dst) → Gives (.udpDatagramReceive p d) s (setSess i y s))))
  ∧ (∀ (p : Nat) (d : Datagram) (s : State), p < 4 →
      (d.hdr.fcsOk = false ∨ (BuffersOpen p s ∧ (getEth s p).macsec = true ∧ d.hdr.sec = none)
        ∨ (PlainIn p d.hdr s ∧ (datagramPasses (getEth s p) d = false ∨ answersFor s p d.dst = false
            ∨ d.frame.length < 16 ∨ leAt d.frame 0 1 ≠ 1))) →
      Gives (.udpDatagramReceive p d) s s)
  ∧ (∀ (p : Nat) (d : Datagram) (s : State), p < 4 → PlainIn p d.hdr s → datagramPasses (getEth s p) d = true →
      answersFor s p d.dst = true → s.sys.mode ≠ .lockdown → leAt d.frame 0 1 = 1 → leAt d.frame 1 1 = 1 →
      d.frame.length = 16 + leAt d.frame 12 2 → 8 ≤ leAt d.frame 12 2 → leAt d.frame 20 4 ≤ 65536 →
      leAt d.frame 16 4 + (leAt d.frame 12 2 - 8) ≤ leAt d.frame 20 4 → d.frame.length ≤ helloLimit (getEth s p) (leAt d.frame 4 4) →
      (∀ a ∈ (getEth s p).asm, ¬ (a.src = d.src ∧ a.key = leAt d.frame 4 4)) →
      ∃ t, exec (.udpDatagramReceive p d) s = .next t
        ∧ { src := d.src, key := leAt d.frame 4 4, total := leAt d.frame 20 4
            parts := [(leAt d.frame 16 4, d.frame.drop 24)] } ∈ (getEth t p).asm)
  ∧ (∀ (p src dst tag : Nat) (m : List Byte) (h : LinkHdr) (s : State), HelloIn p src dst tag h s → s.sys.mode = .lockdown →
      ∀ c ∈ [Instr.hello p src dst 1 tag m h, .helloStep3 p src dst tag m h],
      ∃ t, exec c s = .next t ∧ t.tol.sess = s.tol.sess ∧ (getEth t p).hs = (getEth s p).hs)
  ∧ (∀ (p src dst tag : Nat) (m : List Byte) (h : LinkHdr) (s : State) (c : Cred), HelloIn p src dst tag h s →
      s.sys.mode ≠ .lockdown → joinTarget s = false → relaysHello s p dst m = false → (getEth s p).hs.length < 32 →
      (∀ h ∈ (getEth s p).hs, ¬ (h.hello = m ∧ h.src = src ∧ h.tag = tag)) →
      (∀ x ∈ s.tol.sess, ¬ (x.2.hello = m ∧ x.2.helloSrc = src ∧ x.2.helloTag = tag)) →
      helloFits tag m = true → helloCred s m = some c → sessionsFull s p = false →
      ∃ t, exec (.hello p src dst 1 tag m h) s = .next t ∧ t.tol.sess = s.tol.sess
        ∧ if helloKeysOk m then
            (getEth t p).hs.length = (getEth s p).hs.length + 1
              ∧ ∃ h ∈ (getEth t p).hs, h.tag = tag ∧ h.src = src ∧ h.hello = m ∧ h.cred = c ∧ h.start = s.sched.pitch
          else (getEth t p).hs = (getEth s p).hs)
  ∧ (∀ (p src dst sid : Nat) (m : List Byte) (d : LinkHdr) (s : State) (h : Handshake) (i : Nat), HelloIn p src dst sid d s →
      s.sys.mode ≠ .lockdown →
      (getEth s p).hs.find? (fun h => h.sid == sid && !h.waiting && h.gate.isNone) = some h →
      (List.range 512).find? (fun n => (tget s.tol.sess n).isNone) = some i → sessionsFull s p = false →
      ∃ t, exec (.helloStep3 p src dst sid m d) s = .next t
        ∧ (getEth t p).hs = ((getEth s p).hs.filter fun k => k.sid != sid)
        ∧ if step3Ok h m then
            (∃ x, getSess t i = some x ∧ x.sid = h.sid ∧ x.port = p ∧ x.dest = src ∧ x.loc = dst ∧ x.st = 2 ∧ x.txEpoch = 0 ∧ x.rxEpoch = 0 ∧ x.role = h.cred.role)
              ∧ tget t.qm.queues (adminSlot i) = some (adminQueue i (if h.cred.role < 3 then 0 else h.cred.part))
          else t.tol.sess = s.tol.sess ∧ t.qm = s.qm)
  ∧ ∀ (p tag : Nat) (s : State), (∃ h ∈ (getEth s p).hs, h.tag = tag ∧ h.start + second ≤ s.sched.pitch) →
      exec (.handshakeTimeout p tag) s = .next (setEth p { getEth s p with
        hs := (getEth s p).hs.filter fun h => !(h.tag == tag && decide (h.start + second ≤ s.sched.pitch))
        asm := (getEth s p).asm.filter fun a => !((getEth s p).hs.any fun h =>
          h.tag == tag && decide (h.start + second ≤ s.sched.pitch) && (a.key == h.sid || (a.key == h.tag && a.src == h.src))) } s)

/-- The end of sessions and the change of epochs (03 R101, R102, R103, R104, R115, R116). -/
def Obligations.SessionsEndAndRekey : Prop :=
  (∀ (c : Instr) (i : Nat) (x : Sess) (s : State), getSess s i = some x → x.st = 2 →
      c = .close i ∨ (c = .idleClose i ∧ x.lastRx + idleLimit x.idleCfg ≤ s.sched.pitch)
        ∨ (c = .seqExhausted i ∧ (0xFFFFFFFE ≤ x.txSeq ∨ 0xFFFFFFFE ≤ x.rxSeq))
        ∨ (∃ sid y, c = .tolSclose sid ∧ sessById s sid none = some (i, y)) →
      ∃ t y, exec c s = .next t ∧ getSess t i = some y ∧ y.st = 3 ∧ y.unacked = [] ∧ y.blocked = [] ∧ y.held = []
        ∧ (∀ q ∈ t.qm.queues, q.2.session = i → q.2.isInternal = false → q.2.discard = true ∧ (q.2.tearAsk = 2 ∨ q.2.st = .tearing))
        ∧ ∀ k, k ≠ i → getSess t k = getSess s k)
  ∧ (∀ (i : Nat) (x : Sess) (s : State), getSess s i = some x → updateDue s x = true → x.txEpoch ≠ 0xFFFFFFFF →
      ∃ t y, exec (.keyUpdateStart i) s = .next t ∧ getSess t i = some y ∧ y.update = some (x.txEpoch + 1) ∧ y.rxEpoch = x.rxEpoch)
  ∧ (∀ (i : Nat) (x : Sess) (n : W32) (response : Bool) (s : State), getSess s i = some x → x.st = 2 → x.held = [] →
      dist x.rxDseq x.ackCum < 512 → x.update = some n → x.updateGate = none →
      ∃ t y, exec (.keyUpdate i x.rxDseq n response) s = .next t ∧ getSess t i = some y ∧ y.update = none ∧ y.rxDseq = x.rxDseq + 1
        ∧ y.rxEpoch = (x.follow n s.sched.pitch).rxEpoch ∧ y.st = 2)
  ∧ ∀ (i : Nat) (x : Sess) (p : Nat) (s : State), getSess s i = some x → x.graceFrom = some p → p + second ≤ s.sched.pitch →
      (∀ g ∈ x.older, g.2.1 + second ≤ s.sched.pitch) →
      exec (.epochGraceExpiry i) s = .next (setSess i { x with
        graceFrom := none, seenPrev := [], older := []
        keys := x.keys.filter fun k => k.1 == x.rxEpoch || k.1 == x.txEpoch || k.1 == x.top } s)

/-- Reliable delivery and timers (03 R105, R106, R107, R108, R109, R112, R115, 04 R130). -/
def Obligations.ReliableFramesAreDelivered : Prop :=
  (∀ (i qnum units : Nat) (first newPidx : W32) (data : List Byte) (s : State) (x : Sess) (slot : Nat) (q : Queue),
      getSess s i = some x → x.st = 2 → x.held = [] → dist x.rxDseq x.ackCum < 512 → queueOf s i qnum = some (slot, q) → q.st ≠ .tearing →
      frameOk q { dseq := x.rxDseq, qnum, units, first, newPidx, data } = true →
      ∃ t p y, exec (.ringWrite i x.rxDseq qnum units first newPidx data) s = .next t ∧ tget t.qm.queues slot = some p
        ∧ p.applied = newPidx ∧ p.cidx = q.cidx ∧ p.chead = q.chead ∧ getSess t i = some y ∧ y.rxDseq = x.rxDseq + 1
        ∧ (s.sys.paired = false → s.pair.keys = false → p.visible = (if q.pidxGate = [] then newPidx else q.visible))
        ∧ (Memory.wf s.mem = true → ∀ a, (∀ k < units, ¬ (unitAddr q (first.toNat + k) ≤ a ∧ a < unitAddr q (first.toNat + k) + 64)) →
            readByte t.mem a = readByte s.mem a))
  ∧ (∀ (i : Nat) (cum : W32) (window delayUs : Nat) (ranges : List (W32 × W32)) (s : State) (x : Sess),
      getSess s i = some x → x.st = 2 →
      (dist x.txDseq x.cum < dist cum x.cum → exec (.tolyrAck i cum window delayUs ranges) s = .next s)
      ∧ (dist cum x.cum ≤ dist x.txDseq x.cum → ∃ t y, exec (.tolyrAck i cum window delayUs ranges) s = .next t ∧ getSess t i = some y
          ∧ y.cum = cum ∧ y.window = window ∧ y.lastRx = s.sched.pitch ∧ y.st = 2))
  ∧ (∀ (i : Nat) (dseq : W32) (s : State) (x : Sess) (f : TxFrame), getSess s i = some x → x.st = 2 →
      x.unacked.find? (fun f => f.dseq == dseq) = some f → rto x f ≤ 2 * (s.sched.pitch - f.sentAt) →
      (maxRetx f.cfg ≤ f.retx → ∃ t, exec (.retransmitTimeout i dseq) s = .next t ∧ Closing t i)
      ∧ (f.retx < maxRetx f.cfg → seqFits x f.body = true → ∃ t y, exec (.retransmitTimeout i dseq) s = .next t ∧ getSess t i = some y
          ∧ { f with sentAt := s.sched.pitch, cfg := tolCfg s, retx := f.retx + 1 } ∈ y.unacked ∧ y.txSeq = x.txSeq + 1
          ∧ y.txDseq = x.txDseq))
  ∧ (∀ (i : Nat) (id : Word) (s : State) (x : Sess), getSess s i = some x → x.st = 2 →
      exec (.ping i id true) s = .next (setSess i { x with lastRx := s.sched.pitch, idleCfg := tolCfg s, pairMove := none } s)
      ∧ (x.txSeq ≤ 0xFFFFFFFE → ∃ t y, exec (.ping i id false) s = .next t ∧ getSess t i = some y ∧ y.txSeq = x.txSeq + 1
          ∧ y.lastRx = s.sched.pitch)
      ∧ (0xFFFFFFFE < x.txSeq → exec (.ping i id false) s = .next
          (setSess i { x with lastRx := s.sched.pitch, idleCfg := tolCfg s, pairMove := none } s)))
  ∧ (∀ (i : Nat) (s : State) (x : Sess), getSess s i = some x → x.st = 2 → x.lastRx + idleLimit x.idleCfg / 3 ≤ s.sched.pitch →
      x.txSeq ≤ 0xFFFFFFFE →
      ∃ t y, exec (.idlePing i) s = .next t ∧ getSess t i = some y ∧ y.txSeq = x.txSeq + 1 ∧ t.freeCtr = s.freeCtr + 8)
  ∧ ∀ (i kind : Nat) (s : State) (x : Sess), getSess s i = some x → x.pairMove = some kind → x.txSeq ≤ 0xFFFFFFFE →
      ∃ t y, exec (.pairMoveRepeat i) s = .next t ∧ getSess t i = some y ∧ y.txSeq = x.txSeq + 1 ∧ y.pairMove = some kind

/-- Timed rows of the quorum, the life cycle and the cairn log (12 R357, R360, R370, 15 R468, R469, 17 R500, R501, R502, R515). -/
def Obligations.WaitsOfTheQuorumAndLifeCycleEnd : Prop :=
  (∀ (slot : Nat) (s : State) (p : Proposal), tget s.quorum.props slot = some p →
      (p.state = 1 → p.expires ≤ s.sched.pitch → ∃ t, exec (.proposalDeadlineExpiry slot) s = .next t
        ∧ t.quorum.props = tdel s.quorum.props slot ∧ t.quorum.journalSeq = s.quorum.journalSeq + 1 ∧ t.rwq = s.rwq)
      ∧ (p.state = 2 → p.token ≠ [] → p.tokenEnd ≤ s.sched.pitch → ∃ t, exec (.tokenExpiry slot) s = .next t
        ∧ t.quorum.props = tdel s.quorum.props slot ∧ t.quorum.journalSeq = s.quorum.journalSeq + 1 ∧ t.rwq = s.rwq)
      ∧ (s.sched.pitch < p.expires → exec (.proposalDeadlineExpiry slot) s = .next s)
      ∧ (s.sched.pitch < p.tokenEnd → exec (.tokenExpiry slot) s = .next s))
  ∧ (∀ (off : Nat) (v : Word) (s : State),
      (rwqMask off = none → exec (.stagedRegisterWrite off v) s = .next s)
      ∧ ∀ m, rwqMask off = some m → ∃ t, exec (.stagedRegisterWrite off v) s = .next t ∧ staged t off = v.toNat &&& m
          ∧ (∀ o, inForce t o = inForce s o) ∧ (∀ o, o ≠ off → staged t o = staged s o) ∧ t.mem = s.mem)
  ∧ (∀ s : State, exec .quoCmtGo s = .next { s with quorum := { s.quorum with
      commits := s.quorum.commits ++ [(leBytes 8 s.quorum.tok0.toNat ++ leBytes 8 s.quorum.tok1.toNat, none)] } })
  ∧ (∀ (s : State) (b : List Byte) (n : Nat), s.life.chal = some (b, n) →
      exec .lcChallengeExpiry s = .next (if n + 60 * second ≤ s.sched.pitch then { s with life := { s.life with chal := none } } else s))
  ∧ (∀ (s : State) (b : List Byte) (n : Nat), s.dbg.chal = some (b, n) →
      exec .dbgChallengeExpiry s = .next (if n + 60 * second ≤ s.sched.pitch then { s with dbg := { s.dbg with chal := none } } else s))
  ∧ (∀ (index : Nat) (v : W32) (s : State), presentState s = 2 → s.life.code = 2 → s.dbg.enabled.getLsbD 0 = true → index ≤ 255 → holdReady s = true →
      exec (.lcTrim index v) s = .next { s with life := { s.life with trims := tput s.life.trims index (tgetD s.life.trims index 0 ||| v) } })
  ∧ (∀ (index : Nat) (v : W32) (s : State), s.life.code ≠ 2 ∨ presentState s ≠ 2 → exec (.lcTrim index v) s = .next s)
  ∧ (∀ (s : State) (x : Transition), s.life.trans = some x → x.paused = false → s.board.vddGuard = true → x.target ≤ 4 →
      ∃ t, exec .antifuseStepComplete s = .next t
        ∧ (1 < x.left → ∃ y, t.life.trans = some y ∧ y.left = x.left - 1 ∧ y.target = x.target ∧ t.life.pendingPwr = s.life.pendingPwr)
        ∧ (x.left ≤ 1 → t.life.trans = none ∧ t.life.pendingPwr = true ∧ t.life.nextSt = x.target))
  ∧ (∀ s : State, s.board.vddGuard = true → ∃ t, exec .holdupRestored s = .next t ∧ t.life.holdOk = true ∧ 2500 ≤ t.life.stable
      ∧ holdReady t = true ∧ ∀ x, t.life.trans = some x → x.paused = false)
  ∧ (∀ (s : State) (e : CairnEnt) (l : List CairnEnt), s.board.vddGuard = true → 2500 ≤ s.life.stable → s.cairn.buf = e :: l →
      e.target = none → s.cairn.next < 8160 → s.dbg.waitEn = 0 →
      exec .cairnBufferProgram s = .next { s with cairn := { s.cairn with buf := { e with target := some s.cairn.seq } :: l } })
  ∧ ∀ (s : State) (e : CairnEnt) (l : List CairnEnt), s.board.vddGuard = true → s.cairn.buf = e :: l → e.target.isSome = true →
      s.dbg.waitEn = 0 →
      ∃ t, exec .cairnRecordProgrammed s = .next t ∧ t.cairn.next = s.cairn.next + 1 ∧ t.cairn.seq = s.cairn.seq + 1
        ∧ (∃ r, tget t.cairn.log s.cairn.next = some r) ∧ t.cairn.buf = l ++ s.cairn.waiting.take 1

/-- Internal queues (04 R147, 13 R392, R393). -/
def Obligations.InternalQueuesFollowTheirCommands : Prop :=
  (∀ (core : Option Nat) (slot : Nat) (p : W32) (s : State),
      (∀ q, getQueue s slot = some q → q.isInternal = true → ipidxAllowed s core q = true → pidxOk q p = true → q.st ≠ .tearing →
        exec (.qmIpidx core slot p) s = .next (setQueue slot { q with applied := p, visible := p } s))
      ∧ ((∀ q, getQueue s slot = some q → (q.isInternal && ipidxAllowed s core q && pidxOk q p) = false) →
        exec (.qmIpidx core slot p) s = .next { s with qm := { s.qm with ipidxRej := true } }))
  ∧ (∀ (c slot : Nat) (p : W32) (s : State) (q : Queue), (getCore s c).base = true → getQueue s slot = some q → q.isInternal = true →
      (¬ (bitAt (getCore s c).wten.toNat 8 = true ∧ fld (getCore s c).wten.toNat 0 8 = q.session) →
        exec (.qmIpidx (some c) slot p) s = .next { s with qm := { s.qm with ipidxRej := true } })
      ∧ (bitAt (getCore s c).wten.toNat 8 = true → fld (getCore s c).wten.toNat 0 8 = q.session → pidxOk q p = true → q.st ≠ .tearing →
        exec (.qmIpidx (some c) slot p) s = .next (setQueue slot { q with applied := p, visible := p } s)))
  ∧ (∀ (lg tf slot : Nat) (s : State), s.world.iqBusy = true →
      exec (.worldIqCreate lg tf) s = .next s ∧ exec (.worldIqReset slot) s = .next s ∧ exec (.worldIqDestroy slot) s = .next s)
  ∧ (∀ (lg tf : Nat) (s : State), s.world.iqBusy = false →
      (getFn s tf = none → ∃ t, exec (.worldIqCreate lg tf) s = .next t ∧ t.world.iqDone = true ∧ t.world.iqStatus = 2 ∧ t.qm = s.qm)
      ∧ ∀ f k, getFn s tf = some f → 12 ≤ lg → lg ≤ 24 → arenaBase ≤ rw s 0x120070 → rw s 0x120070 % 2 ^ lg = 0 →
          blockFree (ringsUsed s) (rw s 0x120070) (2 ^ lg) = true → freeQueueSlot s = some k →
          ∃ t q, exec (.worldIqCreate lg tf) s = .next t ∧ tget t.qm.queues k = some q ∧ q.isInternal = true ∧ q.sizeLog2 = lg
            ∧ q.session = tf ∧ q.part = f.part ∧ q.base = rw s 0x120070 ∧ q.applied = 0 ∧ q.cidx = 0 ∧ q.chead = 0
            ∧ t.world.iqDone = true ∧ t.world.iqStatus = 0 ∧ t.world.iqSlot = k ∧ t.world.iqBusy = false)
  ∧ ∀ (slot : Nat) (s : State), s.world.iqBusy = false →
      ∀ c ∈ [(Instr.worldIqReset slot, 1), (Instr.worldIqDestroy slot, 2)],
        (getQueue s slot = none → ∃ t, exec c.1 s = .next t ∧ t.world.iqStatus = 2 ∧ t.world.iqDone = true ∧ t.qm = s.qm)
        ∧ ∀ q, getQueue s slot = some q → q.isInternal = true → q.st = .active → q.tearAsk = 0 →
            ∃ t, exec c.1 s = .next t ∧ t.world.iqBusy = true ∧ t.world.iqSlot = slot
              ∧ t.qm.queues = tput s.qm.queues slot { q with tearAsk := c.2 }

/-- The gateway (13 R375, R376, R377, R379, R380). The trap value of an illegal instruction is a free value. -/
def Obligations.GatewayInstructionsChangeWorlds : Prop :=
  (∀ (c rd rs1 tag : Nat) (s : State), coreRuns s c = true → (getCore s c).base = true →
      let r := getCore s c
      let a := (r.reg rs1).toNat
      (s.sys.summitRestarting = true ∨ s.world.everReady = false →
        exec (.belay c rd rs1 tag) s = .next (setCore c { r.setReg rd 0xFFFFFFFFFFFFFFFE with pc := r.pc + 4 } s))
      ∧ (s.sys.summitRestarting = false → s.world.everReady = true → belayTarget s c r tag a = true → rd < 32 → tag < 4096 → r.priv < 4 →
          ∃ t, exec (.belay c rd rs1 tag) s = .next t ∧ t.mem = s.mem
            ∧ let k := getCore t c
              k.base = false ∧ k.priv = 3 ∧ k.pc = r.reg rs1 + 4 ∧ k.bank = r.x ∧ k.wbepc = r.pc + 4 ∧ k.wPriv = r.priv ∧ k.wKind = 0
                ∧ k.wRd = rd ∧ k.wValid = true
                ∧ ∀ n, 1 ≤ n → n ≤ 31 → k.reg n = if 10 ≤ n ∧ n < 10 + fld (leNat (coreView s c a 4)) 16 4 then r.reg n else 0)
      ∧ (s.sys.summitRestarting = false → s.world.everReady = true → belayTarget s c r tag a = false → r.delegated false 24 = false →
          r.priv < 4 → ∃ t, exec (.belay c rd rs1 tag) s = .next t ∧ TrapsTo c false 24 a s t ∧ t.mem = s.mem))
  ∧ (∀ (c rs1 : Nat) (s : State), coreRuns s c = true → (getCore s c).base = false → (getCore s c).priv = 3 →
      (getCore s c).wValid = true → (getCore s c).wPriv ≠ 2 →
      let r := getCore s c
      ∃ t, exec (.lower c rs1) s = .next t ∧ t.mem = s.mem
        ∧ let k := getCore t c
          k.base = true ∧ k.priv = r.wPriv ∧ k.pc = r.wbepc ∧ k.wValid = false ∧ k.halted = r.haltHeld
            ∧ k.x = if r.wKind = 0 then (Core.setReg { r with x := r.bank } r.wRd (r.reg rs1)).x else r.bank)
  ∧ ∀ (c : Nat) (w : W32) (s : State), coreRuns s c = true → customIllegal w.toNat = true → (getCore s c).priv < 4 →
      (getCore s c).delegated false 2 = false → ((getCore s c).base = true ∨ (getCore s c).trapped = false) →
      ∀ i ∈ [Instr.anchor c, Instr.gatewayInstructionIllegal c w],
        ∃ t v, exec i s = .next t ∧ TrapsTo c false 2 v s t ∧ t.freeCtr = s.freeCtr + 8 ∧ t.mem = s.mem

/-- Traps, world CSRs and interrupts (13 R374, R378, R382, R383). -/
def Obligations.TrapsAndInterruptsAreTaken : Prop :=
  (∀ (c cause : Nat) (tval : Word) (s : State), coreRuns s c = true → cause < 64 → (getCore s c).priv < 4 →
      let r := getCore s c
      (r.delegated false cause = false → r.base = true ∨ r.trapped = false →
        ∃ t, exec (.trapEntry c cause tval) s = .next t ∧ TrapsTo c false cause tval.toNat s t ∧ (getCore t c).trapped = (r.trapped || !r.base))
      ∧ (r.delegated false cause = true →
          ∃ t, exec (.trapEntry c cause tval) s = .next t ∧ (getCore t c).priv = 1 ∧ (getCore t c).csr 0x141 = r.pc.toNat
            ∧ (getCore t c).csr 0x142 = cause ∧ (getCore t c).csr 0x143 = tval.toNat
            ∧ (getCore t c).pc = vecTarget (r.csr 0x105) false cause ∧ (getCore t c).x = r.x))
  ∧ (∀ (c : Nat) (s : State), coreRuns s c = true → (getCore s c).priv = 3 →
      let r := getCore s c
      ∃ t, exec (.mret c) s = .next t ∧ (getCore t c).pc.toNat = r.csr 0x341 ∧ (getCore t c).priv = fld (r.csr 0x300) 11 2
        ∧ (getCore t c).trapped = (r.trapped && r.base) ∧ (getCore t c).base = r.base ∧ (getCore t c).x = r.x
        ∧ bitAt ((getCore t c).csr 0x300) 3 = bitAt (r.csr 0x300) 7)
  ∧ (∀ (c csr rd : Nat) (wr : Option Word) (s : State), coreRuns s c = true → (getCore s c).base = false → (getCore s c).priv = 3 →
      0x7C0 ≤ csr → csr ≤ 0x7C4 → 1 ≤ rd → rd ≤ (getCore s c).x.length →
      let r := getCore s c
      ∃ t, exec (.worldCsrAccess c csr wr rd) s = .next t ∧ (getCore t c).pc = r.pc + 4 ∧ (getCore t c).reg rd = r.worldCsr csr
        ∧ (wr = none → (getCore t c).worldCsr csr = r.worldCsr csr)
        ∧ ∀ v, wr = some v → (csr = 0x7C1 → (getCore t c).wbepc = v) ∧ (csr = 0x7C3 → (getCore t c).wten = v &&& 0x1FF)
            ∧ (csr = 0x7C0 → (getCore t c).trapped = (r.trapped && v.getLsbD 0)))
  ∧ (∀ (c csr rd : Nat) (wr : Option Word) (s : State), coreRuns s c = true →
      let r := getCore s c
      let r1 := match wr with
        | some v => r.setBankCsr csr v.toNat
        | none => r
      (r.csrOk csr wr.isSome = true →
        (∃ t v, exec (.worldCsrAccess c csr wr rd) s = .next t ∧ getCore t c = { r1.setReg rd v with pc := r.pc + 4 }
            ∧ (csr ≠ 0xC01 → v = r.bankCsr c csr 0 ∧ t = setCore c { r1.setReg rd v with pc := r.pc + 4 } s))
          ∧ (r.base = true → r1.csrS = r.csrS) ∧ (r.base = false → r1.csrB = r.csrB))
      ∧ (r.csrOk csr wr.isSome = false → (csr < 0x7C0 ∨ 0x7C4 < csr) → csr ≠ 0xFC0 → r.priv < 4 → r.delegated false 2 = false →
          r.base = true ∨ r.trapped = false →
          ∃ t v, exec (.worldCsrAccess c csr wr rd) s = .next t ∧ TrapsTo c false 2 v s t))
  ∧ (∀ (c n : Nat) (s : State), topIrq s false c = some n → s.sys.summitRestarting = false → c < 8 → (c < 4 ∨ domOn s 4 = true) →
      dieOn s = true → (getCore s c).parked = false → (getCore s c).waits = false → (getCore s c).trapped = false → (getCore s c).base = true →
      (getCore s c).priv < 4 →
      let r := getCore s c
      ∃ t, exec (.summitInterrupt c) s = .next t
        ∧ let k := getCore t c
          k.base = false ∧ k.priv = 3 ∧ k.pc = r.wsivec ∧ k.bank = r.x ∧ k.wbepc = r.pc ∧ k.wKind = 1 ∧ k.wPriv = r.priv ∧ k.wValid = true
            ∧ k.trapped = true ∧ (∀ m, k.reg m = 0) ∧ k.csr 0x342 = causeWord true 24)
  ∧ (∀ (c n : Nat) (s : State), topIrq s true c = some n → c < 8 → dieOn s = true →
      ∃ t, exec (.baseInterrupt c) s = .next t ∧ bitAt (tgetD (getCore t c).csrB 0x344 0).toNat 11 = true
        ∧ ((getCore s c).base = false → (getCore t c).pc = (getCore s c).pc ∧ (getCore t c).x = (getCore s c).x))
  ∧ (∀ (c n : Nat) (s : State), (topIrq s false c = some n →
        ∃ t, exec (.worldSclaim c) s = .next t ∧ t.out = s.out ++ [.read (BitVec.ofNat 64 (n + 128))]
          ∧ (irqOf t n).claimed = true ∧ (irqOf t n).pend = false)
      ∧ (topIrq s true c = some n →
        ∃ t, exec (.worldBclaim c) s = .next t ∧ t.out = s.out ++ [.read (BitVec.ofNat 64 (n + 128))]
          ∧ (irqOf t n).claimed = true ∧ (irqOf t n).pend = false)
      ∧ (topIrq s false c = none → exec (.worldSclaim c) s = .next (emit (.read 0) s))
      ∧ (topIrq s true c = none → exec (.worldBclaim c) s = .next (emit (.read 0) s)))
  ∧ ∀ (n : Nat) (s : State), n < 128 → (irqOf s n).claimed = true →
      exec (if (irqOf s n).base then .worldBdone n else .worldSdone n) s
        = .next { s with world := { s.world with irqs := tput s.world.irqs n { irqOf s n with claimed := false } } }

/-- Watchdogs and restarts (13 R384, R385, R386, R387, R388, R404, 01 R28, R35). That a trigger during a restart
counts as a failure of it is the model's choice (log 79). -/
def Obligations.WorldsAreWatchedAndRestarted : Prop :=
  (∀ s : State, exec .worldSwdogKick s = .next { s with world := { s.world with swCount := 0 } }
      ∧ exec .worldBwdogKick s = .next { s with world := { s.world with bwCount := 0 } })
  ∧ (∀ s : State, s.world.ready = true → bitAt (rw s 0x120010) 32 = true → max 1 (fld (rw s 0x120010) 0 32) ≤ s.world.swCount → RestartLeft s →
      ∃ t, exec .summitWatchdogExpiry s = .next t ∧ Restarted 1 s t)
  ∧ (∀ (c cause : Nat) (tval : Word) (s : State), coreRuns s c = true → (getCore s c).base = false → (getCore s c).trapped = true →
      RestartLeft s →
      ((getCore s c).delegated false cause = false →
        ∀ i ∈ [Instr.trapEntry c cause tval, Instr.doubleTrap c cause tval], ∃ t, exec i s = .next t ∧ Restarted 2 s t)
      ∧ ((getCore s c).delegated false 2 = false → ∃ t, exec (.anchor c) s = .next t ∧ Restarted 2 s t)
      ∧ (topIrq s false c ≠ none → (c < 4 ∨ domOn s 4 = true) → s.sys.summitRestarting = false → bitAt ((getCore s c).csr 0x300) 3 = true →
        ∃ t, exec (.summitInterrupt c) s = .next t ∧ Restarted 2 s t))
  ∧ (∀ s : State, dieOn s = true →
      (s.sys.summitRestarting = false → ∃ t, exec .worldCtlRestart s = .next t ∧ Restarted 3 s t ∧ t.world.fails = s.world.fails)
      ∧ (s.sys.summitRestarting = true → s.world.fails < 2 →
          ∃ t, exec .worldCtlRestart s = .next t ∧ Restarted 3 s t ∧ t.world.fails = s.world.fails + 1)
      ∧ (s.sys.summitRestarting = true → 2 ≤ s.world.fails → s.sys.mode ≠ .vault →
          ∃ t, exec .worldCtlRestart s = .next t ∧ t.sys.mode = .lockdown))
  ∧ (∀ s : State, s.sys.summitRestarting = true → s.world.restartAt + 20000 ≤ s.sched.pitch →
      (s.world.fails < 2 → ∃ t, exec .restartTimeout s = .next t ∧ Restarted s.world.trigger s t ∧ t.world.fails = s.world.fails + 1)
      ∧ (2 ≤ s.world.fails → s.sys.mode ≠ .vault → ∃ t, exec .restartTimeout s = .next t ∧ t.sys.mode = .lockdown))
  ∧ (∀ s : State, bitAt (rw s 0x120020) 32 = true → max 1 (fld (rw s 0x120020) 0 32) ≤ s.world.bwCount →
      ∃ t, exec .baseWatchdogExpiry s = .next t ∧ t.world.bwExpired = true ∧ t.world.bwCount = 0 ∧ (irqOf t 1).pend = true)
  ∧ (∀ s : State, dieOn s = true → s.sys.bootStep = 4 →
      ∃ t, exec .worldCtlReady s = .next t ∧ t.world.ready = true ∧ t.world.everReady = true ∧ t.world.fails = 0
        ∧ t.sys.summitRestarting = false
        ∧ t.sys.mode = (if s.sys.mode = .startup then (if s.sys.fenced = 0 then .service else .degraded) else s.sys.mode))
  ∧ ∀ s : State, s.sys.summitRestarting = true →
      let right := imageDigest (protectedCopy s) = s.world.fwDigest
      let reads := engineAccess 0x1E .read 0x10080000000 s.world.fwLen none s
      let writes := engineAccess 0x1E .write 0x100000 s.world.fwLen none s
      (right → reads.1 = true → writes.1 = true →
        ∃ t c, exec (.summitFirmwareCopyDone true) s = .next t ∧ (getCore t c).pc = BitVec.ofNat 64 s.world.fwEntry
          ∧ (getCore t c).base = false ∧ (getCore t c).priv = 3 ∧ t.sys.mode = s.sys.mode
          ∧ (Memory.wf s.mem = true → ∀ a, (a < 0x100000 ∨ 0x100000 + s.world.fwLen ≤ a) → readByte t.mem a = readByte s.mem a))
      ∧ (portWaits s 0x10080000000 = true ∨ portWaits s 0x100000 = true → ∀ b, exec (.summitFirmwareCopyDone b) s = .next s)
      ∧ (portWaits s 0x10080000000 = false → portWaits s 0x100000 = false →
          (right → reads.1 = false ∨ writes.1 = false →
            ∃ t, exec (.summitFirmwareCopyDone true) s = .next t ∧ t.world.cores = s.world.cores ∧ t.mem = s.mem)
          ∧ ∀ b, ¬ right ∨ b = false → s.sys.mode ≠ .vault →
              ∃ t, exec (.summitFirmwareCopyDone b) s = .next t ∧ t.sys.mode = .lockdown)

/-- Accesses and their rules (01 R23, 13 R396, R402, R403, R405, R407, 17 R521, 19 R551, R554). -/
def Obligations.AccessesReadAndStore : Prop :=
  (∀ (a : Access) (n mt o : Nat) (s : State), dieOn s = true → (a.master < 8 → coreRuns s a.master = true) → portFor s a = some n →
      (n < 4 ∨ 8 < n) → widthOk n a = true → (acuRec s n).wait = false → a.atomic = false → verdict s n a = .admitted mt o →
      (cacheable n mt a s = false → hbmDown s a.addr = false →
        (a.kind = .write → inColdStore a.addr = false →
          ∃ t, exec (.fabricAccess a) s = .next t ∧ { t with mem := s.mem } = s
            ∧ (Memory.wf s.mem = true → 0x80000 ≤ a.addr → readBytes t.mem a.addr a.len = padTo a.len a.data)
            ∧ (Memory.wf s.mem = true → ∀ x, (x < a.addr ∨ a.addr + a.len ≤ x) → readByte t.mem x = readByte s.mem x))
        ∧ (a.kind = .write → inColdStore a.addr = true →
          ∃ t, exec (.fabricAccess a) s = .next t ∧ t.mem = s.mem ∧ { t with vault := s.vault } = s)
        ∧ (a.kind ≠ .write →
          ∃ t, exec (.fabricAccess a) s = .next t ∧ { t with out := s.out } = s
            ∧ (a.len = 8 → t.out = s.out ++ [.read (BitVec.ofNat 64 (leNat (readSpan s a.addr 8)))])))
      ∧ (hbmDown s a.addr = true → (a.kind = .write → exec (.fabricAccess a) s = .next s)
          ∧ (a.kind ≠ .write → ∃ t, exec (.fabricAccess a) s = .next t ∧ { t with out := s.out, freeCtr := s.freeCtr } = s))
      ∧ (cacheable n mt a s = true →
          let la := a.addr / 64 * 64
          let x := (lineOf s a.master la).getD { core := a.master, addr := la, bytes := readSpan s la 64 }
          x.bytes.length = 64 →
          ∃ t, exec (.fabricAccess a) s = .next t
            ∧ (Memory.wf s.mem = true → ∀ b, (b < la ∨ la + 64 ≤ b) → readByte t.mem b = readByte s.mem b)
            ∧ (∀ c b, c ≠ a.master → lineOf t c b = lineOf s c b)
            ∧ (a.kind ≠ .write → a.len = 8 →
                t.out = s.out ++ [.read (BitVec.ofNat 64 (leNat (sliceB x.bytes (a.addr - la) 8)))])
            ∧ (a.kind = .write → inColdStore a.addr = false → 0x80000 ≤ a.addr → Memory.wf s.mem = true →
                coreView t a.master a.addr a.len = padTo a.len a.data)))
  ∧ (∀ (a : Access) (s : State), dieOn s = true → (a.master < 8 → coreRuns s a.master = true) →
      (portFor s a = none ∨ ∃ n, portFor s a = some n ∧ widthOk n a = false) →
      exec (.fabricAccess a) s = .next { s with out := s.out ++ [.busError] })
  ∧ (∀ (a : Access) (n : Nat) (s : State), dieOn s = true → (a.master < 8 → coreRuns s a.master = true) → portFor s a = some n →
      widthOk n a = true → (acuRec s n).wait = true →
      exec (.fabricAccess a) s = .next { s with acu := { s.acu with waiting := s.acu.waiting ++ [a] } })
  ∧ (∀ (a : Access) (n r : Nat) (s : State), dieOn s = true → 8 ≤ a.master → a.ctx = none → portFor s a = some n → widthOk n a = true →
      (acuRec s n).wait = false → verdict s n a = .denied r →
      ∃ t, exec (.fabricAccess a) s = .next t ∧ t.mem = s.mem
        ∧ t.out = s.out ++ (if a.kind == .write && posted n then [] else [.busError]))
  ∧ (∀ s : State, (s.acu.bootDone = true → exec .acuBootcmt s = .next s)
      ∧ (s.acu.bootDone = false → ∃ t, exec .acuBootcmt s = .next t ∧ t.acu = { s.acu with bootDone := true }
          ∧ (∀ n < 14, ∀ r < 32, inForce t (regionOff n r) = staged s (regionOff n r)) ∧ ∀ o, staged t o = staged s o))
  ∧ (∀ (s : State), s.acu.waiting = [] →
      (s.acu.commit = none → ∃ t, exec .acuEpochSwitch s = .next t ∧ t.rwq = s.rwq ∧ ∀ n, (acuRec t n).wait = false)
      ∧ ∀ tok ctx slot p, s.acu.commit = some (tok, ctx) → commitProp s tok = some (slot, p) →
          (∀ o ∈ p.image, 0x110000 ≤ o ∧ o < 0x113800) →
          ∃ t, exec .acuEpochSwitch s = .next t ∧ t.acu.commit = none ∧ t.quorum.props = tdel s.quorum.props slot
            ∧ (∀ o ∈ p.image, inForce t o = staged s o) ∧ ∀ n, (acuRec t n).wait = false)
  ∧ ∀ (a : Access) (halt : Option Nat) (s : State), tapOn s = true → tapDead s = false → domOn s 19 = true →
      (dbgAdmits s = false → ∃ t, exec (.dbgAccess a halt) s = .next t ∧ { t with dbg := { t.dbg with ir := s.dbg.ir } } = s)
      ∧ ∀ c < 8, halt = some c → s.dbg.enabled.getLsbD 0 = true → portFor s { a with master := 0x1F, ctx := none } = none →
          ∃ t, exec (.dbgAccess a halt) s = .next t ∧ (getCore t c).halted = true ∧ t.out = s.out ++ [.busError] ∧ t.mem = s.mem

/-- Registers (00 R12, R13, R14, R15, R16, 02 R66, R67, 16 R486, R487, R495). -/
def Obligations.RegisterRowsWriteTheirRegisters : Prop :=
  (∀ (off m : Nat) (v : Word) (s : State), off < 0x200000 → off % 8 = 0 → dieOn s = true → rwBits off = some m → rwqMask off = none →
      ∃ t, exec (.registerWrite off .whole v) s = .next t
        ∧ rw t off = (rw s off &&& (2 ^ 64 - 1 - m)) ||| (v.toNat &&& m)
        ∧ (∀ o, o ≠ off → rw t o = rw s o) ∧ { t with regs := s.regs, ent := s.ent } = s
        ∧ t.ent = if off = 0xE0010 then { s.ent with est1Held := none } else s.ent)
  ∧ (∀ (off : Nat) (h : Half) (v : Word) (s : State), off < 0x200000 → off % 8 ≠ 0 → dieOn s = true →
      exec (.registerWrite off h v) s = .next { s with out := s.out ++ [.busError] })
  ∧ (∀ (off m : Nat) (v : Word) (s : State), off < 0x200000 → off % 8 = 0 → dieOn s = true → rwqMask off = some m →
      ∃ t, exec (.registerWrite off .whole v) s = .next t ∧ staged t off = v.toNat &&& m ∧ (∀ o, inForce t o = inForce s o)
        ∧ t.regs = s.regs ∧ t.mem = s.mem)
  ∧ (∀ (off : Nat) (h : Half) (v : Word) (s : State), off < 0x200000 → off % 8 = 0 → dieOn s = true → only64 off = true → h ≠ .whole →
      ∃ t, exec (.registerWrite off h v) s = .next t ∧ t.regs = s.regs ∧ t.rwq = s.rwq ∧ t.mem = s.mem ∧ t.eth = s.eth)
  ∧ (∀ (v : Word) (s : State), ∃ t, exec (.pitchCtxwaitWrite v) s = .next t ∧ rw t 0x10010 = v.toNat % 2 ^ 32
      ∧ (∀ o, o ≠ 0x10010 → rw t o = rw s o) ∧ { t with regs := s.regs } = s)
  ∧ (∀ (v : Word) (s : State), exec (.pitchPcapWrite v) s
      = .next { s with sched := { s.sched with pcaps := tput s.sched.pcaps (rw s 0x10018) (v.toNat % 2 ^ 13) } })
  ∧ (∀ (n : Nat) (v : Word) (s : State), n < 32 →
      exec (.evcValWrite n v) s = .next { s with evc := { s.evc with
        vals := if v.toNat % 2 ^ 48 = 0 then tdel s.evc.vals n else tput s.evc.vals n (v.toNat % 2 ^ 48) } })
  ∧ (∀ s : State, exec .evcCtlClear s = .next { s with evc := { s.evc with vals := [] } })
  ∧ ∀ (n : Nat) (s : State), n < 32 → n ∈ s.evc.due →
      ∃ t, exec (.eventCounterOverflow n) s = .next t ∧ t.evc.ovf.getLsbD n = true ∧ (irqOf t 5).pend = true ∧ t.evc.due = s.evc.due.erase n
        ∧ t.evc.vals = s.evc.vals

/-- Unit enables (06 R202, R203, 07, 08, 09 and 11 as 06 R203 has them). -/
def Obligations.UnitEnablesSwitchTheirUnits : Prop :=
  (∀ p ∈ [(4, 0, Instr.laneDisable, Instr.laneEnable), (16, 4, Instr.hashCoreDisable, Instr.hashCoreEnable),
        (64, 20, Instr.pkeCoreDisable, Instr.pkeCoreEnable), (16, 84, Instr.latSliceDisable, Instr.latSliceEnable),
        (8, 100, Instr.keSlotDisable, Instr.keSlotEnable)], ∀ (n : Nat) (s : State), n < p.1 →
      let r := unitRec s (p.2.1 + n)
      (∃ t, exec (p.2.2.1 n) s = .next t ∧ UnitOnly (p.2.1 + n) s t
        ∧ unitRec t (p.2.1 + n) = { r with en := false, pendingEn := false, enableAt := false
                                           st := if r.st = .inService then .draining else r.st })
      ∧ (r.en = true → ∃ t, exec (p.2.2.2 n) s = .next t ∧ t = s)
      ∧ (r.en = false → ∃ t, exec (p.2.2.2 n) s = .next t ∧ UnitOnly (p.2.1 + n) s t
          ∧ unitRec t (p.2.1 + n) = { r with en := true, enableAt := decide (r.st = .off)
                                             pendingEn := decide (r.st = .draining ∨ r.st = .scrubbing) }))
  ∧ ∀ (u : Nat) (s : State),
      ((unitRec s u).st = .draining → unitHeld s u = false →
        ∃ t, exec (.unitDrainEnd u) s = .next t ∧ UnitOnly u s t ∧ unitRec t u = { unitRec s u with st := .scrubbing })
      ∧ ((unitRec s u).st = .scrubbing →
        ∃ t, exec (.unitScrubEnd u) s = .next t ∧ UnitOnly u s t
          ∧ unitRec t u = { unitRec s u with st := .off, mem := {}, enableAt := (unitRec s u).pendingEn, pendingEn := false })

/-- Requests, owners and leases (18 R532, R533, R534, R535, R536, R540). -/
def Obligations.PowerRequestsFollowTheirOwner : Prop :=
  (∀ (d req : Nat) (s : State), reqRefusal s d (reqAs d req) = 0 →
      (∃ t, exec (.pwrReqSummit d req) s = .next t ∧ DomainOnly d s t
        ∧ let k := domRec t d
          k.held = none ∧ k.ownerBase = (domRec s d).ownerBase ∧ k.lease = (domRec s d).lease ∧ k.rej = (domRec s d).rej
            ∧ Requested d (reqAs d req) false s t)
      ∧ ((domRec s d).ownerBase = true → (domRec s d).lease = 0 →
        ∃ t, exec (.pwrReqBase d req) s = .next t ∧ DomainOnly d s t
          ∧ let k := domRec t d
            k.held = (domRec s d).held ∧ k.rej = (domRec s d).rej ∧ Requested d (reqAs d req) true s t))
  ∧ (∀ (d req c : Nat) (s : State), reqRefusal s d (reqAs d req) = c → c ≠ 0 →
      (∃ t, exec (.pwrReqSummit d req) s = .next t ∧ DomainOnly d s t
        ∧ domRec t d = { domRec s d with held := none, rej := true, rejCause := c })
      ∧ ((switchable d = false ∨ ((domRec s d).ownerBase = true ∧ (domRec s d).lease = 0)) →
        ∃ t, exec (.pwrReqBase d req) s = .next t ∧ DomainOnly d s t ∧ domRec t d = { domRec s d with rej := true, rejCause := c }))
  ∧ (∀ (d req : Nat) (s : State), req < 4 → switchable d = true → ((domRec s d).ownerBase = false ∨ (domRec s d).lease ≠ 0) →
      ∃ t, exec (.pwrReqBase d req) s = .next t ∧ DomainOnly d s t ∧ domRec t d = { domRec s d with held := some req })
  ∧ (∀ (d : Nat) (s : State), ∃ t, exec (.pwrCancel d) s = .next t ∧ DomainOnly d s t ∧ domRec t d = { domRec s d with held := none })
  ∧ (∀ (d : Nat) (b : Bool) (s : State), ∃ t, exec (.pwrOwnerWrite d b) s = .next t ∧ DomainOnly d s t
      ∧ domRec t d = (if switchable d = true then { domRec s d with ownerBase := b } else domRec s d))
  ∧ ∀ (d v : Nat) (s : State), switchable d = true →
      ∃ t, exec (.pwrLeaseWrite d v) s = .next t ∧ DomainOnly d s t
        ∧ domRec t d = if BitVec.ofNat 8 v &&& ~~~ (domRec s d).lease ≠ 0 ∧ (domRec s d).st = 2 ∧ (domRec s d).byBase = true
            then { domRec s d with lease := BitVec.ofNat 8 v, held := some (domRec s d).req, req := 0, pend := false }
            else { domRec s d with lease := BitVec.ofNat 8 v }

/-- Shutdown and power-up (18 R532, R533, R537, R538, R539). -/
def Obligations.DomainsGoDownAndComeUp : Prop :=
  (∀ (d : Nat) (s : State), (domRec s d).st = 2 → (domRec s d).req ≠ 0 → domainQuiet s d = true →
      ∃ t, exec (.domainDrainEnd d) s = .next t ∧ DomainOnly d s t ∧ domRec t d = { domRec s d with st := 3 })
  ∧ (∀ (d : Nat) (s : State), (domRec s d).st = 3 →
      let r := domRec s d
      ∃ t, exec (.domainScrubEnd d) s = .next t
        ∧ domRec t d = { r with
            st := if r.req = 1 ∧ r.autoOff = false then 4 else 0
            goingOff := decide (r.req ≠ 1) && !r.autoOff
            pend := r.pend && !r.autoOff }
        ∧ (r.autoOff = false → r.pend = true →
            domAtBoundary (domRec t d) = { r with st := if r.req = 1 then 1 else 5, req := 0, goingOff := false, pend := false })
        ∧ (∀ u ∈ domainUnits d, (unitRec t u).mem = {} ∧ (unitRec t u).st =
            if (r.autoOff = false ∧ r.req = 1) ∨ (unitRec s u).st = .fenced then (unitRec s u).st else .off)
        ∧ (d = 14 → t.ent.pool = [] ∧ t.ent.fifo = [] ∧ t.ent.isOpen = false ∧ ∀ b ∈ t.ent.banks, b.2.st = 0 ∨ b.2.st = 4)
        ∧ ((d = 15 ∨ d = 16) → ∀ p ∈ domainPorts d, (getEth t p).up = false ∧ (getEth t p).sas = [])
        ∧ (d = 17 → t.pair.keys = false ∧ t.pair.unacked = [])
        ∧ (d = 4 → ∀ c, 4 ≤ c → c < 8 → getCore t c = { waits := true })
        ∧ ((d = 4 → ∀ x ∈ s.world.lines, 4 ≤ x.core → x.dirty = false) → t.mem = s.mem ∧ t.vault = s.vault) ∧ t.sched = s.sched)
  ∧ (∀ (d : Nat) (s : State), (domRec s d).st = 5 →
      ∃ t, exec (.domainPowerGood d) s = .next t ∧ t.units = s.units
        ∧ domRec t d = { domRec s d with st := if d = 14 ∨ domainUnits d = [] then (if (domRec s d).req = 0 then 1 else 2) else 6 }
        ∧ (d = 4 → ∀ c, 4 ≤ c → c < 8 → getCore t c = { pc := BitVec.ofNat 64 s.world.fwEntry })
        ∧ (d ≠ 4 → DomainOnly d s t))
  ∧ ∀ (d : Nat) (bad : List Nat) (s : State), (domRec s d).st = 6 →
      ∃ t, exec (.domainSelfTestEnd d bad) s = .next t
        ∧ (bad = [] → domRec t d = { domRec s d with st := if (domRec s d).req = 0 then 1 else 2 })
        ∧ ∀ u ∈ domainUnits d, (unitRec t u).st =
            if (unitRec s u).st = .fenced ∨ u ∈ bad then .fenced else if (unitRec s u).en = true then .inService else .off

/-- Onsets of alarms (15 R451, R452, R453, R455, R456, R461, R464). -/
def Obligations.SourcesComeIntoAlarm : Prop :=
  (∀ (i : Instr) (n : Nat) (s : State),
      (((∃ v, v.length = 8 ∧ i = .pinLoopCheck v none [] ∧ ∀ m < 8, srcSensed s m = true → loopPasses m (nthD v m 0) = (m != n))
          ∧ n < 8 ∧ (s.board.vddGuard = true ∨ s.board.xtal = true) ∧ filterN s n ≤ min 4 (tgetD s.tam.fails n 0 + 1))
        ∨ (i = .meshCheck (n != 8) (n != 9) [] ∧ (n = 8 ∨ n = 9) ∧ (s.board.vddGuard = true ∨ s.board.xtal = true)
          ∧ filterN s n ≤ min 4 (tgetD s.tam.fails n 0 + 1))
        ∨ (∃ r, i = .detectorAlarm [r] ∧ r.src = n ∧ leavesWindow s r = true)
        ∨ (∃ mv, mv < vbatLimit s ∧ i = .vbatLow mv ∧ n = 21) ∨ (i = .xtalStop ∧ n = 22)
        ∨ (∃ c us, c < 3 ∧ i = .disagreementWindowExpiry c us ∧ n = 18 + c ∧ disagrees s c = true ∧ disWindow s < us)) →
      srcSensed s n = true → inAlarm s n = false →
      (s.board.vddGuard = true →
        ∃ t, exec i s = .next t ∧ t.tam.active.getLsbD n = true ∧ t.tam.evt.getLsbD n = true
          ∧ srcLevel s n ≤ t.tam.levelMax
          ∧ (s.tam.firstValid = false → t.tam.firstValid = true ∧ t.tam.firstSrc = n ∧ t.tam.firstPitch = s.sched.pitch)
          ∧ (1 ≤ srcLevel s n → (irqOf t 3).pend = true)
          ∧ (srcLevel s n < 2 → t.units = s.units ∧ t.vault = s.vault ∧ t.mem = s.mem ∧ t.sys = s.sys ∧ t.sched = s.sched)
          ∧ (2 ≤ srcLevel s n → ∀ u < 108, (unitRec t u).st = .fenced)
          ∧ (3 ≤ srcLevel s n → t.tam.line = true ∧ t.vault.objs = [] ∧ t.vault.roots = [] ∧ t.sched.jobs = [])
          ∧ (srcLevel s n = 4 → s.sys.mode ≠ .vault → t.sys.mode = .lockdown))
      ∧ (s.board.vddGuard = false →
        ∃ t, exec i s = .next t ∧ t.tam.active.getLsbD n = true ∧ t.tam.line = true ∧ t.vault.objs = [] ∧ t.vault.roots = []
          ∧ t.sys.mode = s.sys.mode))
  ∧ (∀ (i : Instr) (s : State),
      ((∃ r, i = .detectorAlarm [r] ∧ leavesWindow s r = false) ∨ (∃ mv, i = .vbatLow mv ∧ vbatLimit s ≤ mv)
        ∨ (∃ c us, i = .disagreementWindowExpiry c us ∧ us ≤ disWindow s ∧ endDisagreements s = s)) →
      exec i s = .next (endDisagreements s))
  ∧ ∀ (rail : Nat) (mv : Int) (ns : Nat) (s : State), s.board.vddGuard = true → ns < 5000 →
      (leavesWindow s { src := 10, which := rail, value := mv } = false →
        exec (.railExcursionShort rail mv ns) s = .next (endDisagreements s))
      ∧ (leavesWindow s { src := 10, which := rail, value := mv } = true →
        (srcSensed s 10 = true → inAlarm s 10 = false →
          ∃ t, exec (.railExcursionShort rail mv ns) s = .next t ∧ t.tam.evt.getLsbD 10 = true ∧ t.tam.active.getLsbD 10 = false)
        ∧ (srcSensed s 11 = true → inAlarm s 11 = false → glitchNs s ≤ ns →
          ∃ t, exec (.railExcursionShort rail mv ns) s = .next t ∧ t.tam.evt.getLsbD 11 = true ∧ t.tam.active.getLsbD 11 = false))

/-- Checks, clears and the line (15 R451, R452, R457, R458, R459). -/
def Obligations.ChecksClearAndTheLineFalls : Prop :=
  (∀ (v : List Byte) (s : State), v.length = 8 → s.board.vddGuard = true → dieOn s = true → (∃ n < 8, srcSensed s n = true) →
      ((∀ n < 8, srcSensed s n = true → loopPasses n (nthD v n 0) = true) →
        ∃ t b, exec (.pinLoopCheck v none []) s = .next t ∧ t.out = s.out ++ [.tampOut b]
          ∧ (∀ n < 8, b.getLsbD n = srcSensed s n ∧ (srcSensed s n = true → tget t.tam.fails n = none ∧ t.tam.active.getLsbD n = false)
              ∧ (srcSensed s n = false → tget t.tam.fails n = tget s.tam.fails n ∧ t.tam.active.getLsbD n = s.tam.active.getLsbD n))
          ∧ { t with tam := { t.tam with fails := s.tam.fails, active := s.tam.active }, out := s.out } = s)
      ∧ ∀ n < 8, srcSensed s n = true → (∀ m < 8, srcSensed s m = true → loopPasses m (nthD v m 0) = (m != n)) →
          tgetD s.tam.fails n 0 + 1 < filterN s n →
          ∃ t, exec (.pinLoopCheck v none []) s = .next t ∧ tget t.tam.fails n = some (tgetD s.tam.fails n 0 + 1)
            ∧ t.tam.active.getLsbD n = s.tam.active.getLsbD n
            ∧ { t with tam := { t.tam with fails := s.tam.fails, active := s.tam.active }, out := s.out } = s)
  ∧ (∀ (n : Nat) (s : State), n = 8 ∨ n = 9 → srcSensed s n = true → s.board.vddGuard = true →
      (∃ t, exec (.meshCheck true true []) s = .next t ∧ tget t.tam.fails n = none ∧ t.tam.active.getLsbD n = false
        ∧ { t with tam := { t.tam with fails := s.tam.fails, active := s.tam.active } } = s)
      ∧ (tgetD s.tam.fails n 0 + 1 < filterN s n →
        ∃ t, exec (.meshCheck (n != 8) (n != 9) []) s = .next t ∧ tget t.tam.fails n = some (tgetD s.tam.fails n 0 + 1)
          ∧ t.tam.active.getLsbD n = s.tam.active.getLsbD n
          ∧ { t with tam := { t.tam with fails := s.tam.fails, active := s.tam.active } } = s))
  ∧ (∀ (n : Nat) (s : State), ∃ t, exec (.detectorAlarmClear n) s = .next t ∧ t.tam.active.getLsbD n = false
      ∧ { t with tam := { t.tam with active := s.tam.active }, board := s.board } = s
      ∧ t.board = (if n = 22 then { s.board with xtal := true } else s.board)
      ∧ ∀ m, m ≠ n → (m < 18 ∨ 20 < m) → t.tam.active.getLsbD m = s.tam.active.getLsbD m)
  ∧ (∀ s : State, s.tam.line = true → s.tam.holdDie = false →
      (∃ t, exec .avalancheLineRelease s = .next t ∧ t.tam.released = true
        ∧ { t with tam := { t.tam with line := true, released := s.tam.released } } = s
        ∧ (t.tam.line = false ↔ s.board.mainPower = false ∨ (s.tam.confirmed = true ∧ s.tam.after = .lockdown)))
      ∧ (∃ t, exec .clearConfirmation s = .next t ∧ t.tam.confirmed = true
        ∧ { t with tam := { t.tam with line := true, confirmed := s.tam.confirmed } } = s
        ∧ (t.tam.line = false ↔ s.tam.released = true ∧ (s.board.mainPower = false ∨ s.tam.after = .lockdown))))
  ∧ ∀ s : State, s.tam.line = true → s.tam.confirmed = false →
      exec .clearConfirmationTimeout s = .next { s with tam := { s.tam with holdDie := true } }

/-- Tests and conditioning (10 R284, R285, R286, R287, R288, R293, R294, R295). How a value between two Q1.15
numbers is rounded is the model's choice (log 91). -/
def Obligations.NoiseIsTestedAndPooled : Prop :=
  (∀ s : State, dieOn s = true → domOn s 14 = true → s.ent.starting = false → s.ent.isOpen = false →
      ∃ t, exec .entropyStartup s = .next t ∧ (irqOf t 6).pend = true
        ∧ { t with ent := { t.ent with starting := false, banks := s.ent.banks }, world := s.world } = s
        ∧ t.ent.starting = true ∧ ∀ b < 16, (getBank t b).st = if (getBank s b).st = 4 then 4 else 3)
  ∧ (∀ (bad : List Nat) (conds : List Nat) (s : State), s.ent.starting = true →
      ∃ t, exec (.entropyStartupTestsEnd bad conds) s = .next t ∧ t.ent.starting = false
        ∧ (∀ b < 16, (getBank s b).st = 3 → (getBank t b).st = if b ∈ bad then 4 else 1)
        ∧ (∀ b < 16, (getBank s b).st ≠ 3 → (getBank t b).st = (getBank s b).st)
        ∧ ∀ c < 4, (unitRec t (108 + c)).st = if (unitRec s (108 + c)).st = .fenced ∨ c ∈ conds then .fenced else .inService)
  ∧ (∀ (bank cause cell v : Nat) (s : State), bank < 16 → (getBank s bank).st = 1 → testFails (getBank s bank) cause v = true →
      ∃ t, exec (.healthTestFail bank cause cell v) s = .next t ∧ (getBank t bank).st = 4 ∧ (getBank t bank).cause = cause
        ∧ (getBank t bank).cell = (if cause ≤ 2 then cell % 64 else 0) ∧ (getBank t bank).pitch = s.sched.pitch
        ∧ (cause = 3 → (getBank t bank).bias = BitVec.ofNat 16 v)
        ∧ (3 ≤ cause → (getBank t bank).windows = satAdd 32 (getBank s bank).windows 1)
        ∧ (getBank t bank).pendingBlocks = [] ∧ (irqOf t 6).pend = true ∧ ∀ b, b ≠ bank → (getBank t b).st = (getBank s b).st)
  ∧ (∀ (bank ones : Nat) (corrs : List Nat) (s : State), bank < 16 → (getBank s bank).st = 1 →
      let k := getBank s bank
      let ests := estimates s ones corrs
      let bad := fun i => estBad (nthD ests i 0) (if i = 0 then k.thr.1 else k.thr.2)
      ((∀ i < 5, bad i = false) →
        ∃ t, exec (.estimatorWindowClose bank ones corrs) s = .next t
          ∧ { t with ent := { t.ent with banks := s.ent.banks }, freeCtr := s.freeCtr } = s
          ∧ getBank t bank = { k with bias := BitVec.ofNat 16 (nthD ests 0 0), windows := satAdd 32 k.windows 1, thr := windowThr s
                                      corr := (List.range' 1 4).map fun i => BitVec.ofNat 16 (nthD ests i 0) }
          ∧ ∀ b, b ≠ bank → getBank t b = getBank s b)
      ∧ ((∃ i, i < 5 ∧ bad i = true) →
        ∃ t, exec (.estimatorWindowClose bank ones corrs) s = .next t ∧ (getBank t bank).st = 4
          ∧ (∃ i, i < 5 ∧ bad i = true ∧ (getBank t bank).cause = 3 + i) ∧ (getBank t bank).pendingBlocks = []))
  ∧ (∀ (cond bank : Nat) (s : State), cond < 4 → inService s (108 + cond) = true →
      unitIdle s s.sched.pitch (108 + cond) = true → (unitRec s (108 + cond)).reserved = false → nextBank s = some bank →
      0 < poolRoom s → (s.ent.banks.map fun p => p.2.pendingBlocks.length).foldl (· + ·) 0 < 1024 → s.ent.stopped = false →
      ∃ t, exec (.conditionerBlockDone cond bank) s = .next t
        ∧ { t with ent := { t.ent with rr := s.ent.rr, banks := s.ent.banks }, freeCtr := s.freeCtr } = s
        ∧ t.ent.rr = (bank + 1) % 16
        ∧ getBank t bank = { getBank s bank with pendingBlocks := (getBank s bank).pendingBlocks
            ++ [{ cond, bytes := crypto .hash [algSha3x256] [inputBlock s] 32 }] }
        ∧ ∀ b, b ≠ bank → getBank t b = getBank s b)
  ∧ (∀ (bank : Nat) (s : State), bank < 16 → (getBank s bank).st = 1 →
      let k := getBank s bank
      let n := min k.pendingBlocks.length ((32768 - s.ent.pool.length) / 32)
      ∃ t, exec (.aptWindowClose bank) s = .next t ∧ t.ent.fifo = s.ent.fifo
        ∧ t.ent.pool = s.ent.pool ++ ((k.pendingBlocks.take n).map fun x => x.bytes).flatten
        ∧ getBank t bank = { k with pendingBlocks := (k.pendingBlocks.drop n).map fun x => { x with tested := true }
                                    cut := windowCut s }
        ∧ (s.ent.isOpen = false → s.ent.stopped = false → 4096 ≤ t.ent.pool.length → t.ent.opening = true))
  ∧ ∀ s : State, s.ent.opening = true → s.ent.stopped = false → s.ent.isOpen = false →
      ∃ t, exec .entropyOutputOpen s = .next t ∧ t.ent.isOpen = true ∧ t.ent.opening = false ∧ t.ent.pool = s.ent.pool
        ∧ t.ent.fifo = s.ent.fifo ∧ (irqOf t 6).pend = true

/-- Grants and ports (10 R289, R297, R298, R299, R307, 05 R171). How the bytes of a block lie in the words of
ENT_DATA is the model's choice (log 90). -/
def Obligations.NoiseIsGrantedOnce : Prop :=
  (∀ (d : Draw) (n : Nat) (rest : List (Draw × Nat)) (s : State), s.ent.internalQ = (d, n) :: rest →
      (canGrant s n = false → exec (.entropyGrant false) s = .next s)
      ∧ (canGrant s n = true →
        ∃ t, exec (.entropyGrant false) s = .next t ∧ t.ent.pool = s.ent.pool.drop n ∧ t.ent.internalQ = rest
          ∧ t.ent.fifo = s.ent.fifo ∧ t.ent.jobQ = s.ent.jobQ
          ∧ (d ≠ .hbmKeys → t.mem = s.mem)
          ∧ (d = .hbmKeys → t.hbm.ready = true)
          ∧ (d = .salts → t.vault.salts = (s.vault.salts ++ [s.ent.pool.take n]).take 4096)
          ∧ (d = .dbgChal → t.dbg.chal = some (s.ent.pool.take n, s.sched.pitch)
              ∧ t.out = s.out ++ [.tap (leBytes 8 s.life.devId.toNat ++ s.ent.pool.take n)])
          ∧ ∀ ctx j, (d = .proposal ctx ∨ d = .token ctx ∨ d = .seed ctx ∨ d = .lcChal ctx) → getJob s ctx = some j → j.drawWait = true →
              getJob t ctx = some { j with drawWait := false, nonce := some (s.ent.pool.take n) }))
  ∧ (∀ (ctx n : Nat) (rest : List (Draw × Nat)) (s : State), s.ent.internalQ = [] → canGrant s n = true → s.ent.jobQ = (.job ctx, n) :: rest →
      (60 < s.ent.fifo.length ∨ s.ent.share < 15) →
      ∃ t, exec (.entropyGrant true) s = .next t ∧ t.ent.pool = s.ent.pool.drop n ∧ t.ent.jobQ = rest ∧ t.ent.fifo = s.ent.fifo
        ∧ t.freeCtr = s.freeCtr ∧ ∀ j, getJob s ctx = some j → getJob t ctx = some { j with entNeed := 0, rnd := s.ent.pool.take n })
  ∧ (∀ s : State, s.ent.internalQ = [] → s.ent.jobQ = [] → canGrant s 32 = true → s.ent.fifo.length ≤ 60 →
      ∃ t, exec (.entropyGrant true) s = .next t ∧ t.ent.pool = s.ent.pool.drop 32
        ∧ t.ent.fifo.length = s.ent.fifo.length + 4 ∧ t.ent.fifo.take s.ent.fifo.length = s.ent.fifo
        ∧ ∀ i < 4, nthD t.ent.fifo (s.ent.fifo.length + i) 0 = BitVec.ofNat 64 (leNat ((s.ent.pool.drop (8 * i)).take 8)))
  ∧ (∀ s : State,
      (∀ b, exec (.entDataRead b false) s = .next { s with out := s.out ++ [.busError] })
      ∧ (∀ w rest, s.ent.fifo = w :: rest →
          Gives (.entDataRead true true) s { s with ent := { s.ent with fifo := rest }, out := s.out ++ [.read w] })
      ∧ (s.ent.fifo = [] → Gives (.entDataRead true true) s { s with ent := { s.ent with emptyRd := true }, out := s.out ++ [.read 0] })
      ∧ (∀ w rest, s.ent.katOut = w :: rest →
          exec .entKatOutRead s = .next { s with ent := { s.ent with katOut := rest }, out := s.out ++ [.read w] })
      ∧ (s.ent.katOut = [] → exec .entKatOutRead s = .next { s with out := s.out ++ [.read 0] }))
  ∧ (∀ (v : Word) (s : State), exec (.entKatIn v) s = .next (if s.ent.katIn.length < 16 then
        { s with ent := { s.ent with katIn := s.ent.katIn ++ [v] } } else s))
  ∧ (∀ s : State,
      (inService s (108 + s.ent.katCond) = true → 2 ≤ condsUp s → s.ent.katIn.length = 16 → s.ent.katBusy = false →
        exec .entKatStart s = .next { s with ent := { s.ent with katStart := true, katBusy := true, katErr := false, katTest := s.ent.katIn, katIn := [] } })
      ∧ ((inService s (108 + s.ent.katCond) = false ∨ condsUp s < 2 ∨ s.ent.katIn.length ≠ 16 ∨ s.ent.katBusy = true) →
        exec .entKatStart s = .next { s with ent := { s.ent with katErr := true, katIn := [] } }))
  ∧ ∀ (ctx : Nat) (s : State) (j : Job), getJob s ctx = some j → (j.phase = .ready ∨ j.phase = .held) → (0 < j.entNeed ∨ 0 < j.saltNeed) →
      j.entSince + 25000 ≤ s.sched.pitch → (s.ent.stopped = true ∨ (domRec s 14).st ∈ [0, 2, 3]) →
      ∃ t k, exec (.entropyWaitExpiry ctx) s = .next t ∧ getJob t ctx = some k
        ∧ (∀ p ∈ t.ent.jobQ, p ∈ s.ent.jobQ ∧ p.1 ≠ .job ctx)
        ∧ if paired s = true ∧ j.forPartner = none ∧ j.hdr.opcode ≠ 0x030 then k.phase = .forwarded
          else k.phase = .completed ∧ k.result = some { status := stEntropyFail } ∧ k.due = nextBoundary s

/-- The TAP (17 R499, R521, R522, R523, R524, R528). -/
def Obligations.TapInstructionsShiftOut : Prop :=
  ∀ s : State, tapOn s = true →
    let load := fun (code : Byte) (o : List OutEv) => { s with dbg := { s.dbg with ir := code }, out := s.out ++ o }
    exec .bypass s = .next (load 0xFF [.tap [0]])
    ∧ exec .idcode s = .next (load 0x01 [.tap [0xB3, 0x08, 0x64, 0x19]])
    ∧ exec .samplePreload s = .next (load 0x02 [])
    ∧ (∀ p ∈ [((0x00 : Byte), Instr.extest), (0x04, .clamp), (0x05, .highz)],
        exec p.2 s = .next (if pinsAvailable s = true then load p.1 [] else load p.1 [.tap [0]]))
    ∧ (tapDead s = true → exec .dbgChal s = .next (load 0x10 [.tap [0]]) ∧ exec .dbgStatus s = .next (load 0x12 [.tap [0]])
        ∧ exec .dbgDrop s = .next (load 0x14 [.tap [0]]) ∧ ∀ b, exec (.dbgToken b) s = .next (load 0x11 [.tap [0]]))
    ∧ (tapDead s = false →
        exec .dbgStatus s = .next (load 0x12 [.tap (leBytes 8 (dbgStat s))])
        ∧ (∃ t, exec .dbgDrop s = .next t ∧ t.dbg.enabled = 0 ∧ t.dbg.waitEn = 0 ∧ t.vault = s.vault ∧ { t with dbg := s.dbg } = s)
        ∧ (canDrawNow s 32 = true → ∃ t, exec .dbgChal s = .next t ∧ t.dbg.chal = some (s.ent.pool.take 32, s.sched.pitch)
            ∧ t.out = s.out ++ [.tap (leBytes 8 s.life.devId.toNat ++ s.ent.pool.take 32)]
            ∧ t.ent.pool = s.ent.pool.drop 32 ∧ t.dbg.enabled = s.dbg.enabled)
        ∧ (canDrawNow s 32 = false → ∃ t, exec .dbgChal s = .next t ∧ t.ent.internalQ = s.ent.internalQ ++ [(.dbgChal, 32)]
            ∧ t.out = s.out ∧ t.dbg.chal = s.dbg.chal)
        ∧ ∀ b, ∃ t, exec (.dbgToken b) s = .next t ∧ t.dbg.chal = none ∧ t.dbg.ir = 0x11
            ∧ if tokenCheck s 0 s.dbg.chal b = 0 then
                t.dbg.refuse = 0 ∧ t.dbg.accepted = satAdd 16 s.dbg.accepted 1
                  ∧ (∀ n < 4, t.dbg.enabled.getLsbD n = true →
                      s.dbg.enabled.getLsbD n = true ∨ s.dbg.waitEn.getLsbD n = true ∨ bitAt (leAt b 6 1) n = true)
                  ∧ (∀ n < 3, s.dbg.enabled.getLsbD n = false → t.dbg.enabled.getLsbD n = true → t.vault.trk = true)
              else { t with dbg := s.dbg } = s ∧ t.dbg.enabled = s.dbg.enabled ∧ t.dbg.refuse = tokenCheck s 0 s.dbg.chal b)

/-- SMBus telemetry (18 R546, R550); no answer to a wrong PEC is the model's choice (log 130). -/
def Obligations.TelemetryIsAnswered : Prop :=
  ∀ (x : SmbXfer) (s : State), s.sys.mode ≠ .vault →
    let told := fun (cmd : Nat) (b : List Byte) => { s with
      mgmt := { s.mgmt with reads := satAdd 32 s.mgmt.reads 1 }
      out := s.out ++ [.smbus (b ++ if x.pec = true then [pecOf x.addr cmd (if cmd = 0x30 then leBytes 1 16 ++ b else b)] else [])] }
    let erred := { s with mgmt := { s.mgmt with errors := satAdd 16 s.mgmt.errors 1 } }
    let reads : List (Instr × Nat × List Byte) :=
      [(.smbusReadId x, 0, [0x40, 0x96]), (.smbusReadMode x, 1, sliceB (telSnap s) 0 1), (.smbusReadLifecycle x, 2, sliceB (telSnap s) 1 1),
        (.smbusReadNvm x, 3, sliceB (telSnap s) 2 1), (.smbusReadFaultSummary x, 0x30, sliceB (telSnap s) 3 16)]
        ++ ((List.range 4).map fun n => (.smbusReadTemperature n x, 0x10 + n, leBytes 2 (nthD s.mgmt.temps n 0)))
        ++ (List.range 5).map fun n => (.smbusReadVoltage n x, 0x20 + n, leBytes 2 (nthD s.mgmt.volts n 0))
    (x.addr = 0x4C + b2n s.mgmt.asel →
      (∀ r ∈ reads, exec r.1 s = .next (if x.pecBad = true then erred else told r.2.1 r.2.2))
      ∧ exec (.smbusUnsupportedCommand x) s = .next { erred with out := s.out ++ [.smbusNack] })
    ∧ (x.addr ≠ 0x4C + b2n s.mgmt.asel → (∀ r ∈ reads, exec r.1 s = .next s) ∧ exec (.smbusUnsupportedCommand x) s = .next s)
    ∧ ∀ temps volts : List Nat, ∃ t u v, exec (.telemetryRefresh temps volts) s = .next t ∧ { t with mgmt := s.mgmt } = s
        ∧ t.mgmt.temps = temps ∧ t.mgmt.volts = volts
        ∧ (x = { addr := 0x4C + b2n s.mgmt.asel } →
          exec (.smbusReadMode x) t = .next u
            ∧ u.out = s.out ++ [.smbus (leBytes 1 (s.sys.mode.code + 8 * b2n s.sys.unkeyed + 16 * b2n s.sys.paired))]
            ∧ exec (.smbusReadLifecycle x) t = .next v ∧ v.out = s.out ++ [.smbus (leBytes 1 (s.life.code % 16))])

/-- Power and resets (01 R35, R38, 15 R454, R459, 17 R516, R524, 18 R541, R542, R543, 20 R577, R578). -/
def Obligations.SuppliesComeAndGo : Prop :=
  (∀ (i : Instr) (cause : Nat) (s : State),
      ((i = .mainPowerUp ∧ cause = 1 ∧ s.sys.mode = .vault ∧ s.board.vddGuard = true ∧ s.tam.line = false ∧ s.tam.holdDie = false)
        ∨ (i = .sysResetNAssert ∧ cause = 3 ∧ s.sys.mode ≠ .vault ∧ s.sys.mode ≠ .lockdown ∧ s.tam.holdDie = false ∧ s.board.mainPower = true)
        ∨ (i = .systemResetRelease ∧ cause = 2 ∧ s.tam.line = true ∧ s.tam.released = true ∧ s.tam.confirmed = true
            ∧ s.tam.after = .systemReset ∧ s.tam.holdDie = false ∧ s.board.mainPower = true ∧ s.life.trans = none
            ∧ ∀ d < 20, (domRec s d).st ≠ 3)) →
      ∃ t, exec i s = .next t ∧ t.sys.mode = .startup ∧ t.clk.cause = cause ∧ t.clk.resets = min 65535 (s.clk.resets + 1)
        ∧ t.vault.objs = [] ∧ t.qm.queues = [] ∧ t.tol.sess = [] ∧ t.sched.jobs = [] ∧ t.regs = []
        ∧ t.vault.roots = s.vault.roots ∧ t.vault.binds = s.vault.binds ∧ t.vault.seeds = s.vault.seeds
        ∧ (∀ e, e ∈ t.mem ↔ e ∈ s.mem ∧ 0x10000000 ≤ e.1 ∧ e.1 < 0x20000000)
        ∧ (if t.life.code = 6 ∨ t.life.code = 15 then t.sys.held = true ∧ t.sys.bootStep = 0
            else t.sys.held = false ∧ t.sys.bootStep = 1 ∧ t.ent.internalQ = [(.hbmKeys, 128)])
        ∧ (i = .systemResetRelease → t.tam.line = false))
  ∧ (∀ s : State, s.sys.mode ≠ .vault → ∃ t, exec .mainPowerLost s = .next t ∧ t.sys.mode = .vault ∧ t.board.mainPower = false
      ∧ t.vault.objs = [] ∧ t.vault.trk = false ∧ t.dbg.enabled = 0 ∧ t.dbg.chal = none ∧ t.qm.queues = [] ∧ t.tol.sess = [] ∧ t.sched.jobs = []
      ∧ t.vault.roots = s.vault.roots ∧ t.vault.seeds = s.vault.seeds ∧ t.cairn.buf = s.cairn.buf
      ∧ (∀ e, e ∈ t.mem ↔ e ∈ s.mem ∧ 0x10000000 ≤ e.1 ∧ e.1 < 0x20000000))
  ∧ (∀ s : State, s.board.vddGuard = true → ∃ t, exec .vddGuardDisappear s = .next t ∧ t.sys.mode = .vault ∧ t.board.vddGuard = false
      ∧ t.clk.resets = 0 ∧ t.life.trans = none
      ∧ if s.board.vbat = true then t.vault.roots = s.vault.roots ∧ t.vault.seeds = s.vault.seeds ∧ t.cairn.buf = s.cairn.buf
        else t.vault.roots = [] ∧ t.vault.seeds = [] ∧ t.cairn.buf = [] ∧ t.tam.line = false)
  ∧ (∀ s : State, s.board.vbat = true → ∃ t, exec .backupCellRemove s = .next t ∧ t.board.vbat = false
      ∧ if s.board.vddGuard = true then { t with board := s.board } = s
        else t.vault.roots = [] ∧ t.vault.seeds = [] ∧ t.cairn.buf = [] ∧ t.tam.line = false)
  ∧ (∀ (ok : Bool) (s : State),
      (s.board.vddGuard = false → ∃ t, exec (.vddGuardAppear ok) s = .next t ∧ t.board = { s.board with vddGuard := true }
        ∧ if s.board.vbat = true ∨ ok = true then { t with board := s.board } = s
          else t.vault.roots = [] ∧ t.vault.binds = [] ∧ t.vault.seeds = [] ∧ t.sys = s.sys)
      ∧ (s.board.vbat = false → ∃ t, exec (.backupCellConnect ok) s = .next t ∧ t.board = { s.board with vbat := true }
        ∧ if s.board.vddGuard = true ∨ ok = true then { t with board := s.board } = s
          else t.vault.roots = [] ∧ t.vault.binds = [] ∧ t.vault.seeds = [] ∧ t.sys = s.sys))
  ∧ ∀ (high : Bool) (s : State), dieOn s = true →
      exec (.hbmTemperatureHigh high) s = .next { s with hbm := { s.hbm with refreshDoubled := high } }

/-- The route card boot (01 R37, 11 R327, R328, 17 R516, R517, R527). -/
def Obligations.RouteCardsBoot : Prop :=
  ∀ (readOk octal pufOk : Bool) (image : List Byte) (bad : List Nat) (s : State), s.sys.mode = .startup →
    (s.sys.bootStep = 1 ∨ s.sys.bootStep = 2) → s.hbm.ready = true → s.tam.line = false → s.tam.active = 0 →
    let code := if readOk = true then cardResult s image else 2
    let slot := if s.sys.bootStep = 1 then inForce s 0x1C0000 % 2 else 1 - inForce s 0x1C0000 % 2
    ∃ t, exec (.routeCardSlotRead readOk octal image pufOk bad) s = .next t
      ∧ (if slot = 0 then t.nvm.aResult else t.nvm.bResult) = code ∧ t.nvm.octal = octal
      ∧ if code = 1 then
          t.nvm.booted = slot
            ∧ (pufOk = true → t.sys.bootStep = 4 ∧ t.vault.derived = true ∧ t.vault.pufOk = true ∧ t.qm.arena = true
                ∧ t.nvm.svn = cardSvn image ∧ t.acu.bootDone = true
                ∧ ∀ c < 8, getCore t c = { pc := BitVec.ofNat 64 t.world.fwEntry })
            ∧ (pufOk = false → t.sys.mode = .lockdown ∧ t.tam.line = true)
        else
          t.sys.mode = .startup ∧ t.tam = s.tam
            ∧ t.mem = (if readOk = true then writeBytes s.mem 0x10082000000 (image.take 0x2000000) else s.mem)
            ∧ (s.sys.bootStep = 1 → t.sys.bootStep = 2 ∧ t.nvm.fallback = true ∧ t.sys.held = s.sys.held)
            ∧ (s.sys.bootStep = 2 → t.sys.bootStep = 3 ∧ t.sys.held = true)

/-- Segments (02 R46, R54, 06 R176, R177, R179, R180, R182, 07 R210, 08 R229, R243, R246, 09 R256, R265, R266, R268). -/
def Obligations.SegmentsEndByTheirVerdict : Prop :=
  (∀ (u ctx : Nat) (s : State) (j : Job), (unitRec s u).job = some ctx → getJob s ctx = some j → (unitRec s u).seg = true →
      serving s = true → (unitRec s u).st ≠ .fenced →
      let r := unitRec s u
      let free := { r with seg := false, overrun := false }
      let onwards := fun (i : Instr) => ∃ t, exec i s = .next t ∧ UnitOnly u s t ∧ unitRec t u = free
      let attacked := fun (i : Instr) => ∃ t, exec i s = .next t
        ∧ if ∃ e ∈ s.flt.mismatches, recent s e.1 = true ∧ e.2 ≠ u then LockedDown t else FencedAndFreed u ctx t
      let size := 16 + ((j.result.map fun r => r.out.length).getD 0)
      let written := (outputAccess u ctx j s).1
      (j.result ≠ none → 4 ≤ u → written = true → ∃ t, exec (.segmentEnd u (.ok true)) s = .next t ∧ Worked u ctx j s t)
      ∧ (j.result ≠ none → 4 ≤ u → j.phase = .running → 
          (∀ a ∈ stageAddr s ctx :: burstsFrom (stageAddr s ctx) size, (portOf a).isSome = true ∧ portWaits s a = false) → written = false →
          ∃ t k, exec (.segmentEnd u (.ok true)) s = .next t ∧ getJob t ctx = some k ∧ k.phase = .completed
            ∧ k.result = some { status := stUnitUnavailable } ∧ (unitRec t u).job = none)
      ∧ (j.result ≠ none → 4 ≤ u → portWaits s (stageAddr s ctx) = true → exec (.segmentEnd u (.ok true)) s = .next s)
      ∧ (∀ last, 4 ≤ u → (last = false ∨ j.result = none) → onwards (.segmentEnd u (.ok last)))
      ∧ (∀ n flips, u < 4 → r.mem.shadow = r.mem.key.map (fun b => ~~~ b) →
          let left := j.input.length - r.mem.done
          let k := laneBytes j.hdr r.mem n left
          let w := laneOut s j r.mem.key r.mem.done k (k == left)
          ((∃ i, i < w.length ∧ nthD flips i 0 ≠ 0) → attacked (.segmentEnd u (.lane n flips)))
          ∧ ((∀ i < w.length, nthD flips i 0 = 0) →
              (k = left → j.result ≠ none → written = true →
                ∃ t, exec (.segmentEnd u (.lane n flips)) s = .next t ∧ Worked u ctx j s t)
              ∧ (k ≠ left ∨ j.result = none →
                ∃ t m, exec (.segmentEnd u (.lane n flips)) s = .next t ∧ UnitOnly u s t ∧ unitRec t u = { free with mem := m }
                  ∧ m.done = r.mem.done + k ∧ m.key = r.mem.key
                  ∧ m.outBuf = r.mem.outBuf.drop (laneDrain k) ++ laneWords (outWords s r.mem.key j) r.mem.done k (k == left))))
      ∧ (100 ≤ u → u < 108 → attacked (.segmentEnd u .mismatch))
      ∧ (20 ≤ u → u < 84 → ∃ t, exec (.segmentEnd u .selfCheck) s = .next t
        ∧ if 4 ≤ distinctUnits (addRecent s u s.flt.pkeFails) then LockedDown t else FencedAndFreed u ctx t)
      ∧ (84 ≤ u → u < 100 → ∃ t, exec (.segmentEnd u .selfCheck) s = .next t
        ∧ if 4 ≤ distinctUnits (addRecent s u s.flt.latFails) then LockedDown t else FencedAndFreed u ctx t)
      ∧ (4 ≤ u → u < 20 → ∃ t, exec (.segmentEnd u .disagree) s = .next t ∧ FencedAndFreed u ctx t)
      ∧ (84 ≤ u → u < 100 → ∃ t, exec (.segmentEnd u .exhausted) s = .next t ∧ FencedAndFreed u ctx t
        ∧ t.flt.latRec.1 = u - 84 ∧ t.flt.latKind = true)
      ∧ ∀ n, (j.hdr.opcode = 0x308 → j.result = none → ∃ t, exec (.segmentEnd u (.rejected n)) s = .next t
          ∧ getJob t ctx = some { j with phase := .held, entNeed := 4096, entSince := s.sched.pitch }
          ∧ t.ent.jobQ = s.ent.jobQ ++ [(.job ctx, 4096)] ∧ (unitRec t u).seg = false ∧ t.mem = s.mem ∧ t.vault = s.vault)
        ∧ (j.hdr.opcode = 0x411 → attemptBudget (j.hdr.p0 0 8) ≤ r.mem.tries + n → 84 ≤ u → u < 100 →
            ∃ t, exec (.segmentEnd u (.rejected n)) s = .next t ∧ FencedAndFreed u ctx t ∧ t.flt.latKind = true)
        ∧ (j.hdr.opcode = 0x411 → r.mem.tries + n < attemptBudget (j.hdr.p0 0 8) →
            Gives (.segmentEnd u (.rejected n)) s (setUnit u { free with mem := { r.mem with tries := r.mem.tries + n } } s))
        ∧ (j.hdr.opcode ≠ 0x411 → (j.hdr.opcode ≠ 0x308 ∨ j.result ≠ none) → onwards (.segmentEnd u (.rejected n))))
  ∧ (∀ (u n : Nat) (flips : List Byte) (s : State), u < 4 → (unitRec s u).job = none → serving s = true →
      ((unitRec s u).st = .draining ∨ (unitRec s u).st = .scrubbing) → (∃ b ∈ flips, b ≠ 0) →
      ∃ t, exec (.segmentEnd u (.lane n flips)) s = .next t
        ∧ if ∃ e ∈ s.flt.mismatches, recent s e.1 = true ∧ e.2 ≠ u then LockedDown t else (unitRec t u).st = .fenced)
  ∧ ∀ (ctx : Nat) (s : State) (j : Job), getJob s ctx = some j → j.phase = .running → isUnquoted j.hdr = true → j.result ≠ none →
      j.workDone = false →
      (j.unit = none → ∃ t, exec (.jobWorkComplete ctx) s = .next t ∧ getJob t ctx = some { j with workDone := true } ∧ JobAlone ctx s t)
      ∧ ∀ u, j.unit = some u → (outputAccess u ctx j s).1 = true →
          ∃ t, exec (.jobWorkComplete ctx) s = .next t ∧ Worked u ctx j s t

/-- Key loads, memory errors and waits (05 R162, 11 R312, R313, 16 R481, R491, 19 R560). -/
def Obligations.KeysLoadAndMemoryErrors : Prop :=
  (∀ (ctx ke : Nat) (s : State) (j : Job), getJob s ctx = some j → j.phase = .ready → j.keyLoaded = false → needsLoad j.hdr = true →
      loadSlot s ke = true → serving s = true →
      (namedSlots j.hdr).any s.vault.awaited.contains = false →
      let cold := (namedSlots j.hdr).find? fun n => (tget s.vault.objs n).isSome && !isHot s n
      (keyReads ctx cold s).1 = true →
      let good := ∀ n, cold = some n → recordGood s n [] = true
      (carriesPack j.hdr = false → good → ∃ t k, exec (.keyLoad ctx ke .ok) s = .next t ∧ getJob t ctx = some k
        ∧ k = { j with keyLoaded := true, notBefore := k.notBefore } ∧ nextBoundary s ≤ k.notBefore ∧ j.notBefore ≤ k.notBefore
        ∧ k.notBefore ≤ max j.notBefore (nextBoundary s + 1) ∧ t.vault.objs = s.vault.objs
        ∧ (unitRec t (100 + ke)).busyAt = some s.sched.pitch)
      ∧ (carriesPack j.hdr = true → good → ∃ t k, exec (.keyLoad ctx ke .ok) s = .next t ∧ getJob t ctx = some k
        ∧ if (openEntryPack s j.hdr j.input).1 = stOk then
            k.keyLoaded = true ∧ k.phase = .ready ∧ k.partialOut = (openEntryPack s j.hdr j.input).2
          else k.phase = .completed ∧ k.result = some { status := (openEntryPack s j.hdr j.input).1 })
      ∧ (∃ t, exec (.keyLoad ctx ke .mismatch) s = .next t
        ∧ if ∃ e ∈ s.flt.mismatches, recent s e.1 = true ∧ e.2 ≠ 100 + ke then LockedDown t else (unitRec t (100 + ke)).st = .fenced)
      ∧ ∀ n o, cold = some n → tget s.vault.objs n = some o →
          (∀ flips, ∃ t, exec (.keyLoad ctx ke (.record flips)) s = .next t
            ∧ if recordGood s n flips = true then
                carriesPack j.hdr = false → (∃ k, getJob t ctx = some k ∧ k.keyLoaded = true) ∧ t.sys.mode = s.sys.mode
              else LockedDown t)
          ∧ ∃ t, exec (.keyLoad ctx ke .hbmError) s = .next t ∧ tget t.vault.objs n = some { o with lost := !s.sys.paired }
              ∧ n ∉ t.vault.hot ∧ t.vault.lostValid = true
              ∧ (s.sys.paired = true → n ∈ t.vault.awaited))
  ∧ (∀ (slot : Nat) (o obj : KeyObj) (s : State), tget s.vault.objs slot = some o → s.sys.paired = true → obj.gen = o.gen →
      ∃ t k, exec (.coldRecordRefetched slot obj) s = .next t ∧ { t with vault := { t.vault with objs := s.vault.objs, due := s.vault.due, awaited := s.vault.awaited } } = s
        ∧ slot ∉ t.vault.awaited
        ∧ tget t.vault.objs slot = some k ∧ k.lost = false ∧ k.mat = obj.mat ∧ k.gen = o.gen ∧ k.policy = obj.policy
        ∧ ∀ n, n ≠ slot → tget t.vault.objs n = tget s.vault.objs n)
  ∧ (∀ (addr : Nat) (s : State), dieOn s = true →
      (∀ w, ∃ t, exec (.hbmUncorrectableError addr w) s = .next t
        ∧ (s.hbm.errValid = false → t.hbm.errValid = true ∧ t.hbm.errAddr = addr / 64 * 64))
      ∧ (∃ t, exec (.hbmUncorrectableError addr .firmware) s = .next t
        ∧ if s.sys.summitRestarting = true ∧ s.sys.mode ≠ .lockdown then LockedDown t
          else t.vault = s.vault ∧ t.mem = s.mem ∧ t.sched = s.sched ∧ t.sys = s.sys)
      ∧ (∀ slot ke o, tget s.vault.objs slot = some o → ∃ t, exec (.hbmUncorrectableError addr (.coldRecord slot ke)) s = .next t
        ∧ tget t.vault.objs slot = some { o with lost := !s.sys.paired } ∧ slot ∉ t.vault.hot
        ∧ (s.sys.paired = true → slot ∈ t.vault.awaited))
      ∧ (∀ ctx j, getJob s ctx = some j → j.phase = .ready ∨ j.phase = .running ∨ j.phase = .held →
          ∃ t k, exec (.hbmUncorrectableError addr (.jobData ctx)) s = .next t ∧ getJob t ctx = some k
            ∧ (∀ u, (unitRec t u).job ≠ some ctx)
            ∧ if j.hbmErrs = 0 then k.phase = .ready ∧ k.unit = none ∧ k.hbmErrs = 1 ∧ k.notBefore = s.sched.pitch + 2 ∧ k.retries = j.retries
              else if s.sys.paired = true ∧ j.forPartner = none then k.phase = .forwarded
              else k.phase = .completed ∧ k.result = some { status := stUnitUnavailable } ∧ k.due = nextBoundary s)
      ∧ ∀ q, ∃ t, exec (.hbmCorrectedError q) s = .next t ∧ t.flt.f1 = satAdd 32 s.flt.f1 1
          ∧ { t with flt := s.flt, world := s.world, cnt := s.cnt, evc := s.evc } = s)
  ∧ (∀ (slot sid : Nat) (x : Stream) (s : State), findStream s slot sid = some x →
      x.opened = true → streamRuns s slot x.id = false → x.lastRelease + 5000000 ≤ s.sched.pitch →
      ∃ t, exec (.streamTimeout slot sid) s = .next t ∧ (∀ y, y ∈ t.strm.tab ↔ y ∈ s.strm.tab ∧ ¬ (y.slot = slot ∧ y.id = x.id))
        ∧ t.mem = s.mem ∧ t.vault = s.vault ∧ t.units = s.units ∧ t.ent = s.ent ∧ t.tol = s.tol
        ∧ ∀ c j, getJob s c = some j → ∃ k, getJob t c = some k
            ∧ if j.slot = slot ∧ j.strm = some x.id ∧ 2 ≤ j.hdr.chain ∧ j.phase = .ready then
                k.phase = .completed ∧ k.result = some { status := stBadStream } ∧ k.due = nextBoundary s
              else k = j)
  ∧ ∀ (u : Nat) (s : State), u < 112 → inService s u = true → (unitRec s u).reserved = false →
      (unitRec s u).lastPass + 4000000 ≤ s.sched.pitch → Gives (.sweepReservation u) s (setUnit u { unitRec s u with reserved := true } s)

/-- Fetch (02 R55, R56, R58, 04 R132, R133, R134, 05 R157, 13 R390). -/
def Obligations.EntriesAreFetchedInTurn : Prop :=
  (∀ (slot ctx : Nat) (s : State) (q : Queue) (j : Job), serving s = true → getQueue s slot = some q →
      (jobsOf s slot).find? (fun p => p.2.phase == .granted || p.2.phase == .fetchWait) = some (ctx, j) → j.phase = .granted →
      let h := decodeHeader (ringRead s q q.cidx.toNat 1)
      let j1 := { j with hdr := h, entry := q.cidx }
      let body := (ringRead s q (q.cidx.toNat + 1) (h.lenUnits - 1)).take h.inBytes
      let u := passEntry slot q q.cidx.toNat h.lenUnits (setJob ctx j1 s)
      let k1 := { j1 with input := body, ackNeed := ownAck (setJob ctx j1 s) u j1.ackNeed }
      let st := if (replayed u k1).2.isSome then stOk else fetchStatus u slot ((getQueue u slot).getD q) h body
      dist q.visible q.cidx ≠ 0 → (engineAccess 8 .read (unitAddr q q.cidx.toNat) 64 (some ctx) (setJob ctx j1 s)).1 = true →
      (lenUnitsOk q h = true → h.lenUnits ≤ dist q.visible q.cidx → q.cidx ∉ q.skip →
        (engineBursts 8 .read (unitSpan q (q.cidx.toNat + 1) (h.lenUnits - 1)) (some ctx) (setJob ctx j1 s)).1 = true → (∀ p ∈ s.sched.jobs, p.1 = ctx → p.2.saltNeed = 0) →
        ∃ t p k, exec (.entryFetch slot) s = .next t ∧ getQueue t slot = some p ∧ p.cidx = idxAdd q.cidx h.lenUnits
          ∧ p.nextGrant = nextBoundary s ∧ getJob t ctx = some k ∧ k.hdr = h ∧ k.entry = q.cidx ∧ k.input = body
          ∧ if st = stOk then k.phase = .ready ∨ (s.sys.paired = true ∧ k.phase = .forwarded)
            else k.phase = .completed ∧ k.result = some { status := st } ∧ k.due = nextBoundary s)
      ∧ (lenUnitsOk q h = true → dist q.visible q.cidx < h.lenUnits →
        exec (.entryFetch slot) s = .next (setJob ctx { j1 with phase := .fetchWait } s))
      ∧ (lenUnitsOk q h = false →
        ∃ t p k, exec (.entryFetch slot) s = .next t ∧ getQueue t slot = some p ∧ p.cidx = idxAdd q.cidx (dist q.visible q.cidx)
          ∧ getJob t ctx = some k ∧ k.phase = .completed ∧ k.result = some { status := stBadLength } ∧ k.due = nextBoundary s))
  ∧ ∀ (slot : Nat) (s : State) (q : Queue), serving s = true → getQueue s slot = some q → q.st = .active →
      let limit := fld (rw s 0x10010) 0 32
      let h := decodeHeader (ringRead s q q.cidx.toNat 1)
      let key := (((List.range 4096).map (· + ctxLimit)).find? fun k => (getJob s k).isNone).getD ctxLimit
      let late := q.lateRefuse = true ∨ (limit ≠ 0 ∧ limit < q.wait)
      let refused (st len : Nat) := ∃ t p k, exec (.contextWaitLimit slot) s = .next t ∧ getQueue t slot = some p
        ∧ p.cidx = idxAdd q.cidx len ∧ p.wait = 0 ∧ p.lateRefuse = false ∧ getJob t key = some k ∧ k.slot = slot ∧ k.entry = q.cidx
        ∧ k.phase = .completed ∧ k.result = some { status := st } ∧ k.due = nextBoundary s
      (late → dist q.visible q.cidx ≠ 0 → (engineAccess 8 .read (unitAddr q q.cidx.toNat) 64 none s).1 = true →
        (lenUnitsOk q h = true → h.lenUnits ≤ dist q.visible q.cidx → refused stNoContext h.lenUnits)
        ∧ (lenUnitsOk q h = true → dist q.visible q.cidx < h.lenUnits →
          exec (.contextWaitLimit slot) s = .next (setQueue slot { q with lateRefuse := true } s))
        ∧ (lenUnitsOk q h = false → refused stBadLength (dist q.visible q.cidx)))
      ∧ (late → (dist q.visible q.cidx = 0 ∨ portWaits s (unitAddr q q.cidx.toNat) = true) → exec (.contextWaitLimit slot) s = .next s)
      ∧ ∀ ctx j, q.lateRefuse = false → q.wait ≤ limit → callWaited s limit slot = some (ctx, j) →
          ∃ t k, exec (.contextWaitLimit slot) s = .next t ∧ getJob t ctx = some k ∧ k.phase = .completed
            ∧ k.result = some { status := stNoContext } ∧ k.due = nextBoundary s

/-- The step of the block. Idling is the model's choice (log 7): every event of the spec is a command. -/
def Obligations.StepRunsTheFrontCommand : Prop :=
  (∀ (c : Instr) (rest : List Instr) (s : State), s.pending = c :: rest → step s = exec c { s with pending := rest })
    ∧ ∀ s : State, s.pending = [] → step s = .next s

/-- Reset (01 R42, 02 R66, 13 R373, 15 R473, 16 R494, 19 R555). Where the spec gives no value the model names one (log 6);
none of those is stated here. -/
def Obligations.ResetLeavesTheResetState : Prop :=
  Inv State.reset ∧ State.reset.sys.mode = .startup ∧ State.reset.sys.fenced = 0 ∧ State.reset.sys.unkeyed = false
    ∧ State.reset.sys.paired = false ∧ State.reset.sys.summitRestarting = false
    ∧ (∀ c < 8, (getCore State.reset c).base = false ∧ (getCore State.reset c).priv = 3 ∧ (getCore State.reset c).pc = 0)
    ∧ State.reset.sched.jobs = [] ∧ State.reset.qm.queues = [] ∧ State.reset.tol.sess = [] ∧ State.reset.vault.objs = []
    ∧ State.reset.mem = [] ∧ State.reset.pending = [] ∧ State.reset.out = []
    ∧ rw State.reset 0x10010 = 0xC350 ∧ rw State.reset 0x120010 = 0x1_0000C350 ∧ rw State.reset 0x160000 = 1
    ∧ inForce State.reset 0x130000 = 0x007FFF00 ∧ inForce State.reset 0x130010 = 0x1111113311111111

/-- The invariant, from every state that has it and not only from reset (15 R475, 16 R486, 19 R551). -/
def Obligations.EveryStepKeepsTheInvariant : Prop :=
  ∀ s t : State, Inv s → step s = .next t → Inv t

/-- Completion and frame of every command: whatever its operands and the state, it answers a next state (02 R44, 10
R289, 19 R551). -/
def Obligations.CommandsLeaveWhatTheyDoNotWrite : Prop :=
  ∀ (c : Instr) (s : State), ∃ t, exec c s = .next t ∧ t.pending = s.pending ∧ (∃ l, t.out = s.out ++ l) ∧ s.freeCtr ≤ t.freeCtr
    ∧ (mayWrite c = false → t.mem = s.mem) ∧ (setsTime c = false → t.sched.pitch = s.sched.pitch)

/-- The pitch boundary (02 R44, R59, R68, 13 R384, 15 R454, R468, 19 R559). That a slot of the scrub covers one line is
the model's choice (log 50). -/
def Obligations.TheBoundaryAdvancesTime : Prop :=
  ∀ (ev : BoundaryEv) (s : State),
    (dieOn s = false → exec (.pitchBoundary ev) s = .next s)
    ∧ (dieOn s = true → ∃ t, exec (.pitchBoundary ev) s = .next t ∧ t.sched.pitch = (s.sched.pitch + 1) % 2 ^ 64
      ∧ (serving s = false →
          t.tam.rtc = (s.tam.rtc + (s.tam.rtcFrac + if s.board.xtal = true then 65536 else 0) / 1000000) % 2 ^ 48
          ∧ t.tam.rtcFrac = (s.tam.rtcFrac + if s.board.xtal = true then 65536 else 0) % 1000000
          ∧ t.hbm.scrubLine = (s.hbm.scrubLine + scrubTaken ev.background s) % 2 ^ 28
          ∧ t.sched.scrubPasses = satAdd 32 s.sched.scrubPasses ((s.hbm.scrubLine + scrubTaken ev.background s) / 2 ^ 28)
          ∧ t.sched.scrubBehind = scrubLate t
          ∧ (s.hbm.ready = true → s.sched.scrubBehind = true →
              ((ev.background.hbmReads.take 4).foldl (· + ·) 0 + (ev.background.hbmWrites.take 4).foldl (· + ·) 0)
                ≤ 15 * scrubTaken ev.background s)
          ∧ t.life.stable = (if s.board.vddGuard = true then s.life.stable + 1 else 0)
          ∧ t.world.swCount = s.world.swCount + (if s.world.ready = true ∧ bitAt (rw s 0x120010) 32 = true then 1 else 0)
          ∧ t.world.bwCount = s.world.bwCount + (if bitAt (rw s 0x120020) 32 = true then 1 else 0)
          ∧ t.sched.jobs = s.sched.jobs ∧ t.qm = s.qm ∧ t.tol = s.tol ∧ t.mem = s.mem ∧ t.sys = s.sys
          ∧ t.vault.roots = s.vault.roots ∧ t.vault.seeds = s.vault.seeds ∧ (s.vault.due = [] → t.vault = s.vault)))
end

