-- ==== Sys2Proof/Laws/Tables.lean ====
section
/-! SUPPORT. Reads of sparse tables after writes, and lengths of byte strings. -/

namespace Sys2Proof.Machine
variable {α : Type}

@[simp] theorem tget_tput_self : ∀ (t : Tab α) (n : Nat) (v : α), tget (tput t n v) n = some v
  | [], n, v => by simp [tput, tget]
  | (k, w) :: t, n, v => by
    simp only [tput]
    split
    · simp [tget]
    · split
      · simp [tget]
      · simp only [tget]; rw [if_neg (by assumption)]; exact tget_tput_self t n v

theorem tget_tput_ne : ∀ (t : Tab α) {n m : Nat} (v : α), m ≠ n → tget (tput t n v) m = tget t m
  | [], n, m, v, h => by simp [tput, tget, Ne.symm h]
  | (k, w) :: t, n, m, v, h => by
    simp only [tput]
    split
    · simp [tget, Ne.symm h]
    · split
      · subst_vars; simp [tget, Ne.symm h]
      · simp only [tget, tget_tput_ne t v h]

theorem tget_tmap (f : Nat → α → α) : ∀ (t : Tab α) (n : Nat), tget (tmap t f) n = (tget t n).map (f n)
  | [], _ => rfl
  | (k, w) :: t, n => by
    simp only [tmap, List.map_cons, tget]
    split
    · subst_vars; rfl
    · exact tget_tmap f t n

theorem tget_tmod_self (f : α → α) : ∀ (t : Tab α) (n : Nat), tget (tmod t n f) n = (tget t n).map f
  | [], _ => rfl
  | (k, w) :: t, n => by
    simp only [tmod]
    split
    · subst_vars; simp [tget]
    · simp only [tget]; rw [if_neg (by assumption), if_neg (by assumption)]; exact tget_tmod_self f t n

theorem tget_tmod_ne (f : α → α) : ∀ (t : Tab α) {n m : Nat}, m ≠ n → tget (tmod t n f) m = tget t m
  | [], _, _, _ => rfl
  | (k, w) :: t, n, m, h => by
    simp only [tmod]
    split
    · subst_vars; simp [tget, Ne.symm h]
    · simp only [tget, tget_tmod_ne f t h]

theorem tget_tdel_ne : ∀ (t : Tab α) {n m : Nat}, m ≠ n → tget (tdel t n) m = tget t m
  | [], _, _, _ => rfl
  | (k, w) :: t, n, m, h => by
    simp only [tdel]
    split
    · subst_vars; simp [tget, Ne.symm h, tget_tdel_ne t h]
    · simp only [tget, tget_tdel_ne t h]

@[simp] theorem tget_tdel_self : ∀ (t : Tab α) (n : Nat), tget (tdel t n) n = none
  | [], _ => rfl
  | (k, w) :: t, n => by
    simp only [tdel]
    split
    · exact tget_tdel_self t n
    · simp only [tget]; rw [if_neg (by assumption)]; exact tget_tdel_self t n

@[simp] theorem leBytes_length : ∀ n v, (leBytes n v).length = n
  | 0, _ => rfl
  | n + 1, v => by simp [leBytes, leBytes_length n]

@[simp] theorem beBytes_length (n v : Nat) : (beBytes n v).length = n := by simp [beBytes]

@[simp] theorem padTo_length (n : Nat) (b : List Byte) : (padTo n b).length = n := by
  simp only [padTo, List.length_take, List.length_append, List.length_replicate]; omega

@[simp] theorem crypto_length (f : CryptoFn) (ps : List Nat) (ins : List (List Byte)) (n : Nat) :
    (crypto f ps ins n).length = n := by simp [crypto]

end Sys2Proof.Machine
end

