-- ==== Sys2Proof/Laws/State.lean ====
section
/-! SUPPORT. Reads of a field, or of a table's entry, after each of the operations that write one place. -/

namespace Sys2Proof.Machine
variable (s : State)

/-! ### setJob -/

@[simp] theorem setJob_sys (ctx : Nat) (j : Job) : (setJob ctx j s).sys = s.sys := rfl
@[simp] theorem setJob_units (ctx : Nat) (j : Job) : (setJob ctx j s).units = s.units := rfl
@[simp] theorem setJob_qm (ctx : Nat) (j : Job) : (setJob ctx j s).qm = s.qm := rfl
@[simp] theorem setJob_strm (ctx : Nat) (j : Job) : (setJob ctx j s).strm = s.strm := rfl
@[simp] theorem setJob_vault (ctx : Nat) (j : Job) : (setJob ctx j s).vault = s.vault := rfl
@[simp] theorem setJob_ent (ctx : Nat) (j : Job) : (setJob ctx j s).ent = s.ent := rfl
@[simp] theorem setJob_quorum (ctx : Nat) (j : Job) : (setJob ctx j s).quorum = s.quorum := rfl
@[simp] theorem setJob_flt (ctx : Nat) (j : Job) : (setJob ctx j s).flt = s.flt := rfl
@[simp] theorem setJob_evc (ctx : Nat) (j : Job) : (setJob ctx j s).evc = s.evc := rfl
@[simp] theorem setJob_sweep (ctx : Nat) (j : Job) : (setJob ctx j s).sweep = s.sweep := rfl
@[simp] theorem setJob_pair (ctx : Nat) (j : Job) : (setJob ctx j s).pair = s.pair := rfl
@[simp] theorem setJob_fab (ctx : Nat) (j : Job) : (setJob ctx j s).fab = s.fab := rfl
@[simp] theorem setJob_tam (ctx : Nat) (j : Job) : (setJob ctx j s).tam = s.tam := rfl
@[simp] theorem setJob_cairn (ctx : Nat) (j : Job) : (setJob ctx j s).cairn = s.cairn := rfl
@[simp] theorem setJob_life (ctx : Nat) (j : Job) : (setJob ctx j s).life = s.life := rfl
@[simp] theorem setJob_nvm (ctx : Nat) (j : Job) : (setJob ctx j s).nvm = s.nvm := rfl
@[simp] theorem setJob_dbg (ctx : Nat) (j : Job) : (setJob ctx j s).dbg = s.dbg := rfl
@[simp] theorem setJob_world (ctx : Nat) (j : Job) : (setJob ctx j s).world = s.world := rfl
@[simp] theorem setJob_acu (ctx : Nat) (j : Job) : (setJob ctx j s).acu = s.acu := rfl
@[simp] theorem setJob_eth (ctx : Nat) (j : Job) : (setJob ctx j s).eth = s.eth := rfl
@[simp] theorem setJob_tol (ctx : Nat) (j : Job) : (setJob ctx j s).tol = s.tol := rfl
@[simp] theorem setJob_clk (ctx : Nat) (j : Job) : (setJob ctx j s).clk = s.clk := rfl
@[simp] theorem setJob_mgmt (ctx : Nat) (j : Job) : (setJob ctx j s).mgmt = s.mgmt := rfl
@[simp] theorem setJob_hbm (ctx : Nat) (j : Job) : (setJob ctx j s).hbm = s.hbm := rfl
@[simp] theorem setJob_board (ctx : Nat) (j : Job) : (setJob ctx j s).board = s.board := rfl
@[simp] theorem setJob_regs (ctx : Nat) (j : Job) : (setJob ctx j s).regs = s.regs := rfl
@[simp] theorem setJob_rwq (ctx : Nat) (j : Job) : (setJob ctx j s).rwq = s.rwq := rfl
@[simp] theorem setJob_cnt (ctx : Nat) (j : Job) : (setJob ctx j s).cnt = s.cnt := rfl
@[simp] theorem setJob_mem (ctx : Nat) (j : Job) : (setJob ctx j s).mem = s.mem := rfl
@[simp] theorem setJob_out (ctx : Nat) (j : Job) : (setJob ctx j s).out = s.out := rfl
@[simp] theorem setJob_freeCtr (ctx : Nat) (j : Job) : (setJob ctx j s).freeCtr = s.freeCtr := rfl
@[simp] theorem setJob_pending (ctx : Nat) (j : Job) : (setJob ctx j s).pending = s.pending := rfl

/-! ### setUnit -/

@[simp] theorem setUnit_sys (u : Nat) (r : UnitRec) : (setUnit u r s).sys = s.sys := rfl
@[simp] theorem setUnit_sched (u : Nat) (r : UnitRec) : (setUnit u r s).sched = s.sched := rfl
@[simp] theorem setUnit_qm (u : Nat) (r : UnitRec) : (setUnit u r s).qm = s.qm := rfl
@[simp] theorem setUnit_strm (u : Nat) (r : UnitRec) : (setUnit u r s).strm = s.strm := rfl
@[simp] theorem setUnit_vault (u : Nat) (r : UnitRec) : (setUnit u r s).vault = s.vault := rfl
@[simp] theorem setUnit_ent (u : Nat) (r : UnitRec) : (setUnit u r s).ent = s.ent := rfl
@[simp] theorem setUnit_quorum (u : Nat) (r : UnitRec) : (setUnit u r s).quorum = s.quorum := rfl
@[simp] theorem setUnit_flt (u : Nat) (r : UnitRec) : (setUnit u r s).flt = s.flt := rfl
@[simp] theorem setUnit_evc (u : Nat) (r : UnitRec) : (setUnit u r s).evc = s.evc := rfl
@[simp] theorem setUnit_sweep (u : Nat) (r : UnitRec) : (setUnit u r s).sweep = s.sweep := rfl
@[simp] theorem setUnit_pair (u : Nat) (r : UnitRec) : (setUnit u r s).pair = s.pair := rfl
@[simp] theorem setUnit_fab (u : Nat) (r : UnitRec) : (setUnit u r s).fab = s.fab := rfl
@[simp] theorem setUnit_tam (u : Nat) (r : UnitRec) : (setUnit u r s).tam = s.tam := rfl
@[simp] theorem setUnit_cairn (u : Nat) (r : UnitRec) : (setUnit u r s).cairn = s.cairn := rfl
@[simp] theorem setUnit_life (u : Nat) (r : UnitRec) : (setUnit u r s).life = s.life := rfl
@[simp] theorem setUnit_nvm (u : Nat) (r : UnitRec) : (setUnit u r s).nvm = s.nvm := rfl
@[simp] theorem setUnit_dbg (u : Nat) (r : UnitRec) : (setUnit u r s).dbg = s.dbg := rfl
@[simp] theorem setUnit_world (u : Nat) (r : UnitRec) : (setUnit u r s).world = s.world := rfl
@[simp] theorem setUnit_acu (u : Nat) (r : UnitRec) : (setUnit u r s).acu = s.acu := rfl
@[simp] theorem setUnit_eth (u : Nat) (r : UnitRec) : (setUnit u r s).eth = s.eth := rfl
@[simp] theorem setUnit_tol (u : Nat) (r : UnitRec) : (setUnit u r s).tol = s.tol := rfl
@[simp] theorem setUnit_clk (u : Nat) (r : UnitRec) : (setUnit u r s).clk = s.clk := rfl
@[simp] theorem setUnit_mgmt (u : Nat) (r : UnitRec) : (setUnit u r s).mgmt = s.mgmt := rfl
@[simp] theorem setUnit_hbm (u : Nat) (r : UnitRec) : (setUnit u r s).hbm = s.hbm := rfl
@[simp] theorem setUnit_board (u : Nat) (r : UnitRec) : (setUnit u r s).board = s.board := rfl
@[simp] theorem setUnit_regs (u : Nat) (r : UnitRec) : (setUnit u r s).regs = s.regs := rfl
@[simp] theorem setUnit_rwq (u : Nat) (r : UnitRec) : (setUnit u r s).rwq = s.rwq := rfl
@[simp] theorem setUnit_cnt (u : Nat) (r : UnitRec) : (setUnit u r s).cnt = s.cnt := rfl
@[simp] theorem setUnit_mem (u : Nat) (r : UnitRec) : (setUnit u r s).mem = s.mem := rfl
@[simp] theorem setUnit_out (u : Nat) (r : UnitRec) : (setUnit u r s).out = s.out := rfl
@[simp] theorem setUnit_freeCtr (u : Nat) (r : UnitRec) : (setUnit u r s).freeCtr = s.freeCtr := rfl
@[simp] theorem setUnit_pending (u : Nat) (r : UnitRec) : (setUnit u r s).pending = s.pending := rfl

/-! ### setDom -/

@[simp] theorem setDom_sys (d : Nat) (r : Dom) : (setDom d r s).sys = s.sys := rfl
@[simp] theorem setDom_sched (d : Nat) (r : Dom) : (setDom d r s).sched = s.sched := rfl
@[simp] theorem setDom_units (d : Nat) (r : Dom) : (setDom d r s).units = s.units := rfl
@[simp] theorem setDom_qm (d : Nat) (r : Dom) : (setDom d r s).qm = s.qm := rfl
@[simp] theorem setDom_strm (d : Nat) (r : Dom) : (setDom d r s).strm = s.strm := rfl
@[simp] theorem setDom_vault (d : Nat) (r : Dom) : (setDom d r s).vault = s.vault := rfl
@[simp] theorem setDom_ent (d : Nat) (r : Dom) : (setDom d r s).ent = s.ent := rfl
@[simp] theorem setDom_quorum (d : Nat) (r : Dom) : (setDom d r s).quorum = s.quorum := rfl
@[simp] theorem setDom_flt (d : Nat) (r : Dom) : (setDom d r s).flt = s.flt := rfl
@[simp] theorem setDom_evc (d : Nat) (r : Dom) : (setDom d r s).evc = s.evc := rfl
@[simp] theorem setDom_sweep (d : Nat) (r : Dom) : (setDom d r s).sweep = s.sweep := rfl
@[simp] theorem setDom_pair (d : Nat) (r : Dom) : (setDom d r s).pair = s.pair := rfl
@[simp] theorem setDom_fab (d : Nat) (r : Dom) : (setDom d r s).fab = s.fab := rfl
@[simp] theorem setDom_tam (d : Nat) (r : Dom) : (setDom d r s).tam = s.tam := rfl
@[simp] theorem setDom_cairn (d : Nat) (r : Dom) : (setDom d r s).cairn = s.cairn := rfl
@[simp] theorem setDom_life (d : Nat) (r : Dom) : (setDom d r s).life = s.life := rfl
@[simp] theorem setDom_nvm (d : Nat) (r : Dom) : (setDom d r s).nvm = s.nvm := rfl
@[simp] theorem setDom_dbg (d : Nat) (r : Dom) : (setDom d r s).dbg = s.dbg := rfl
@[simp] theorem setDom_world (d : Nat) (r : Dom) : (setDom d r s).world = s.world := rfl
@[simp] theorem setDom_acu (d : Nat) (r : Dom) : (setDom d r s).acu = s.acu := rfl
@[simp] theorem setDom_eth (d : Nat) (r : Dom) : (setDom d r s).eth = s.eth := rfl
@[simp] theorem setDom_tol (d : Nat) (r : Dom) : (setDom d r s).tol = s.tol := rfl
@[simp] theorem setDom_mgmt (d : Nat) (r : Dom) : (setDom d r s).mgmt = s.mgmt := rfl
@[simp] theorem setDom_hbm (d : Nat) (r : Dom) : (setDom d r s).hbm = s.hbm := rfl
@[simp] theorem setDom_board (d : Nat) (r : Dom) : (setDom d r s).board = s.board := rfl
@[simp] theorem setDom_regs (d : Nat) (r : Dom) : (setDom d r s).regs = s.regs := rfl
@[simp] theorem setDom_rwq (d : Nat) (r : Dom) : (setDom d r s).rwq = s.rwq := rfl
@[simp] theorem setDom_cnt (d : Nat) (r : Dom) : (setDom d r s).cnt = s.cnt := rfl
@[simp] theorem setDom_mem (d : Nat) (r : Dom) : (setDom d r s).mem = s.mem := rfl
@[simp] theorem setDom_out (d : Nat) (r : Dom) : (setDom d r s).out = s.out := rfl
@[simp] theorem setDom_freeCtr (d : Nat) (r : Dom) : (setDom d r s).freeCtr = s.freeCtr := rfl
@[simp] theorem setDom_pending (d : Nat) (r : Dom) : (setDom d r s).pending = s.pending := rfl

/-! ### setRw -/

@[simp] theorem setRw_sys (off v : Nat) : (setRw off v s).sys = s.sys := rfl
@[simp] theorem setRw_sched (off v : Nat) : (setRw off v s).sched = s.sched := rfl
@[simp] theorem setRw_units (off v : Nat) : (setRw off v s).units = s.units := rfl
@[simp] theorem setRw_qm (off v : Nat) : (setRw off v s).qm = s.qm := rfl
@[simp] theorem setRw_strm (off v : Nat) : (setRw off v s).strm = s.strm := rfl
@[simp] theorem setRw_vault (off v : Nat) : (setRw off v s).vault = s.vault := rfl
@[simp] theorem setRw_ent (off v : Nat) : (setRw off v s).ent = s.ent := rfl
@[simp] theorem setRw_quorum (off v : Nat) : (setRw off v s).quorum = s.quorum := rfl
@[simp] theorem setRw_flt (off v : Nat) : (setRw off v s).flt = s.flt := rfl
@[simp] theorem setRw_evc (off v : Nat) : (setRw off v s).evc = s.evc := rfl
@[simp] theorem setRw_sweep (off v : Nat) : (setRw off v s).sweep = s.sweep := rfl
@[simp] theorem setRw_pair (off v : Nat) : (setRw off v s).pair = s.pair := rfl
@[simp] theorem setRw_fab (off v : Nat) : (setRw off v s).fab = s.fab := rfl
@[simp] theorem setRw_tam (off v : Nat) : (setRw off v s).tam = s.tam := rfl
@[simp] theorem setRw_cairn (off v : Nat) : (setRw off v s).cairn = s.cairn := rfl
@[simp] theorem setRw_life (off v : Nat) : (setRw off v s).life = s.life := rfl
@[simp] theorem setRw_nvm (off v : Nat) : (setRw off v s).nvm = s.nvm := rfl
@[simp] theorem setRw_dbg (off v : Nat) : (setRw off v s).dbg = s.dbg := rfl
@[simp] theorem setRw_world (off v : Nat) : (setRw off v s).world = s.world := rfl
@[simp] theorem setRw_acu (off v : Nat) : (setRw off v s).acu = s.acu := rfl
@[simp] theorem setRw_eth (off v : Nat) : (setRw off v s).eth = s.eth := rfl
@[simp] theorem setRw_tol (off v : Nat) : (setRw off v s).tol = s.tol := rfl
@[simp] theorem setRw_clk (off v : Nat) : (setRw off v s).clk = s.clk := rfl
@[simp] theorem setRw_mgmt (off v : Nat) : (setRw off v s).mgmt = s.mgmt := rfl
@[simp] theorem setRw_hbm (off v : Nat) : (setRw off v s).hbm = s.hbm := rfl
@[simp] theorem setRw_board (off v : Nat) : (setRw off v s).board = s.board := rfl
@[simp] theorem setRw_rwq (off v : Nat) : (setRw off v s).rwq = s.rwq := rfl
@[simp] theorem setRw_cnt (off v : Nat) : (setRw off v s).cnt = s.cnt := rfl
@[simp] theorem setRw_mem (off v : Nat) : (setRw off v s).mem = s.mem := rfl
@[simp] theorem setRw_out (off v : Nat) : (setRw off v s).out = s.out := rfl
@[simp] theorem setRw_freeCtr (off v : Nat) : (setRw off v s).freeCtr = s.freeCtr := rfl
@[simp] theorem setRw_pending (off v : Nat) : (setRw off v s).pending = s.pending := rfl

/-! ### setStaged -/

@[simp] theorem setStaged_sys (off v : Nat) : (setStaged off v s).sys = s.sys := rfl
@[simp] theorem setStaged_sched (off v : Nat) : (setStaged off v s).sched = s.sched := rfl
@[simp] theorem setStaged_units (off v : Nat) : (setStaged off v s).units = s.units := rfl
@[simp] theorem setStaged_qm (off v : Nat) : (setStaged off v s).qm = s.qm := rfl
@[simp] theorem setStaged_strm (off v : Nat) : (setStaged off v s).strm = s.strm := rfl
@[simp] theorem setStaged_vault (off v : Nat) : (setStaged off v s).vault = s.vault := rfl
@[simp] theorem setStaged_ent (off v : Nat) : (setStaged off v s).ent = s.ent := rfl
@[simp] theorem setStaged_quorum (off v : Nat) : (setStaged off v s).quorum = s.quorum := rfl
@[simp] theorem setStaged_flt (off v : Nat) : (setStaged off v s).flt = s.flt := rfl
@[simp] theorem setStaged_evc (off v : Nat) : (setStaged off v s).evc = s.evc := rfl
@[simp] theorem setStaged_sweep (off v : Nat) : (setStaged off v s).sweep = s.sweep := rfl
@[simp] theorem setStaged_pair (off v : Nat) : (setStaged off v s).pair = s.pair := rfl
@[simp] theorem setStaged_fab (off v : Nat) : (setStaged off v s).fab = s.fab := rfl
@[simp] theorem setStaged_tam (off v : Nat) : (setStaged off v s).tam = s.tam := rfl
@[simp] theorem setStaged_cairn (off v : Nat) : (setStaged off v s).cairn = s.cairn := rfl
@[simp] theorem setStaged_life (off v : Nat) : (setStaged off v s).life = s.life := rfl
@[simp] theorem setStaged_nvm (off v : Nat) : (setStaged off v s).nvm = s.nvm := rfl
@[simp] theorem setStaged_dbg (off v : Nat) : (setStaged off v s).dbg = s.dbg := rfl
@[simp] theorem setStaged_world (off v : Nat) : (setStaged off v s).world = s.world := rfl
@[simp] theorem setStaged_acu (off v : Nat) : (setStaged off v s).acu = s.acu := rfl
@[simp] theorem setStaged_eth (off v : Nat) : (setStaged off v s).eth = s.eth := rfl
@[simp] theorem setStaged_tol (off v : Nat) : (setStaged off v s).tol = s.tol := rfl
@[simp] theorem setStaged_clk (off v : Nat) : (setStaged off v s).clk = s.clk := rfl
@[simp] theorem setStaged_mgmt (off v : Nat) : (setStaged off v s).mgmt = s.mgmt := rfl
@[simp] theorem setStaged_hbm (off v : Nat) : (setStaged off v s).hbm = s.hbm := rfl
@[simp] theorem setStaged_board (off v : Nat) : (setStaged off v s).board = s.board := rfl
@[simp] theorem setStaged_regs (off v : Nat) : (setStaged off v s).regs = s.regs := rfl
@[simp] theorem setStaged_cnt (off v : Nat) : (setStaged off v s).cnt = s.cnt := rfl
@[simp] theorem setStaged_mem (off v : Nat) : (setStaged off v s).mem = s.mem := rfl
@[simp] theorem setStaged_out (off v : Nat) : (setStaged off v s).out = s.out := rfl
@[simp] theorem setStaged_freeCtr (off v : Nat) : (setStaged off v s).freeCtr = s.freeCtr := rfl
@[simp] theorem setStaged_pending (off v : Nat) : (setStaged off v s).pending = s.pending := rfl

/-! ### emit -/

@[simp] theorem emit_sys (e : OutEv) : (emit e s).sys = s.sys := rfl
@[simp] theorem emit_sched (e : OutEv) : (emit e s).sched = s.sched := rfl
@[simp] theorem emit_units (e : OutEv) : (emit e s).units = s.units := rfl
@[simp] theorem emit_qm (e : OutEv) : (emit e s).qm = s.qm := rfl
@[simp] theorem emit_strm (e : OutEv) : (emit e s).strm = s.strm := rfl
@[simp] theorem emit_vault (e : OutEv) : (emit e s).vault = s.vault := rfl
@[simp] theorem emit_ent (e : OutEv) : (emit e s).ent = s.ent := rfl
@[simp] theorem emit_quorum (e : OutEv) : (emit e s).quorum = s.quorum := rfl
@[simp] theorem emit_flt (e : OutEv) : (emit e s).flt = s.flt := rfl
@[simp] theorem emit_evc (e : OutEv) : (emit e s).evc = s.evc := rfl
@[simp] theorem emit_sweep (e : OutEv) : (emit e s).sweep = s.sweep := rfl
@[simp] theorem emit_pair (e : OutEv) : (emit e s).pair = s.pair := rfl
@[simp] theorem emit_fab (e : OutEv) : (emit e s).fab = s.fab := rfl
@[simp] theorem emit_tam (e : OutEv) : (emit e s).tam = s.tam := rfl
@[simp] theorem emit_cairn (e : OutEv) : (emit e s).cairn = s.cairn := rfl
@[simp] theorem emit_life (e : OutEv) : (emit e s).life = s.life := rfl
@[simp] theorem emit_nvm (e : OutEv) : (emit e s).nvm = s.nvm := rfl
@[simp] theorem emit_dbg (e : OutEv) : (emit e s).dbg = s.dbg := rfl
@[simp] theorem emit_world (e : OutEv) : (emit e s).world = s.world := rfl
@[simp] theorem emit_acu (e : OutEv) : (emit e s).acu = s.acu := rfl
@[simp] theorem emit_eth (e : OutEv) : (emit e s).eth = s.eth := rfl
@[simp] theorem emit_tol (e : OutEv) : (emit e s).tol = s.tol := rfl
@[simp] theorem emit_clk (e : OutEv) : (emit e s).clk = s.clk := rfl
@[simp] theorem emit_mgmt (e : OutEv) : (emit e s).mgmt = s.mgmt := rfl
@[simp] theorem emit_hbm (e : OutEv) : (emit e s).hbm = s.hbm := rfl
@[simp] theorem emit_board (e : OutEv) : (emit e s).board = s.board := rfl
@[simp] theorem emit_regs (e : OutEv) : (emit e s).regs = s.regs := rfl
@[simp] theorem emit_rwq (e : OutEv) : (emit e s).rwq = s.rwq := rfl
@[simp] theorem emit_cnt (e : OutEv) : (emit e s).cnt = s.cnt := rfl
@[simp] theorem emit_mem (e : OutEv) : (emit e s).mem = s.mem := rfl
@[simp] theorem emit_freeCtr (e : OutEv) : (emit e s).freeCtr = s.freeCtr := rfl
@[simp] theorem emit_pending (e : OutEv) : (emit e s).pending = s.pending := rfl

/-! ### useBytes -/

@[simp] theorem useBytes_sys (n : Nat) : (useBytes n s).sys = s.sys := rfl
@[simp] theorem useBytes_sched (n : Nat) : (useBytes n s).sched = s.sched := rfl
@[simp] theorem useBytes_units (n : Nat) : (useBytes n s).units = s.units := rfl
@[simp] theorem useBytes_qm (n : Nat) : (useBytes n s).qm = s.qm := rfl
@[simp] theorem useBytes_strm (n : Nat) : (useBytes n s).strm = s.strm := rfl
@[simp] theorem useBytes_vault (n : Nat) : (useBytes n s).vault = s.vault := rfl
@[simp] theorem useBytes_ent (n : Nat) : (useBytes n s).ent = s.ent := rfl
@[simp] theorem useBytes_quorum (n : Nat) : (useBytes n s).quorum = s.quorum := rfl
@[simp] theorem useBytes_flt (n : Nat) : (useBytes n s).flt = s.flt := rfl
@[simp] theorem useBytes_evc (n : Nat) : (useBytes n s).evc = s.evc := rfl
@[simp] theorem useBytes_sweep (n : Nat) : (useBytes n s).sweep = s.sweep := rfl
@[simp] theorem useBytes_pair (n : Nat) : (useBytes n s).pair = s.pair := rfl
@[simp] theorem useBytes_fab (n : Nat) : (useBytes n s).fab = s.fab := rfl
@[simp] theorem useBytes_tam (n : Nat) : (useBytes n s).tam = s.tam := rfl
@[simp] theorem useBytes_cairn (n : Nat) : (useBytes n s).cairn = s.cairn := rfl
@[simp] theorem useBytes_life (n : Nat) : (useBytes n s).life = s.life := rfl
@[simp] theorem useBytes_nvm (n : Nat) : (useBytes n s).nvm = s.nvm := rfl
@[simp] theorem useBytes_dbg (n : Nat) : (useBytes n s).dbg = s.dbg := rfl
@[simp] theorem useBytes_world (n : Nat) : (useBytes n s).world = s.world := rfl
@[simp] theorem useBytes_acu (n : Nat) : (useBytes n s).acu = s.acu := rfl
@[simp] theorem useBytes_eth (n : Nat) : (useBytes n s).eth = s.eth := rfl
@[simp] theorem useBytes_tol (n : Nat) : (useBytes n s).tol = s.tol := rfl
@[simp] theorem useBytes_clk (n : Nat) : (useBytes n s).clk = s.clk := rfl
@[simp] theorem useBytes_mgmt (n : Nat) : (useBytes n s).mgmt = s.mgmt := rfl
@[simp] theorem useBytes_hbm (n : Nat) : (useBytes n s).hbm = s.hbm := rfl
@[simp] theorem useBytes_board (n : Nat) : (useBytes n s).board = s.board := rfl
@[simp] theorem useBytes_regs (n : Nat) : (useBytes n s).regs = s.regs := rfl
@[simp] theorem useBytes_rwq (n : Nat) : (useBytes n s).rwq = s.rwq := rfl
@[simp] theorem useBytes_cnt (n : Nat) : (useBytes n s).cnt = s.cnt := rfl
@[simp] theorem useBytes_mem (n : Nat) : (useBytes n s).mem = s.mem := rfl
@[simp] theorem useBytes_out (n : Nat) : (useBytes n s).out = s.out := rfl
@[simp] theorem useBytes_pending (n : Nat) : (useBytes n s).pending = s.pending := rfl

/-! ### setQueue -/

@[simp] theorem setQueue_sys (slot : Nat) (q : Queue) : (setQueue slot q s).sys = s.sys := rfl
@[simp] theorem setQueue_sched (slot : Nat) (q : Queue) : (setQueue slot q s).sched = s.sched := rfl
@[simp] theorem setQueue_units (slot : Nat) (q : Queue) : (setQueue slot q s).units = s.units := rfl
@[simp] theorem setQueue_strm (slot : Nat) (q : Queue) : (setQueue slot q s).strm = s.strm := rfl
@[simp] theorem setQueue_vault (slot : Nat) (q : Queue) : (setQueue slot q s).vault = s.vault := rfl
@[simp] theorem setQueue_ent (slot : Nat) (q : Queue) : (setQueue slot q s).ent = s.ent := rfl
@[simp] theorem setQueue_quorum (slot : Nat) (q : Queue) : (setQueue slot q s).quorum = s.quorum := rfl
@[simp] theorem setQueue_flt (slot : Nat) (q : Queue) : (setQueue slot q s).flt = s.flt := rfl
@[simp] theorem setQueue_evc (slot : Nat) (q : Queue) : (setQueue slot q s).evc = s.evc := rfl
@[simp] theorem setQueue_sweep (slot : Nat) (q : Queue) : (setQueue slot q s).sweep = s.sweep := rfl
@[simp] theorem setQueue_pair (slot : Nat) (q : Queue) : (setQueue slot q s).pair = s.pair := rfl
@[simp] theorem setQueue_fab (slot : Nat) (q : Queue) : (setQueue slot q s).fab = s.fab := rfl
@[simp] theorem setQueue_tam (slot : Nat) (q : Queue) : (setQueue slot q s).tam = s.tam := rfl
@[simp] theorem setQueue_cairn (slot : Nat) (q : Queue) : (setQueue slot q s).cairn = s.cairn := rfl
@[simp] theorem setQueue_life (slot : Nat) (q : Queue) : (setQueue slot q s).life = s.life := rfl
@[simp] theorem setQueue_nvm (slot : Nat) (q : Queue) : (setQueue slot q s).nvm = s.nvm := rfl
@[simp] theorem setQueue_dbg (slot : Nat) (q : Queue) : (setQueue slot q s).dbg = s.dbg := rfl
@[simp] theorem setQueue_world (slot : Nat) (q : Queue) : (setQueue slot q s).world = s.world := rfl
@[simp] theorem setQueue_acu (slot : Nat) (q : Queue) : (setQueue slot q s).acu = s.acu := rfl
@[simp] theorem setQueue_eth (slot : Nat) (q : Queue) : (setQueue slot q s).eth = s.eth := rfl
@[simp] theorem setQueue_tol (slot : Nat) (q : Queue) : (setQueue slot q s).tol = s.tol := rfl
@[simp] theorem setQueue_clk (slot : Nat) (q : Queue) : (setQueue slot q s).clk = s.clk := rfl
@[simp] theorem setQueue_mgmt (slot : Nat) (q : Queue) : (setQueue slot q s).mgmt = s.mgmt := rfl
@[simp] theorem setQueue_hbm (slot : Nat) (q : Queue) : (setQueue slot q s).hbm = s.hbm := rfl
@[simp] theorem setQueue_board (slot : Nat) (q : Queue) : (setQueue slot q s).board = s.board := rfl
@[simp] theorem setQueue_regs (slot : Nat) (q : Queue) : (setQueue slot q s).regs = s.regs := rfl
@[simp] theorem setQueue_rwq (slot : Nat) (q : Queue) : (setQueue slot q s).rwq = s.rwq := rfl
@[simp] theorem setQueue_cnt (slot : Nat) (q : Queue) : (setQueue slot q s).cnt = s.cnt := rfl
@[simp] theorem setQueue_mem (slot : Nat) (q : Queue) : (setQueue slot q s).mem = s.mem := rfl
@[simp] theorem setQueue_out (slot : Nat) (q : Queue) : (setQueue slot q s).out = s.out := rfl
@[simp] theorem setQueue_freeCtr (slot : Nat) (q : Queue) : (setQueue slot q s).freeCtr = s.freeCtr := rfl
@[simp] theorem setQueue_pending (slot : Nat) (q : Queue) : (setQueue slot q s).pending = s.pending := rfl

/-! ### setSess -/

@[simp] theorem setSess_sys (i : Nat) (x : Sess) : (setSess i x s).sys = s.sys := rfl
@[simp] theorem setSess_sched (i : Nat) (x : Sess) : (setSess i x s).sched = s.sched := rfl
@[simp] theorem setSess_units (i : Nat) (x : Sess) : (setSess i x s).units = s.units := rfl
@[simp] theorem setSess_qm (i : Nat) (x : Sess) : (setSess i x s).qm = s.qm := rfl
@[simp] theorem setSess_strm (i : Nat) (x : Sess) : (setSess i x s).strm = s.strm := rfl
@[simp] theorem setSess_vault (i : Nat) (x : Sess) : (setSess i x s).vault = s.vault := rfl
@[simp] theorem setSess_ent (i : Nat) (x : Sess) : (setSess i x s).ent = s.ent := rfl
@[simp] theorem setSess_quorum (i : Nat) (x : Sess) : (setSess i x s).quorum = s.quorum := rfl
@[simp] theorem setSess_flt (i : Nat) (x : Sess) : (setSess i x s).flt = s.flt := rfl
@[simp] theorem setSess_evc (i : Nat) (x : Sess) : (setSess i x s).evc = s.evc := rfl
@[simp] theorem setSess_sweep (i : Nat) (x : Sess) : (setSess i x s).sweep = s.sweep := rfl
@[simp] theorem setSess_pair (i : Nat) (x : Sess) : (setSess i x s).pair = s.pair := rfl
@[simp] theorem setSess_fab (i : Nat) (x : Sess) : (setSess i x s).fab = s.fab := rfl
@[simp] theorem setSess_tam (i : Nat) (x : Sess) : (setSess i x s).tam = s.tam := rfl
@[simp] theorem setSess_cairn (i : Nat) (x : Sess) : (setSess i x s).cairn = s.cairn := rfl
@[simp] theorem setSess_life (i : Nat) (x : Sess) : (setSess i x s).life = s.life := rfl
@[simp] theorem setSess_nvm (i : Nat) (x : Sess) : (setSess i x s).nvm = s.nvm := rfl
@[simp] theorem setSess_dbg (i : Nat) (x : Sess) : (setSess i x s).dbg = s.dbg := rfl
@[simp] theorem setSess_world (i : Nat) (x : Sess) : (setSess i x s).world = s.world := rfl
@[simp] theorem setSess_acu (i : Nat) (x : Sess) : (setSess i x s).acu = s.acu := rfl
@[simp] theorem setSess_eth (i : Nat) (x : Sess) : (setSess i x s).eth = s.eth := rfl
@[simp] theorem setSess_clk (i : Nat) (x : Sess) : (setSess i x s).clk = s.clk := rfl
@[simp] theorem setSess_mgmt (i : Nat) (x : Sess) : (setSess i x s).mgmt = s.mgmt := rfl
@[simp] theorem setSess_hbm (i : Nat) (x : Sess) : (setSess i x s).hbm = s.hbm := rfl
@[simp] theorem setSess_board (i : Nat) (x : Sess) : (setSess i x s).board = s.board := rfl
@[simp] theorem setSess_regs (i : Nat) (x : Sess) : (setSess i x s).regs = s.regs := rfl
@[simp] theorem setSess_rwq (i : Nat) (x : Sess) : (setSess i x s).rwq = s.rwq := rfl
@[simp] theorem setSess_cnt (i : Nat) (x : Sess) : (setSess i x s).cnt = s.cnt := rfl
@[simp] theorem setSess_mem (i : Nat) (x : Sess) : (setSess i x s).mem = s.mem := rfl
@[simp] theorem setSess_out (i : Nat) (x : Sess) : (setSess i x s).out = s.out := rfl
@[simp] theorem setSess_freeCtr (i : Nat) (x : Sess) : (setSess i x s).freeCtr = s.freeCtr := rfl
@[simp] theorem setSess_pending (i : Nat) (x : Sess) : (setSess i x s).pending = s.pending := rfl

/-! ### setEth -/

@[simp] theorem setEth_sys (p : Nat) (e : Eth) : (setEth p e s).sys = s.sys := rfl
@[simp] theorem setEth_sched (p : Nat) (e : Eth) : (setEth p e s).sched = s.sched := rfl
@[simp] theorem setEth_units (p : Nat) (e : Eth) : (setEth p e s).units = s.units := rfl
@[simp] theorem setEth_qm (p : Nat) (e : Eth) : (setEth p e s).qm = s.qm := rfl
@[simp] theorem setEth_strm (p : Nat) (e : Eth) : (setEth p e s).strm = s.strm := rfl
@[simp] theorem setEth_vault (p : Nat) (e : Eth) : (setEth p e s).vault = s.vault := rfl
@[simp] theorem setEth_ent (p : Nat) (e : Eth) : (setEth p e s).ent = s.ent := rfl
@[simp] theorem setEth_quorum (p : Nat) (e : Eth) : (setEth p e s).quorum = s.quorum := rfl
@[simp] theorem setEth_flt (p : Nat) (e : Eth) : (setEth p e s).flt = s.flt := rfl
@[simp] theorem setEth_evc (p : Nat) (e : Eth) : (setEth p e s).evc = s.evc := rfl
@[simp] theorem setEth_sweep (p : Nat) (e : Eth) : (setEth p e s).sweep = s.sweep := rfl
@[simp] theorem setEth_pair (p : Nat) (e : Eth) : (setEth p e s).pair = s.pair := rfl
@[simp] theorem setEth_fab (p : Nat) (e : Eth) : (setEth p e s).fab = s.fab := rfl
@[simp] theorem setEth_tam (p : Nat) (e : Eth) : (setEth p e s).tam = s.tam := rfl
@[simp] theorem setEth_cairn (p : Nat) (e : Eth) : (setEth p e s).cairn = s.cairn := rfl
@[simp] theorem setEth_life (p : Nat) (e : Eth) : (setEth p e s).life = s.life := rfl
@[simp] theorem setEth_nvm (p : Nat) (e : Eth) : (setEth p e s).nvm = s.nvm := rfl
@[simp] theorem setEth_dbg (p : Nat) (e : Eth) : (setEth p e s).dbg = s.dbg := rfl
@[simp] theorem setEth_world (p : Nat) (e : Eth) : (setEth p e s).world = s.world := rfl
@[simp] theorem setEth_acu (p : Nat) (e : Eth) : (setEth p e s).acu = s.acu := rfl
@[simp] theorem setEth_tol (p : Nat) (e : Eth) : (setEth p e s).tol = s.tol := rfl
@[simp] theorem setEth_clk (p : Nat) (e : Eth) : (setEth p e s).clk = s.clk := rfl
@[simp] theorem setEth_mgmt (p : Nat) (e : Eth) : (setEth p e s).mgmt = s.mgmt := rfl
@[simp] theorem setEth_hbm (p : Nat) (e : Eth) : (setEth p e s).hbm = s.hbm := rfl
@[simp] theorem setEth_board (p : Nat) (e : Eth) : (setEth p e s).board = s.board := rfl
@[simp] theorem setEth_regs (p : Nat) (e : Eth) : (setEth p e s).regs = s.regs := rfl
@[simp] theorem setEth_rwq (p : Nat) (e : Eth) : (setEth p e s).rwq = s.rwq := rfl
@[simp] theorem setEth_cnt (p : Nat) (e : Eth) : (setEth p e s).cnt = s.cnt := rfl
@[simp] theorem setEth_mem (p : Nat) (e : Eth) : (setEth p e s).mem = s.mem := rfl
@[simp] theorem setEth_out (p : Nat) (e : Eth) : (setEth p e s).out = s.out := rfl
@[simp] theorem setEth_freeCtr (p : Nat) (e : Eth) : (setEth p e s).freeCtr = s.freeCtr := rfl
@[simp] theorem setEth_pending (p : Nat) (e : Eth) : (setEth p e s).pending = s.pending := rfl

/-! ### setCore -/

@[simp] theorem setCore_sys (c : Nat) (r : Core) : (setCore c r s).sys = s.sys := rfl
@[simp] theorem setCore_sched (c : Nat) (r : Core) : (setCore c r s).sched = s.sched := rfl
@[simp] theorem setCore_units (c : Nat) (r : Core) : (setCore c r s).units = s.units := rfl
@[simp] theorem setCore_qm (c : Nat) (r : Core) : (setCore c r s).qm = s.qm := rfl
@[simp] theorem setCore_strm (c : Nat) (r : Core) : (setCore c r s).strm = s.strm := rfl
@[simp] theorem setCore_vault (c : Nat) (r : Core) : (setCore c r s).vault = s.vault := rfl
@[simp] theorem setCore_ent (c : Nat) (r : Core) : (setCore c r s).ent = s.ent := rfl
@[simp] theorem setCore_quorum (c : Nat) (r : Core) : (setCore c r s).quorum = s.quorum := rfl
@[simp] theorem setCore_flt (c : Nat) (r : Core) : (setCore c r s).flt = s.flt := rfl
@[simp] theorem setCore_evc (c : Nat) (r : Core) : (setCore c r s).evc = s.evc := rfl
@[simp] theorem setCore_sweep (c : Nat) (r : Core) : (setCore c r s).sweep = s.sweep := rfl
@[simp] theorem setCore_pair (c : Nat) (r : Core) : (setCore c r s).pair = s.pair := rfl
@[simp] theorem setCore_fab (c : Nat) (r : Core) : (setCore c r s).fab = s.fab := rfl
@[simp] theorem setCore_tam (c : Nat) (r : Core) : (setCore c r s).tam = s.tam := rfl
@[simp] theorem setCore_cairn (c : Nat) (r : Core) : (setCore c r s).cairn = s.cairn := rfl
@[simp] theorem setCore_life (c : Nat) (r : Core) : (setCore c r s).life = s.life := rfl
@[simp] theorem setCore_nvm (c : Nat) (r : Core) : (setCore c r s).nvm = s.nvm := rfl
@[simp] theorem setCore_dbg (c : Nat) (r : Core) : (setCore c r s).dbg = s.dbg := rfl
@[simp] theorem setCore_acu (c : Nat) (r : Core) : (setCore c r s).acu = s.acu := rfl
@[simp] theorem setCore_eth (c : Nat) (r : Core) : (setCore c r s).eth = s.eth := rfl
@[simp] theorem setCore_tol (c : Nat) (r : Core) : (setCore c r s).tol = s.tol := rfl
@[simp] theorem setCore_clk (c : Nat) (r : Core) : (setCore c r s).clk = s.clk := rfl
@[simp] theorem setCore_mgmt (c : Nat) (r : Core) : (setCore c r s).mgmt = s.mgmt := rfl
@[simp] theorem setCore_hbm (c : Nat) (r : Core) : (setCore c r s).hbm = s.hbm := rfl
@[simp] theorem setCore_board (c : Nat) (r : Core) : (setCore c r s).board = s.board := rfl
@[simp] theorem setCore_regs (c : Nat) (r : Core) : (setCore c r s).regs = s.regs := rfl
@[simp] theorem setCore_rwq (c : Nat) (r : Core) : (setCore c r s).rwq = s.rwq := rfl
@[simp] theorem setCore_cnt (c : Nat) (r : Core) : (setCore c r s).cnt = s.cnt := rfl
@[simp] theorem setCore_mem (c : Nat) (r : Core) : (setCore c r s).mem = s.mem := rfl
@[simp] theorem setCore_out (c : Nat) (r : Core) : (setCore c r s).out = s.out := rfl
@[simp] theorem setCore_freeCtr (c : Nat) (r : Core) : (setCore c r s).freeCtr = s.freeCtr := rfl
@[simp] theorem setCore_pending (c : Nat) (r : Core) : (setCore c r s).pending = s.pending := rfl

/-! ### setBank -/

@[simp] theorem setBank_sys (b : Nat) (k : Bank) : (setBank b k s).sys = s.sys := rfl
@[simp] theorem setBank_sched (b : Nat) (k : Bank) : (setBank b k s).sched = s.sched := rfl
@[simp] theorem setBank_units (b : Nat) (k : Bank) : (setBank b k s).units = s.units := rfl
@[simp] theorem setBank_qm (b : Nat) (k : Bank) : (setBank b k s).qm = s.qm := rfl
@[simp] theorem setBank_strm (b : Nat) (k : Bank) : (setBank b k s).strm = s.strm := rfl
@[simp] theorem setBank_vault (b : Nat) (k : Bank) : (setBank b k s).vault = s.vault := rfl
@[simp] theorem setBank_quorum (b : Nat) (k : Bank) : (setBank b k s).quorum = s.quorum := rfl
@[simp] theorem setBank_flt (b : Nat) (k : Bank) : (setBank b k s).flt = s.flt := rfl
@[simp] theorem setBank_evc (b : Nat) (k : Bank) : (setBank b k s).evc = s.evc := rfl
@[simp] theorem setBank_sweep (b : Nat) (k : Bank) : (setBank b k s).sweep = s.sweep := rfl
@[simp] theorem setBank_pair (b : Nat) (k : Bank) : (setBank b k s).pair = s.pair := rfl
@[simp] theorem setBank_fab (b : Nat) (k : Bank) : (setBank b k s).fab = s.fab := rfl
@[simp] theorem setBank_tam (b : Nat) (k : Bank) : (setBank b k s).tam = s.tam := rfl
@[simp] theorem setBank_cairn (b : Nat) (k : Bank) : (setBank b k s).cairn = s.cairn := rfl
@[simp] theorem setBank_life (b : Nat) (k : Bank) : (setBank b k s).life = s.life := rfl
@[simp] theorem setBank_nvm (b : Nat) (k : Bank) : (setBank b k s).nvm = s.nvm := rfl
@[simp] theorem setBank_dbg (b : Nat) (k : Bank) : (setBank b k s).dbg = s.dbg := rfl
@[simp] theorem setBank_world (b : Nat) (k : Bank) : (setBank b k s).world = s.world := rfl
@[simp] theorem setBank_acu (b : Nat) (k : Bank) : (setBank b k s).acu = s.acu := rfl
@[simp] theorem setBank_eth (b : Nat) (k : Bank) : (setBank b k s).eth = s.eth := rfl
@[simp] theorem setBank_tol (b : Nat) (k : Bank) : (setBank b k s).tol = s.tol := rfl
@[simp] theorem setBank_clk (b : Nat) (k : Bank) : (setBank b k s).clk = s.clk := rfl
@[simp] theorem setBank_mgmt (b : Nat) (k : Bank) : (setBank b k s).mgmt = s.mgmt := rfl
@[simp] theorem setBank_hbm (b : Nat) (k : Bank) : (setBank b k s).hbm = s.hbm := rfl
@[simp] theorem setBank_board (b : Nat) (k : Bank) : (setBank b k s).board = s.board := rfl
@[simp] theorem setBank_regs (b : Nat) (k : Bank) : (setBank b k s).regs = s.regs := rfl
@[simp] theorem setBank_rwq (b : Nat) (k : Bank) : (setBank b k s).rwq = s.rwq := rfl
@[simp] theorem setBank_cnt (b : Nat) (k : Bank) : (setBank b k s).cnt = s.cnt := rfl
@[simp] theorem setBank_mem (b : Nat) (k : Bank) : (setBank b k s).mem = s.mem := rfl
@[simp] theorem setBank_out (b : Nat) (k : Bank) : (setBank b k s).out = s.out := rfl
@[simp] theorem setBank_freeCtr (b : Nat) (k : Bank) : (setBank b k s).freeCtr = s.freeCtr := rfl
@[simp] theorem setBank_pending (b : Nat) (k : Bank) : (setBank b k s).pending = s.pending := rfl

/-! ### setFn -/

@[simp] theorem setFn_sys (n : Nat) (f : TenantFn) : (setFn n f s).sys = s.sys := rfl
@[simp] theorem setFn_sched (n : Nat) (f : TenantFn) : (setFn n f s).sched = s.sched := rfl
@[simp] theorem setFn_units (n : Nat) (f : TenantFn) : (setFn n f s).units = s.units := rfl
@[simp] theorem setFn_qm (n : Nat) (f : TenantFn) : (setFn n f s).qm = s.qm := rfl
@[simp] theorem setFn_strm (n : Nat) (f : TenantFn) : (setFn n f s).strm = s.strm := rfl
@[simp] theorem setFn_vault (n : Nat) (f : TenantFn) : (setFn n f s).vault = s.vault := rfl
@[simp] theorem setFn_ent (n : Nat) (f : TenantFn) : (setFn n f s).ent = s.ent := rfl
@[simp] theorem setFn_quorum (n : Nat) (f : TenantFn) : (setFn n f s).quorum = s.quorum := rfl
@[simp] theorem setFn_flt (n : Nat) (f : TenantFn) : (setFn n f s).flt = s.flt := rfl
@[simp] theorem setFn_evc (n : Nat) (f : TenantFn) : (setFn n f s).evc = s.evc := rfl
@[simp] theorem setFn_sweep (n : Nat) (f : TenantFn) : (setFn n f s).sweep = s.sweep := rfl
@[simp] theorem setFn_pair (n : Nat) (f : TenantFn) : (setFn n f s).pair = s.pair := rfl
@[simp] theorem setFn_fab (n : Nat) (f : TenantFn) : (setFn n f s).fab = s.fab := rfl
@[simp] theorem setFn_tam (n : Nat) (f : TenantFn) : (setFn n f s).tam = s.tam := rfl
@[simp] theorem setFn_cairn (n : Nat) (f : TenantFn) : (setFn n f s).cairn = s.cairn := rfl
@[simp] theorem setFn_life (n : Nat) (f : TenantFn) : (setFn n f s).life = s.life := rfl
@[simp] theorem setFn_nvm (n : Nat) (f : TenantFn) : (setFn n f s).nvm = s.nvm := rfl
@[simp] theorem setFn_dbg (n : Nat) (f : TenantFn) : (setFn n f s).dbg = s.dbg := rfl
@[simp] theorem setFn_acu (n : Nat) (f : TenantFn) : (setFn n f s).acu = s.acu := rfl
@[simp] theorem setFn_eth (n : Nat) (f : TenantFn) : (setFn n f s).eth = s.eth := rfl
@[simp] theorem setFn_tol (n : Nat) (f : TenantFn) : (setFn n f s).tol = s.tol := rfl
@[simp] theorem setFn_clk (n : Nat) (f : TenantFn) : (setFn n f s).clk = s.clk := rfl
@[simp] theorem setFn_mgmt (n : Nat) (f : TenantFn) : (setFn n f s).mgmt = s.mgmt := rfl
@[simp] theorem setFn_hbm (n : Nat) (f : TenantFn) : (setFn n f s).hbm = s.hbm := rfl
@[simp] theorem setFn_board (n : Nat) (f : TenantFn) : (setFn n f s).board = s.board := rfl
@[simp] theorem setFn_regs (n : Nat) (f : TenantFn) : (setFn n f s).regs = s.regs := rfl
@[simp] theorem setFn_rwq (n : Nat) (f : TenantFn) : (setFn n f s).rwq = s.rwq := rfl
@[simp] theorem setFn_cnt (n : Nat) (f : TenantFn) : (setFn n f s).cnt = s.cnt := rfl
@[simp] theorem setFn_mem (n : Nat) (f : TenantFn) : (setFn n f s).mem = s.mem := rfl
@[simp] theorem setFn_out (n : Nat) (f : TenantFn) : (setFn n f s).out = s.out := rfl
@[simp] theorem setFn_freeCtr (n : Nat) (f : TenantFn) : (setFn n f s).freeCtr = s.freeCtr := rfl
@[simp] theorem setFn_pending (n : Nat) (f : TenantFn) : (setFn n f s).pending = s.pending := rfl

/-! ### setAcuRec -/

@[simp] theorem setAcuRec_sys (n : Nat) (r : AcuRec) : (setAcuRec n r s).sys = s.sys := rfl
@[simp] theorem setAcuRec_sched (n : Nat) (r : AcuRec) : (setAcuRec n r s).sched = s.sched := rfl
@[simp] theorem setAcuRec_units (n : Nat) (r : AcuRec) : (setAcuRec n r s).units = s.units := rfl
@[simp] theorem setAcuRec_qm (n : Nat) (r : AcuRec) : (setAcuRec n r s).qm = s.qm := rfl
@[simp] theorem setAcuRec_strm (n : Nat) (r : AcuRec) : (setAcuRec n r s).strm = s.strm := rfl
@[simp] theorem setAcuRec_vault (n : Nat) (r : AcuRec) : (setAcuRec n r s).vault = s.vault := rfl
@[simp] theorem setAcuRec_ent (n : Nat) (r : AcuRec) : (setAcuRec n r s).ent = s.ent := rfl
@[simp] theorem setAcuRec_quorum (n : Nat) (r : AcuRec) : (setAcuRec n r s).quorum = s.quorum := rfl
@[simp] theorem setAcuRec_flt (n : Nat) (r : AcuRec) : (setAcuRec n r s).flt = s.flt := rfl
@[simp] theorem setAcuRec_evc (n : Nat) (r : AcuRec) : (setAcuRec n r s).evc = s.evc := rfl
@[simp] theorem setAcuRec_sweep (n : Nat) (r : AcuRec) : (setAcuRec n r s).sweep = s.sweep := rfl
@[simp] theorem setAcuRec_pair (n : Nat) (r : AcuRec) : (setAcuRec n r s).pair = s.pair := rfl
@[simp] theorem setAcuRec_fab (n : Nat) (r : AcuRec) : (setAcuRec n r s).fab = s.fab := rfl
@[simp] theorem setAcuRec_tam (n : Nat) (r : AcuRec) : (setAcuRec n r s).tam = s.tam := rfl
@[simp] theorem setAcuRec_cairn (n : Nat) (r : AcuRec) : (setAcuRec n r s).cairn = s.cairn := rfl
@[simp] theorem setAcuRec_life (n : Nat) (r : AcuRec) : (setAcuRec n r s).life = s.life := rfl
@[simp] theorem setAcuRec_nvm (n : Nat) (r : AcuRec) : (setAcuRec n r s).nvm = s.nvm := rfl
@[simp] theorem setAcuRec_dbg (n : Nat) (r : AcuRec) : (setAcuRec n r s).dbg = s.dbg := rfl
@[simp] theorem setAcuRec_world (n : Nat) (r : AcuRec) : (setAcuRec n r s).world = s.world := rfl
@[simp] theorem setAcuRec_eth (n : Nat) (r : AcuRec) : (setAcuRec n r s).eth = s.eth := rfl
@[simp] theorem setAcuRec_tol (n : Nat) (r : AcuRec) : (setAcuRec n r s).tol = s.tol := rfl
@[simp] theorem setAcuRec_clk (n : Nat) (r : AcuRec) : (setAcuRec n r s).clk = s.clk := rfl
@[simp] theorem setAcuRec_mgmt (n : Nat) (r : AcuRec) : (setAcuRec n r s).mgmt = s.mgmt := rfl
@[simp] theorem setAcuRec_hbm (n : Nat) (r : AcuRec) : (setAcuRec n r s).hbm = s.hbm := rfl
@[simp] theorem setAcuRec_board (n : Nat) (r : AcuRec) : (setAcuRec n r s).board = s.board := rfl
@[simp] theorem setAcuRec_regs (n : Nat) (r : AcuRec) : (setAcuRec n r s).regs = s.regs := rfl
@[simp] theorem setAcuRec_rwq (n : Nat) (r : AcuRec) : (setAcuRec n r s).rwq = s.rwq := rfl
@[simp] theorem setAcuRec_cnt (n : Nat) (r : AcuRec) : (setAcuRec n r s).cnt = s.cnt := rfl
@[simp] theorem setAcuRec_mem (n : Nat) (r : AcuRec) : (setAcuRec n r s).mem = s.mem := rfl
@[simp] theorem setAcuRec_out (n : Nat) (r : AcuRec) : (setAcuRec n r s).out = s.out := rfl
@[simp] theorem setAcuRec_freeCtr (n : Nat) (r : AcuRec) : (setAcuRec n r s).freeCtr = s.freeCtr := rfl
@[simp] theorem setAcuRec_pending (n : Nat) (r : AcuRec) : (setAcuRec n r s).pending = s.pending := rfl

/-! ### cairnPlace -/

@[simp] theorem cairnPlace_sys (type : Nat) (b : BitVec 32) : (cairnPlace type b s).sys = s.sys := rfl
@[simp] theorem cairnPlace_sched (type : Nat) (b : BitVec 32) : (cairnPlace type b s).sched = s.sched := rfl
@[simp] theorem cairnPlace_units (type : Nat) (b : BitVec 32) : (cairnPlace type b s).units = s.units := rfl
@[simp] theorem cairnPlace_qm (type : Nat) (b : BitVec 32) : (cairnPlace type b s).qm = s.qm := rfl
@[simp] theorem cairnPlace_strm (type : Nat) (b : BitVec 32) : (cairnPlace type b s).strm = s.strm := rfl
@[simp] theorem cairnPlace_vault (type : Nat) (b : BitVec 32) : (cairnPlace type b s).vault = s.vault := rfl
@[simp] theorem cairnPlace_ent (type : Nat) (b : BitVec 32) : (cairnPlace type b s).ent = s.ent := rfl
@[simp] theorem cairnPlace_quorum (type : Nat) (b : BitVec 32) : (cairnPlace type b s).quorum = s.quorum := rfl
@[simp] theorem cairnPlace_flt (type : Nat) (b : BitVec 32) : (cairnPlace type b s).flt = s.flt := rfl
@[simp] theorem cairnPlace_evc (type : Nat) (b : BitVec 32) : (cairnPlace type b s).evc = s.evc := rfl
@[simp] theorem cairnPlace_sweep (type : Nat) (b : BitVec 32) : (cairnPlace type b s).sweep = s.sweep := rfl
@[simp] theorem cairnPlace_pair (type : Nat) (b : BitVec 32) : (cairnPlace type b s).pair = s.pair := rfl
@[simp] theorem cairnPlace_fab (type : Nat) (b : BitVec 32) : (cairnPlace type b s).fab = s.fab := rfl
@[simp] theorem cairnPlace_tam (type : Nat) (b : BitVec 32) : (cairnPlace type b s).tam = s.tam := rfl
@[simp] theorem cairnPlace_life (type : Nat) (b : BitVec 32) : (cairnPlace type b s).life = s.life := rfl
@[simp] theorem cairnPlace_nvm (type : Nat) (b : BitVec 32) : (cairnPlace type b s).nvm = s.nvm := rfl
@[simp] theorem cairnPlace_dbg (type : Nat) (b : BitVec 32) : (cairnPlace type b s).dbg = s.dbg := rfl
@[simp] theorem cairnPlace_world (type : Nat) (b : BitVec 32) : (cairnPlace type b s).world = s.world := rfl
@[simp] theorem cairnPlace_acu (type : Nat) (b : BitVec 32) : (cairnPlace type b s).acu = s.acu := rfl
@[simp] theorem cairnPlace_eth (type : Nat) (b : BitVec 32) : (cairnPlace type b s).eth = s.eth := rfl
@[simp] theorem cairnPlace_tol (type : Nat) (b : BitVec 32) : (cairnPlace type b s).tol = s.tol := rfl
@[simp] theorem cairnPlace_clk (type : Nat) (b : BitVec 32) : (cairnPlace type b s).clk = s.clk := rfl
@[simp] theorem cairnPlace_mgmt (type : Nat) (b : BitVec 32) : (cairnPlace type b s).mgmt = s.mgmt := rfl
@[simp] theorem cairnPlace_hbm (type : Nat) (b : BitVec 32) : (cairnPlace type b s).hbm = s.hbm := rfl
@[simp] theorem cairnPlace_board (type : Nat) (b : BitVec 32) : (cairnPlace type b s).board = s.board := rfl
@[simp] theorem cairnPlace_regs (type : Nat) (b : BitVec 32) : (cairnPlace type b s).regs = s.regs := rfl
@[simp] theorem cairnPlace_rwq (type : Nat) (b : BitVec 32) : (cairnPlace type b s).rwq = s.rwq := rfl
@[simp] theorem cairnPlace_cnt (type : Nat) (b : BitVec 32) : (cairnPlace type b s).cnt = s.cnt := rfl
@[simp] theorem cairnPlace_mem (type : Nat) (b : BitVec 32) : (cairnPlace type b s).mem = s.mem := rfl
@[simp] theorem cairnPlace_out (type : Nat) (b : BitVec 32) : (cairnPlace type b s).out = s.out := rfl
@[simp] theorem cairnPlace_freeCtr (type : Nat) (b : BitVec 32) : (cairnPlace type b s).freeCtr = s.freeCtr := rfl
@[simp] theorem cairnPlace_pending (type : Nat) (b : BitVec 32) : (cairnPlace type b s).pending = s.pending := rfl

/-! ### loadIr -/

@[simp] theorem loadIr_sys (code : Byte) : (loadIr code s).sys = s.sys := rfl
@[simp] theorem loadIr_sched (code : Byte) : (loadIr code s).sched = s.sched := rfl
@[simp] theorem loadIr_units (code : Byte) : (loadIr code s).units = s.units := rfl
@[simp] theorem loadIr_qm (code : Byte) : (loadIr code s).qm = s.qm := rfl
@[simp] theorem loadIr_strm (code : Byte) : (loadIr code s).strm = s.strm := rfl
@[simp] theorem loadIr_vault (code : Byte) : (loadIr code s).vault = s.vault := rfl
@[simp] theorem loadIr_ent (code : Byte) : (loadIr code s).ent = s.ent := rfl
@[simp] theorem loadIr_quorum (code : Byte) : (loadIr code s).quorum = s.quorum := rfl
@[simp] theorem loadIr_flt (code : Byte) : (loadIr code s).flt = s.flt := rfl
@[simp] theorem loadIr_evc (code : Byte) : (loadIr code s).evc = s.evc := rfl
@[simp] theorem loadIr_sweep (code : Byte) : (loadIr code s).sweep = s.sweep := rfl
@[simp] theorem loadIr_pair (code : Byte) : (loadIr code s).pair = s.pair := rfl
@[simp] theorem loadIr_fab (code : Byte) : (loadIr code s).fab = s.fab := rfl
@[simp] theorem loadIr_tam (code : Byte) : (loadIr code s).tam = s.tam := rfl
@[simp] theorem loadIr_cairn (code : Byte) : (loadIr code s).cairn = s.cairn := rfl
@[simp] theorem loadIr_life (code : Byte) : (loadIr code s).life = s.life := rfl
@[simp] theorem loadIr_nvm (code : Byte) : (loadIr code s).nvm = s.nvm := rfl
@[simp] theorem loadIr_world (code : Byte) : (loadIr code s).world = s.world := rfl
@[simp] theorem loadIr_acu (code : Byte) : (loadIr code s).acu = s.acu := rfl
@[simp] theorem loadIr_eth (code : Byte) : (loadIr code s).eth = s.eth := rfl
@[simp] theorem loadIr_tol (code : Byte) : (loadIr code s).tol = s.tol := rfl
@[simp] theorem loadIr_clk (code : Byte) : (loadIr code s).clk = s.clk := rfl
@[simp] theorem loadIr_mgmt (code : Byte) : (loadIr code s).mgmt = s.mgmt := rfl
@[simp] theorem loadIr_hbm (code : Byte) : (loadIr code s).hbm = s.hbm := rfl
@[simp] theorem loadIr_board (code : Byte) : (loadIr code s).board = s.board := rfl
@[simp] theorem loadIr_regs (code : Byte) : (loadIr code s).regs = s.regs := rfl
@[simp] theorem loadIr_rwq (code : Byte) : (loadIr code s).rwq = s.rwq := rfl
@[simp] theorem loadIr_cnt (code : Byte) : (loadIr code s).cnt = s.cnt := rfl
@[simp] theorem loadIr_mem (code : Byte) : (loadIr code s).mem = s.mem := rfl
@[simp] theorem loadIr_out (code : Byte) : (loadIr code s).out = s.out := rfl
@[simp] theorem loadIr_freeCtr (code : Byte) : (loadIr code s).freeCtr = s.freeCtr := rfl
@[simp] theorem loadIr_pending (code : Byte) : (loadIr code s).pending = s.pending := rfl

/-! ### putObj -/

@[simp] theorem putObj_sys (slot : Nat) (o : KeyObj) : (putObj slot o s).sys = s.sys := rfl
@[simp] theorem putObj_sched (slot : Nat) (o : KeyObj) : (putObj slot o s).sched = s.sched := rfl
@[simp] theorem putObj_units (slot : Nat) (o : KeyObj) : (putObj slot o s).units = s.units := rfl
@[simp] theorem putObj_qm (slot : Nat) (o : KeyObj) : (putObj slot o s).qm = s.qm := rfl
@[simp] theorem putObj_strm (slot : Nat) (o : KeyObj) : (putObj slot o s).strm = s.strm := rfl
@[simp] theorem putObj_ent (slot : Nat) (o : KeyObj) : (putObj slot o s).ent = s.ent := rfl
@[simp] theorem putObj_quorum (slot : Nat) (o : KeyObj) : (putObj slot o s).quorum = s.quorum := rfl
@[simp] theorem putObj_flt (slot : Nat) (o : KeyObj) : (putObj slot o s).flt = s.flt := rfl
@[simp] theorem putObj_evc (slot : Nat) (o : KeyObj) : (putObj slot o s).evc = s.evc := rfl
@[simp] theorem putObj_sweep (slot : Nat) (o : KeyObj) : (putObj slot o s).sweep = s.sweep := rfl
@[simp] theorem putObj_pair (slot : Nat) (o : KeyObj) : (putObj slot o s).pair = s.pair := rfl
@[simp] theorem putObj_fab (slot : Nat) (o : KeyObj) : (putObj slot o s).fab = s.fab := rfl
@[simp] theorem putObj_tam (slot : Nat) (o : KeyObj) : (putObj slot o s).tam = s.tam := rfl
@[simp] theorem putObj_cairn (slot : Nat) (o : KeyObj) : (putObj slot o s).cairn = s.cairn := rfl
@[simp] theorem putObj_life (slot : Nat) (o : KeyObj) : (putObj slot o s).life = s.life := rfl
@[simp] theorem putObj_nvm (slot : Nat) (o : KeyObj) : (putObj slot o s).nvm = s.nvm := rfl
@[simp] theorem putObj_dbg (slot : Nat) (o : KeyObj) : (putObj slot o s).dbg = s.dbg := rfl
@[simp] theorem putObj_world (slot : Nat) (o : KeyObj) : (putObj slot o s).world = s.world := rfl
@[simp] theorem putObj_acu (slot : Nat) (o : KeyObj) : (putObj slot o s).acu = s.acu := rfl
@[simp] theorem putObj_eth (slot : Nat) (o : KeyObj) : (putObj slot o s).eth = s.eth := rfl
@[simp] theorem putObj_tol (slot : Nat) (o : KeyObj) : (putObj slot o s).tol = s.tol := rfl
@[simp] theorem putObj_clk (slot : Nat) (o : KeyObj) : (putObj slot o s).clk = s.clk := rfl
@[simp] theorem putObj_mgmt (slot : Nat) (o : KeyObj) : (putObj slot o s).mgmt = s.mgmt := rfl
@[simp] theorem putObj_hbm (slot : Nat) (o : KeyObj) : (putObj slot o s).hbm = s.hbm := rfl
@[simp] theorem putObj_board (slot : Nat) (o : KeyObj) : (putObj slot o s).board = s.board := rfl
@[simp] theorem putObj_regs (slot : Nat) (o : KeyObj) : (putObj slot o s).regs = s.regs := rfl
@[simp] theorem putObj_rwq (slot : Nat) (o : KeyObj) : (putObj slot o s).rwq = s.rwq := rfl
@[simp] theorem putObj_cnt (slot : Nat) (o : KeyObj) : (putObj slot o s).cnt = s.cnt := rfl
@[simp] theorem putObj_mem (slot : Nat) (o : KeyObj) : (putObj slot o s).mem = s.mem := rfl
@[simp] theorem putObj_out (slot : Nat) (o : KeyObj) : (putObj slot o s).out = s.out := rfl
@[simp] theorem putObj_freeCtr (slot : Nat) (o : KeyObj) : (putObj slot o s).freeCtr = s.freeCtr := rfl
@[simp] theorem putObj_pending (slot : Nat) (o : KeyObj) : (putObj slot o s).pending = s.pending := rfl

/-! ### requestDraw -/

@[simp] theorem requestDraw_sys (d : Draw) (n : Nat) : (requestDraw d n s).sys = s.sys := rfl
@[simp] theorem requestDraw_sched (d : Draw) (n : Nat) : (requestDraw d n s).sched = s.sched := rfl
@[simp] theorem requestDraw_units (d : Draw) (n : Nat) : (requestDraw d n s).units = s.units := rfl
@[simp] theorem requestDraw_qm (d : Draw) (n : Nat) : (requestDraw d n s).qm = s.qm := rfl
@[simp] theorem requestDraw_strm (d : Draw) (n : Nat) : (requestDraw d n s).strm = s.strm := rfl
@[simp] theorem requestDraw_vault (d : Draw) (n : Nat) : (requestDraw d n s).vault = s.vault := rfl
@[simp] theorem requestDraw_quorum (d : Draw) (n : Nat) : (requestDraw d n s).quorum = s.quorum := rfl
@[simp] theorem requestDraw_flt (d : Draw) (n : Nat) : (requestDraw d n s).flt = s.flt := rfl
@[simp] theorem requestDraw_evc (d : Draw) (n : Nat) : (requestDraw d n s).evc = s.evc := rfl
@[simp] theorem requestDraw_sweep (d : Draw) (n : Nat) : (requestDraw d n s).sweep = s.sweep := rfl
@[simp] theorem requestDraw_pair (d : Draw) (n : Nat) : (requestDraw d n s).pair = s.pair := rfl
@[simp] theorem requestDraw_fab (d : Draw) (n : Nat) : (requestDraw d n s).fab = s.fab := rfl
@[simp] theorem requestDraw_tam (d : Draw) (n : Nat) : (requestDraw d n s).tam = s.tam := rfl
@[simp] theorem requestDraw_cairn (d : Draw) (n : Nat) : (requestDraw d n s).cairn = s.cairn := rfl
@[simp] theorem requestDraw_life (d : Draw) (n : Nat) : (requestDraw d n s).life = s.life := rfl
@[simp] theorem requestDraw_nvm (d : Draw) (n : Nat) : (requestDraw d n s).nvm = s.nvm := rfl
@[simp] theorem requestDraw_dbg (d : Draw) (n : Nat) : (requestDraw d n s).dbg = s.dbg := rfl
@[simp] theorem requestDraw_world (d : Draw) (n : Nat) : (requestDraw d n s).world = s.world := rfl
@[simp] theorem requestDraw_acu (d : Draw) (n : Nat) : (requestDraw d n s).acu = s.acu := rfl
@[simp] theorem requestDraw_eth (d : Draw) (n : Nat) : (requestDraw d n s).eth = s.eth := rfl
@[simp] theorem requestDraw_tol (d : Draw) (n : Nat) : (requestDraw d n s).tol = s.tol := rfl
@[simp] theorem requestDraw_clk (d : Draw) (n : Nat) : (requestDraw d n s).clk = s.clk := rfl
@[simp] theorem requestDraw_mgmt (d : Draw) (n : Nat) : (requestDraw d n s).mgmt = s.mgmt := rfl
@[simp] theorem requestDraw_hbm (d : Draw) (n : Nat) : (requestDraw d n s).hbm = s.hbm := rfl
@[simp] theorem requestDraw_board (d : Draw) (n : Nat) : (requestDraw d n s).board = s.board := rfl
@[simp] theorem requestDraw_regs (d : Draw) (n : Nat) : (requestDraw d n s).regs = s.regs := rfl
@[simp] theorem requestDraw_rwq (d : Draw) (n : Nat) : (requestDraw d n s).rwq = s.rwq := rfl
@[simp] theorem requestDraw_cnt (d : Draw) (n : Nat) : (requestDraw d n s).cnt = s.cnt := rfl
@[simp] theorem requestDraw_mem (d : Draw) (n : Nat) : (requestDraw d n s).mem = s.mem := rfl
@[simp] theorem requestDraw_out (d : Draw) (n : Nat) : (requestDraw d n s).out = s.out := rfl
@[simp] theorem requestDraw_freeCtr (d : Draw) (n : Nat) : (requestDraw d n s).freeCtr = s.freeCtr := rfl
@[simp] theorem requestDraw_pending (d : Draw) (n : Nat) : (requestDraw d n s).pending = s.pending := rfl

/-! ### bump -/

@[simp] theorem bump_sys (b i k : Nat) : (bump b i k s).sys = s.sys := by unfold bump; split <;> rfl
@[simp] theorem bump_sched (b i k : Nat) : (bump b i k s).sched = s.sched := by unfold bump; split <;> rfl
@[simp] theorem bump_units (b i k : Nat) : (bump b i k s).units = s.units := by unfold bump; split <;> rfl
@[simp] theorem bump_qm (b i k : Nat) : (bump b i k s).qm = s.qm := by unfold bump; split <;> rfl
@[simp] theorem bump_strm (b i k : Nat) : (bump b i k s).strm = s.strm := by unfold bump; split <;> rfl
@[simp] theorem bump_vault (b i k : Nat) : (bump b i k s).vault = s.vault := by unfold bump; split <;> rfl
@[simp] theorem bump_ent (b i k : Nat) : (bump b i k s).ent = s.ent := by unfold bump; split <;> rfl
@[simp] theorem bump_quorum (b i k : Nat) : (bump b i k s).quorum = s.quorum := by unfold bump; split <;> rfl
@[simp] theorem bump_flt (b i k : Nat) : (bump b i k s).flt = s.flt := by unfold bump; split <;> rfl
@[simp] theorem bump_evc (b i k : Nat) : (bump b i k s).evc = s.evc := by unfold bump; split <;> rfl
@[simp] theorem bump_sweep (b i k : Nat) : (bump b i k s).sweep = s.sweep := by unfold bump; split <;> rfl
@[simp] theorem bump_pair (b i k : Nat) : (bump b i k s).pair = s.pair := by unfold bump; split <;> rfl
@[simp] theorem bump_fab (b i k : Nat) : (bump b i k s).fab = s.fab := by unfold bump; split <;> rfl
@[simp] theorem bump_tam (b i k : Nat) : (bump b i k s).tam = s.tam := by unfold bump; split <;> rfl
@[simp] theorem bump_cairn (b i k : Nat) : (bump b i k s).cairn = s.cairn := by unfold bump; split <;> rfl
@[simp] theorem bump_life (b i k : Nat) : (bump b i k s).life = s.life := by unfold bump; split <;> rfl
@[simp] theorem bump_nvm (b i k : Nat) : (bump b i k s).nvm = s.nvm := by unfold bump; split <;> rfl
@[simp] theorem bump_dbg (b i k : Nat) : (bump b i k s).dbg = s.dbg := by unfold bump; split <;> rfl
@[simp] theorem bump_world (b i k : Nat) : (bump b i k s).world = s.world := by unfold bump; split <;> rfl
@[simp] theorem bump_acu (b i k : Nat) : (bump b i k s).acu = s.acu := by unfold bump; split <;> rfl
@[simp] theorem bump_eth (b i k : Nat) : (bump b i k s).eth = s.eth := by unfold bump; split <;> rfl
@[simp] theorem bump_tol (b i k : Nat) : (bump b i k s).tol = s.tol := by unfold bump; split <;> rfl
@[simp] theorem bump_clk (b i k : Nat) : (bump b i k s).clk = s.clk := by unfold bump; split <;> rfl
@[simp] theorem bump_mgmt (b i k : Nat) : (bump b i k s).mgmt = s.mgmt := by unfold bump; split <;> rfl
@[simp] theorem bump_hbm (b i k : Nat) : (bump b i k s).hbm = s.hbm := by unfold bump; split <;> rfl
@[simp] theorem bump_board (b i k : Nat) : (bump b i k s).board = s.board := by unfold bump; split <;> rfl
@[simp] theorem bump_regs (b i k : Nat) : (bump b i k s).regs = s.regs := by unfold bump; split <;> rfl
@[simp] theorem bump_rwq (b i k : Nat) : (bump b i k s).rwq = s.rwq := by unfold bump; split <;> rfl
@[simp] theorem bump_mem (b i k : Nat) : (bump b i k s).mem = s.mem := by unfold bump; split <;> rfl
@[simp] theorem bump_out (b i k : Nat) : (bump b i k s).out = s.out := by unfold bump; split <;> rfl
@[simp] theorem bump_freeCtr (b i k : Nat) : (bump b i k s).freeCtr = s.freeCtr := by unfold bump; split <;> rfl
@[simp] theorem bump_pending (b i k : Nat) : (bump b i k s).pending = s.pending := by unfold bump; split <;> rfl

/-! ### evcAdd -/

@[simp] theorem evcAdd_sys (src k : Nat) : (evcAdd src k s).sys = s.sys := by unfold evcAdd; split <;> rfl
@[simp] theorem evcAdd_sched (src k : Nat) : (evcAdd src k s).sched = s.sched := by unfold evcAdd; split <;> rfl
@[simp] theorem evcAdd_units (src k : Nat) : (evcAdd src k s).units = s.units := by unfold evcAdd; split <;> rfl
@[simp] theorem evcAdd_qm (src k : Nat) : (evcAdd src k s).qm = s.qm := by unfold evcAdd; split <;> rfl
@[simp] theorem evcAdd_strm (src k : Nat) : (evcAdd src k s).strm = s.strm := by unfold evcAdd; split <;> rfl
@[simp] theorem evcAdd_vault (src k : Nat) : (evcAdd src k s).vault = s.vault := by unfold evcAdd; split <;> rfl
@[simp] theorem evcAdd_ent (src k : Nat) : (evcAdd src k s).ent = s.ent := by unfold evcAdd; split <;> rfl
@[simp] theorem evcAdd_quorum (src k : Nat) : (evcAdd src k s).quorum = s.quorum := by unfold evcAdd; split <;> rfl
@[simp] theorem evcAdd_flt (src k : Nat) : (evcAdd src k s).flt = s.flt := by unfold evcAdd; split <;> rfl
@[simp] theorem evcAdd_sweep (src k : Nat) : (evcAdd src k s).sweep = s.sweep := by unfold evcAdd; split <;> rfl
@[simp] theorem evcAdd_pair (src k : Nat) : (evcAdd src k s).pair = s.pair := by unfold evcAdd; split <;> rfl
@[simp] theorem evcAdd_fab (src k : Nat) : (evcAdd src k s).fab = s.fab := by unfold evcAdd; split <;> rfl
@[simp] theorem evcAdd_tam (src k : Nat) : (evcAdd src k s).tam = s.tam := by unfold evcAdd; split <;> rfl
@[simp] theorem evcAdd_cairn (src k : Nat) : (evcAdd src k s).cairn = s.cairn := by unfold evcAdd; split <;> rfl
@[simp] theorem evcAdd_life (src k : Nat) : (evcAdd src k s).life = s.life := by unfold evcAdd; split <;> rfl
@[simp] theorem evcAdd_nvm (src k : Nat) : (evcAdd src k s).nvm = s.nvm := by unfold evcAdd; split <;> rfl
@[simp] theorem evcAdd_dbg (src k : Nat) : (evcAdd src k s).dbg = s.dbg := by unfold evcAdd; split <;> rfl
@[simp] theorem evcAdd_world (src k : Nat) : (evcAdd src k s).world = s.world := by unfold evcAdd; split <;> rfl
@[simp] theorem evcAdd_acu (src k : Nat) : (evcAdd src k s).acu = s.acu := by unfold evcAdd; split <;> rfl
@[simp] theorem evcAdd_eth (src k : Nat) : (evcAdd src k s).eth = s.eth := by unfold evcAdd; split <;> rfl
@[simp] theorem evcAdd_tol (src k : Nat) : (evcAdd src k s).tol = s.tol := by unfold evcAdd; split <;> rfl
@[simp] theorem evcAdd_clk (src k : Nat) : (evcAdd src k s).clk = s.clk := by unfold evcAdd; split <;> rfl
@[simp] theorem evcAdd_mgmt (src k : Nat) : (evcAdd src k s).mgmt = s.mgmt := by unfold evcAdd; split <;> rfl
@[simp] theorem evcAdd_hbm (src k : Nat) : (evcAdd src k s).hbm = s.hbm := by unfold evcAdd; split <;> rfl
@[simp] theorem evcAdd_board (src k : Nat) : (evcAdd src k s).board = s.board := by unfold evcAdd; split <;> rfl
@[simp] theorem evcAdd_regs (src k : Nat) : (evcAdd src k s).regs = s.regs := by unfold evcAdd; split <;> rfl
@[simp] theorem evcAdd_rwq (src k : Nat) : (evcAdd src k s).rwq = s.rwq := by unfold evcAdd; split <;> rfl
@[simp] theorem evcAdd_cnt (src k : Nat) : (evcAdd src k s).cnt = s.cnt := by unfold evcAdd; split <;> rfl
@[simp] theorem evcAdd_mem (src k : Nat) : (evcAdd src k s).mem = s.mem := by unfold evcAdd; split <;> rfl
@[simp] theorem evcAdd_out (src k : Nat) : (evcAdd src k s).out = s.out := by unfold evcAdd; split <;> rfl
@[simp] theorem evcAdd_freeCtr (src k : Nat) : (evcAdd src k s).freeCtr = s.freeCtr := by unfold evcAdd; split <;> rfl
@[simp] theorem evcAdd_pending (src k : Nat) : (evcAdd src k s).pending = s.pending := by unfold evcAdd; split <;> rfl

/-! ### raise -/

@[simp] theorem raise_sys (n : Nat) : (raise n s).sys = s.sys := by unfold raise; split <;> rfl
@[simp] theorem raise_sched (n : Nat) : (raise n s).sched = s.sched := by unfold raise; split <;> rfl
@[simp] theorem raise_units (n : Nat) : (raise n s).units = s.units := by unfold raise; split <;> rfl
@[simp] theorem raise_qm (n : Nat) : (raise n s).qm = s.qm := by unfold raise; split <;> rfl
@[simp] theorem raise_strm (n : Nat) : (raise n s).strm = s.strm := by unfold raise; split <;> rfl
@[simp] theorem raise_vault (n : Nat) : (raise n s).vault = s.vault := by unfold raise; split <;> rfl
@[simp] theorem raise_ent (n : Nat) : (raise n s).ent = s.ent := by unfold raise; split <;> rfl
@[simp] theorem raise_quorum (n : Nat) : (raise n s).quorum = s.quorum := by unfold raise; split <;> rfl
@[simp] theorem raise_flt (n : Nat) : (raise n s).flt = s.flt := by unfold raise; split <;> rfl
@[simp] theorem raise_evc (n : Nat) : (raise n s).evc = s.evc := by unfold raise; split <;> rfl
@[simp] theorem raise_sweep (n : Nat) : (raise n s).sweep = s.sweep := by unfold raise; split <;> rfl
@[simp] theorem raise_pair (n : Nat) : (raise n s).pair = s.pair := by unfold raise; split <;> rfl
@[simp] theorem raise_fab (n : Nat) : (raise n s).fab = s.fab := by unfold raise; split <;> rfl
@[simp] theorem raise_tam (n : Nat) : (raise n s).tam = s.tam := by unfold raise; split <;> rfl
@[simp] theorem raise_cairn (n : Nat) : (raise n s).cairn = s.cairn := by unfold raise; split <;> rfl
@[simp] theorem raise_life (n : Nat) : (raise n s).life = s.life := by unfold raise; split <;> rfl
@[simp] theorem raise_nvm (n : Nat) : (raise n s).nvm = s.nvm := by unfold raise; split <;> rfl
@[simp] theorem raise_dbg (n : Nat) : (raise n s).dbg = s.dbg := by unfold raise; split <;> rfl
@[simp] theorem raise_acu (n : Nat) : (raise n s).acu = s.acu := by unfold raise; split <;> rfl
@[simp] theorem raise_eth (n : Nat) : (raise n s).eth = s.eth := by unfold raise; split <;> rfl
@[simp] theorem raise_tol (n : Nat) : (raise n s).tol = s.tol := by unfold raise; split <;> rfl
@[simp] theorem raise_clk (n : Nat) : (raise n s).clk = s.clk := by unfold raise; split <;> rfl
@[simp] theorem raise_mgmt (n : Nat) : (raise n s).mgmt = s.mgmt := by unfold raise; split <;> rfl
@[simp] theorem raise_hbm (n : Nat) : (raise n s).hbm = s.hbm := by unfold raise; split <;> rfl
@[simp] theorem raise_board (n : Nat) : (raise n s).board = s.board := by unfold raise; split <;> rfl
@[simp] theorem raise_regs (n : Nat) : (raise n s).regs = s.regs := by unfold raise; split <;> rfl
@[simp] theorem raise_rwq (n : Nat) : (raise n s).rwq = s.rwq := by unfold raise; split <;> rfl
@[simp] theorem raise_cnt (n : Nat) : (raise n s).cnt = s.cnt := by unfold raise; split <;> rfl
@[simp] theorem raise_mem (n : Nat) : (raise n s).mem = s.mem := by unfold raise; split <;> rfl
@[simp] theorem raise_out (n : Nat) : (raise n s).out = s.out := by unfold raise; split <;> rfl
@[simp] theorem raise_freeCtr (n : Nat) : (raise n s).freeCtr = s.freeCtr := by unfold raise; split <;> rfl
@[simp] theorem raise_pending (n : Nat) : (raise n s).pending = s.pending := by unfold raise; split <;> rfl

/-! ### collect -/

@[simp] theorem collect_sys (src cls unit : Nat) : (collect src cls unit s).sys = s.sys := by
  unfold collect; dsimp only; split <;> split <;> simp
@[simp] theorem collect_sched (src cls unit : Nat) : (collect src cls unit s).sched = s.sched := by
  unfold collect; dsimp only; split <;> split <;> simp
@[simp] theorem collect_units (src cls unit : Nat) : (collect src cls unit s).units = s.units := by
  unfold collect; dsimp only; split <;> split <;> simp
@[simp] theorem collect_qm (src cls unit : Nat) : (collect src cls unit s).qm = s.qm := by
  unfold collect; dsimp only; split <;> split <;> simp
@[simp] theorem collect_strm (src cls unit : Nat) : (collect src cls unit s).strm = s.strm := by
  unfold collect; dsimp only; split <;> split <;> simp
@[simp] theorem collect_vault (src cls unit : Nat) : (collect src cls unit s).vault = s.vault := by
  unfold collect; dsimp only; split <;> split <;> simp
@[simp] theorem collect_ent (src cls unit : Nat) : (collect src cls unit s).ent = s.ent := by
  unfold collect; dsimp only; split <;> split <;> simp
@[simp] theorem collect_quorum (src cls unit : Nat) : (collect src cls unit s).quorum = s.quorum := by
  unfold collect; dsimp only; split <;> split <;> simp
@[simp] theorem collect_sweep (src cls unit : Nat) : (collect src cls unit s).sweep = s.sweep := by
  unfold collect; dsimp only; split <;> split <;> simp
@[simp] theorem collect_pair (src cls unit : Nat) : (collect src cls unit s).pair = s.pair := by
  unfold collect; dsimp only; split <;> split <;> simp
@[simp] theorem collect_fab (src cls unit : Nat) : (collect src cls unit s).fab = s.fab := by
  unfold collect; dsimp only; split <;> split <;> simp
@[simp] theorem collect_tam (src cls unit : Nat) : (collect src cls unit s).tam = s.tam := by
  unfold collect; dsimp only; split <;> split <;> simp
@[simp] theorem collect_cairn (src cls unit : Nat) : (collect src cls unit s).cairn = s.cairn := by
  unfold collect; dsimp only; split <;> split <;> simp
@[simp] theorem collect_life (src cls unit : Nat) : (collect src cls unit s).life = s.life := by
  unfold collect; dsimp only; split <;> split <;> simp
@[simp] theorem collect_nvm (src cls unit : Nat) : (collect src cls unit s).nvm = s.nvm := by
  unfold collect; dsimp only; split <;> split <;> simp
@[simp] theorem collect_dbg (src cls unit : Nat) : (collect src cls unit s).dbg = s.dbg := by
  unfold collect; dsimp only; split <;> split <;> simp
@[simp] theorem collect_acu (src cls unit : Nat) : (collect src cls unit s).acu = s.acu := by
  unfold collect; dsimp only; split <;> split <;> simp
@[simp] theorem collect_eth (src cls unit : Nat) : (collect src cls unit s).eth = s.eth := by
  unfold collect; dsimp only; split <;> split <;> simp
@[simp] theorem collect_tol (src cls unit : Nat) : (collect src cls unit s).tol = s.tol := by
  unfold collect; dsimp only; split <;> split <;> simp
@[simp] theorem collect_clk (src cls unit : Nat) : (collect src cls unit s).clk = s.clk := by
  unfold collect; dsimp only; split <;> split <;> simp
@[simp] theorem collect_mgmt (src cls unit : Nat) : (collect src cls unit s).mgmt = s.mgmt := by
  unfold collect; dsimp only; split <;> split <;> simp
@[simp] theorem collect_hbm (src cls unit : Nat) : (collect src cls unit s).hbm = s.hbm := by
  unfold collect; dsimp only; split <;> split <;> simp
@[simp] theorem collect_board (src cls unit : Nat) : (collect src cls unit s).board = s.board := by
  unfold collect; dsimp only; split <;> split <;> simp
@[simp] theorem collect_regs (src cls unit : Nat) : (collect src cls unit s).regs = s.regs := by
  unfold collect; dsimp only; split <;> split <;> simp
@[simp] theorem collect_rwq (src cls unit : Nat) : (collect src cls unit s).rwq = s.rwq := by
  unfold collect; dsimp only; split <;> split <;> simp
@[simp] theorem collect_cnt (src cls unit : Nat) : (collect src cls unit s).cnt = s.cnt := by
  unfold collect; dsimp only; split <;> split <;> simp
@[simp] theorem collect_mem (src cls unit : Nat) : (collect src cls unit s).mem = s.mem := by
  unfold collect; dsimp only; split <;> split <;> simp
@[simp] theorem collect_out (src cls unit : Nat) : (collect src cls unit s).out = s.out := by
  unfold collect; dsimp only; split <;> split <;> simp
@[simp] theorem collect_freeCtr (src cls unit : Nat) : (collect src cls unit s).freeCtr = s.freeCtr := by
  unfold collect; dsimp only; split <;> split <;> simp
@[simp] theorem collect_pending (src cls unit : Nat) : (collect src cls unit s).pending = s.pending := by
  unfold collect; dsimp only; split <;> split <;> simp

/-! ### Entries of tables -/

@[simp] theorem getUnit_setUnit (u : Nat) (r : UnitRec) : unitRec (setUnit u r s) u = r := by simp [unitRec, setUnit, tgetD]

theorem getUnit_setUnit_ne {u v : Nat} (r : UnitRec) (h : v ≠ u) : unitRec (setUnit u r s) v = unitRec s v := by
  simp [unitRec, setUnit, tgetD, tget_tput_ne _ _ h]

@[simp] theorem getDom_setDom (d : Nat) (r : Dom) : domRec (setDom d r s) d = r := by simp [domRec, setDom, tgetD]

theorem getDom_setDom_ne {d e : Nat} (r : Dom) (h : e ≠ d) : domRec (setDom d r s) e = domRec s e := by
  simp [domRec, setDom, tgetD, tget_tput_ne _ _ h]

@[simp] theorem getQueue_setQueue (k : Nat) (q : Queue) : getQueue (setQueue k q s) k = some q := by simp [getQueue, setQueue]

theorem getQueue_setQueue_ne {k n : Nat} (q : Queue) (h : n ≠ k) : getQueue (setQueue k q s) n = getQueue s n := by
  simp [getQueue, setQueue, tget_tput_ne _ _ h]

@[simp] theorem getSess_setSess (i : Nat) (x : Sess) : getSess (setSess i x s) i = some x := by simp [getSess, setSess]

theorem getSess_setSess_ne {i n : Nat} (x : Sess) (h : n ≠ i) : getSess (setSess i x s) n = getSess s n := by
  simp [getSess, setSess, tget_tput_ne _ _ h]

@[simp] theorem getEth_setEth (p : Nat) (e : Eth) : getEth (setEth p e s) p = e := by simp [getEth, setEth, tgetD]

theorem getEth_setEth_ne {p n : Nat} (e : Eth) (h : n ≠ p) : getEth (setEth p e s) n = getEth s n := by
  simp [getEth, setEth, tgetD, tget_tput_ne _ _ h]

@[simp] theorem getCore_setCore (c : Nat) (r : Core) : getCore (setCore c r s) c = r := by simp [getCore, setCore, tgetD]

theorem getCore_setCore_ne {c n : Nat} (r : Core) (h : n ≠ c) : getCore (setCore c r s) n = getCore s n := by
  simp [getCore, setCore, tgetD, tget_tput_ne _ _ h]

@[simp] theorem getBank_setBank (b : Nat) (k : Bank) : getBank (setBank b k s) b = k := by simp [getBank, setBank, tgetD]

theorem getBank_setBank_ne {b n : Nat} (k : Bank) (h : n ≠ b) : getBank (setBank b k s) n = getBank s n := by
  simp [getBank, setBank, tgetD, tget_tput_ne _ _ h]

/-- An RW register reads as it was stored, at its reset value too. -/
theorem rw_setRw (off v : Nat) (h : rwReset off < 2 ^ 64) : rw (setRw off v s) off = v % 2 ^ 64 := by
  unfold rw setRw
  dsimp only
  split
  · simp only [tgetD, tget_tdel_self, Option.getD_none, BitVec.toNat_ofNat]; rw [Nat.mod_eq_of_lt h]; omega
  · simp [tgetD]

theorem rw_setRw_ne {off o : Nat} (v : Nat) (h : o ≠ off) : rw (setRw off v s) o = rw s o := by
  unfold rw setRw
  dsimp only
  split
  · simp [tgetD, tget_tdel_ne _ h]
  · simp [tgetD, tget_tput_ne _ _ h]

/-- A source that is raised is pending, but for the sources 8 to 31 that are not raised. -/
theorem raise_pend (n : Nat) (h : ¬ (8 ≤ n ∧ n < 32)) : (irqOf (raise n s) n).pend = true := by
  unfold irqOf raise
  rw [if_neg h]
  simp [tgetD]

theorem raise_pend_ne {n m : Nat} (h : m ≠ n) : irqOf (raise n s) m = irqOf s m := by
  unfold irqOf raise
  split
  · rfl
  · simp [tgetD, tget_tput_ne _ _ h]

end Sys2Proof.Machine
end

