-- ==== Sys2Proof/Laws/Faults.lean ====
section
/-! SUPPORT. What faults, fences and the avalanche do, said once. -/

namespace Sys2Proof.Machine

/-! ### Frames on the way to a fence -/

@[simp] theorem setRope_units (p : Nat) (r : RopePort) (s : State) : (setRope p r s).units = s.units := by
  unfold setRope; split <;> rfl

theorem addLoads_units (n : Nat) : ∀ (l : List Nat) (s : State), (l.foldl (addLoad n) s).units = s.units
  | [], _ => rfl
  | p :: l, s => (addLoads_units n l (addLoad n s p)).trans (setRope_units _ _ s)

@[simp] theorem ropeOut_units (e : OutEv) (l : List Nat) (s : State) : (ropeOut e l s).units = s.units := by
  simp [ropeOut, addLoads_units]

@[simp] theorem ropeEmit_units (cls seq : Nat) (b : RopeBody) (l : List Nat) (s : State) :
    (ropeEmit cls seq b l s).units = s.units := by
  unfold ropeEmit; dsimp only; split <;> simp

@[simp] theorem setRope_sys (p : Nat) (r : RopePort) (s : State) : (setRope p r s).sys = s.sys := by
  unfold setRope; split <;> rfl

theorem addLoads_sys (n : Nat) : ∀ (l : List Nat) (s : State), (l.foldl (addLoad n) s).sys = s.sys
  | [], _ => rfl
  | p :: l, s => (addLoads_sys n l (addLoad n s p)).trans (setRope_sys _ _ s)

@[simp] theorem ropeOut_sys (e : OutEv) (l : List Nat) (s : State) : (ropeOut e l s).sys = s.sys := by
  simp [ropeOut, addLoads_sys]

@[simp] theorem ropeEmit_sys (cls seq : Nat) (b : RopeBody) (l : List Nat) (s : State) :
    (ropeEmit cls seq b l s).sys = s.sys := by
  unfold ropeEmit; dsimp only; split <;> simp

@[simp] theorem setRope_sched (p : Nat) (r : RopePort) (s : State) : (setRope p r s).sched = s.sched := by
  unfold setRope; split <;> rfl

theorem addLoads_sched (n : Nat) : ∀ (l : List Nat) (s : State), (l.foldl (addLoad n) s).sched = s.sched
  | [], _ => rfl
  | p :: l, s => (addLoads_sched n l (addLoad n s p)).trans (setRope_sched _ _ s)

@[simp] theorem ropeOut_sched (e : OutEv) (l : List Nat) (s : State) : (ropeOut e l s).sched = s.sched := by
  simp [ropeOut, addLoads_sched]

@[simp] theorem ropeEmit_sched (cls seq : Nat) (b : RopeBody) (l : List Nat) (s : State) :
    (ropeEmit cls seq b l s).sched = s.sched := by
  unfold ropeEmit; dsimp only; split <;> simp

@[simp] theorem ropeSend_units (cls : Nat) (b : RopeBody) (s : State) : (ropeSend cls b s).units = s.units := by
  unfold ropeSend; split <;> simp

@[simp] theorem ropeSend_sys (cls : Nat) (b : RopeBody) (s : State) : (ropeSend cls b s).sys = s.sys := by
  unfold ropeSend; split <;> simp

@[simp] theorem ropeSend_sched (cls : Nat) (b : RopeBody) (s : State) : (ropeSend cls b s).sched = s.sched := by
  unfold ropeSend; split <;> simp

@[simp] theorem sendFence_sys (n : Nat) (s : State) : (sendFence n s).sys = s.sys := by unfold sendFence; split <;> simp

@[simp] theorem sendFence_units (n : Nat) (s : State) : (sendFence n s).units = s.units := by unfold sendFence; split <;> simp

@[simp] theorem mirror_units (c : Change) (s : State) : (mirror c s).units = s.units := by unfold mirror; split <;> simp

@[simp] theorem mirror_sched (c : Change) (s : State) : (mirror c s).sched = s.sched := by unfold mirror; split <;> simp

@[simp] theorem endStreamId_units (slot id order : Nat) (s : State) : (endStreamId slot id order s).units = s.units := by
  unfold endStreamId; dsimp only; split
  · rfl
  · unfold dropStream; (try dsimp only); (try split) <;> simp

@[simp] theorem endStreamOf_units (j : Job) (s : State) : (endStreamOf j s).units = s.units := by
  unfold endStreamOf; split <;> (try split) <;> simp

@[simp] theorem burnLeaf_units (j : Job) (s : State) : (burnLeaf j s).units = s.units := by simp [burnLeaf]

@[simp] theorem burnLeaf_sched (j : Job) (s : State) : (burnLeaf j s).sched = s.sched := by simp [burnLeaf]

@[simp] theorem unmakeSlot_units (s : State) (k : Nat) : (unmakeSlot s k).units = s.units := by
  unfold unmakeSlot; split <;> simp

@[simp] theorem unmakeSlot_sched (s : State) (k : Nat) : (unmakeSlot s k).sched = s.sched := by
  unfold unmakeSlot; split <;> simp

theorem unmakeFold_units : ∀ (l : List Nat) (s : State), (l.foldl unmakeSlot s).units = s.units
  | [], _ => rfl
  | k :: l, s => (unmakeFold_units l (unmakeSlot s k)).trans (unmakeSlot_units s k)

theorem unmakeFold_sched : ∀ (l : List Nat) (s : State), (l.foldl unmakeSlot s).sched = s.sched
  | [], _ => rfl
  | k :: l, s => (unmakeFold_sched l (unmakeSlot s k)).trans (unmakeSlot_sched s k)

@[simp] theorem unmake_units (j : Job) (s : State) : (unmake j s).units = s.units := by
  unfold unmake; dsimp only; split <;> simp [unmakeFold_units]

@[simp] theorem unmake_sched (j : Job) (s : State) : (unmake j s).sched = s.sched := by
  unfold unmake; dsimp only; split <;> simp [unmakeFold_sched]

@[simp] theorem forwardOrRefuse_units (ctx : Nat) (j : Job) (s : State) : (forwardOrRefuse ctx j s).units = s.units := by
  unfold forwardOrRefuse leaveAt
  split
  · unfold forwardJob; simp
  · unfold refuseJob endJob; simp

@[simp] theorem startOver_units (ctx bad nb : Nat) (j : Job) (s : State) : (startOver ctx bad nb j s).units = s.units := by
  unfold startOver reserveDraw; dsimp only; split <;> simp

/-- Restarting a job changes no unit. -/
@[simp] theorem restartJob_units (ctx bad nb : Nat) (s : State) : (restartJob ctx bad nb s).units = s.units := by
  unfold restartJob
  split
  · rfl
  · dsimp only; split <;> simp

@[simp] theorem autoOff_units (u : Nat) (s : State) : (autoOff u s).units = s.units := by
  unfold autoOff
  split
  · rfl
  · split
    · dsimp only; split <;> rfl
    · rfl

/-! ### Fences -/

/-- The units after a fence: the unit is fenced and holds no job; every other one stands. -/
theorem fenceUnit_units (u nb : Nat) (s : State) : (fenceUnit u nb s).units =
    if (unitRec s u).st = .fenced then s.units else
      tput s.units u { unitRec s u with st := .fenced, pendingEn := false, enableAt := false, job := none, seg := false, reserved := false, mem := {} } := by
  unfold fenceUnit
  dsimp only
  split
  · rfl
  · rw [autoOff_units]
    split
    · rw [restartJob_units]; rfl
    · rfl

@[simp] theorem fenceUnit_fenced (u nb : Nat) (s : State) : (unitRec (fenceUnit u nb s) u).st = .fenced := by
  rw [unitRec, fenceUnit_units]
  split
  · assumption
  · simp [tgetD]

theorem fenceUnit_ne {u v : Nat} (nb : Nat) (s : State) (h : v ≠ u) : unitRec (fenceUnit u nb s) v = unitRec s v := by
  rw [unitRec, fenceUnit_units]
  split
  · rfl
  · simp [unitRec, tgetD, tget_tput_ne _ _ h]

@[simp] theorem unitFault_fenced (u loc nb : Nat) (s : State) : (unitRec (unitFault u loc nb s) u).st = .fenced := fenceUnit_fenced _ _ _

/-- A restarted job is on no unit; it starts over, has gone to the partner, or is complete. -/
theorem restartJob_job {ctx bad nb : Nat} {s : State} {j : Job} (h : getJob s ctx = some j) :
    ∃ k, getJob (restartJob ctx bad nb s) ctx = some k ∧ k.unit = none
      ∧ (k.phase = .ready ∨ k.phase = .forwarded ∨ k.phase = .completed) := by
  have put (c : Nat) (k : Job) (t : State) : getJob (setJob c k t) c = some k := by simp [getJob, setJob]
  unfold restartJob
  rw [h]
  dsimp only
  split
  · refine ⟨restartedJob (burnLeaf (unmadeJob j) (unmake j s)) (unmadeJob j) bad nb, ?_, rfl, .inl rfl⟩
    unfold startOver reserveDraw
    dsimp only
    split <;> simp only [getJob, evcAdd_sched] <;> exact put _ _ _
  · unfold forwardOrRefuse leaveAt
    split
    · unfold forwardJob
      simp only [getJob, evcAdd_sched, bump_sched, ropeSend_sched]
      exact ⟨_, put _ _ _, rfl, .inr (.inl rfl)⟩
    · exact ⟨_, put _ _ _, rfl, .inr (.inr rfl)⟩

/-! ### LOCKDOWN -/

/-- An F3 fault in a powered device outside LOCKDOWN leads there through the avalanche. -/
theorem f3Fault_locks (src unit : Nat) (s : State) (h : s.sys.mode ≠ .lockdown) (hv : s.sys.mode ≠ .vault) :
    (f3Fault src unit s).sys.mode = .lockdown ∧ (f3Fault src unit s).tam.line = true
      ∧ (f3Fault src unit s).vault.objs = [] ∧ (f3Fault src unit s).sched.jobs = [] := by
  have hm : (avalanche .lockdown (sendFence 0 (cairnPlace 0x20 (BitVec.ofNat 32 (collect src 3 unit s).flt.src)
      (collect src 3 unit s)))).sys.mode ≠ .vault := by simpa [avalanche] using hv
  unfold f3Fault lockdownMode
  dsimp only
  rw [if_neg h, if_neg hm]
  exact ⟨rfl, rfl, rfl, rfl⟩

end Sys2Proof.Machine
end

