-- ==== Sys2Proof/Laws/Jobs.lean ====
section
/-! SUPPORT. What the shared operations on jobs do: staging a result, the row of an opcode, the row of a
firmware entry. -/

namespace Sys2Proof.Machine

@[simp] theorem getJob_setJob (ctx : Nat) (j : Job) (s : State) : getJob (setJob ctx j s) ctx = some j := by
  simp [getJob, setJob]

theorem getJob_setJob_ne {ctx c : Nat} (j : Job) (s : State) (h : c ≠ ctx) :
    getJob (setJob ctx j s) c = getJob s c := by
  simp [getJob, setJob, tget_tput_ne _ _ h]

/-- An access that the access controls let through changes nothing. -/
theorem engineAccess_let_through {m : Nat} {k : AccKind} {a len : Nat} {c : Option Nat} {s : State}
    (h : (engineAccess m k a len c s).1 = true) : engineAccess m k a len c s = (true, s) := by
  revert h; unfold engineAccess; repeat' split
  all_goals simp

/-- Bursts that are all let through change nothing. -/
theorem engineBursts_let_through {m : Nat} {k : AccKind} {c : Option Nat} {s : State} : ∀ {l : List Nat},
    (∀ a ∈ l, (engineAccess m k a 64 c s).1 = true) → engineBursts m k l c s = (true, s) := by
  intro l h
  unfold engineBursts
  induction l with
  | nil => rfl
  | cons a l ih =>
    rw [List.foldl_cons, if_pos rfl, engineAccess_let_through (h a (by simp))]
    exact ih fun b hb => h b (by simp [hb])

/-- Staging puts the result in the job and changes no other part of the state than the table of jobs. -/
theorem stage_spec (ctx : Nat) (j : Job) (r : Res) (s : State) :
    (∃ k, getJob (stage ctx j r s) ctx = some k ∧ k.result = some r)
      ∧ (∀ c, c ≠ ctx → getJob (stage ctx j r s) c = getJob s c)
      ∧ { stage ctx j r s with sched := { (stage ctx j r s).sched with jobs := s.sched.jobs } } = s :=
  ⟨⟨_, getJob_setJob _ _ _, rfl⟩, fun _ h => getJob_setJob_ne _ _ h, rfl⟩

theorem jobFor_spec {s : State} {ctx op : Nat} {j : Job} (h : jobFor s ctx op = some j) :
    getJob s ctx = some j ∧ j.phase = .running ∧ j.hdr.opcode = op ∧ j.result = none := by
  unfold jobFor at h
  obtain ⟨h1, h2⟩ := Option.filter_eq_some_iff.mp h
  simp only [Bool.and_eq_true, beq_iff_eq, Option.isNone_iff_eq_none] at h2
  exact ⟨h1, h2.1.1, h2.1.2, h2.2⟩

theorem adminFor_spec {s : State} {ctx op : Nat} {j : Job} (h : adminFor s ctx op = some j) :
    getJob s ctx = some j ∧ j.phase = .ready ∧ j.hdr.opcode = op ∧ adminTurn s j = true := by
  unfold adminFor at h
  obtain ⟨h1, h2⟩ := Option.filter_eq_some_iff.mp h
  simp only [Bool.and_eq_true, beq_iff_eq] at h2
  exact ⟨h1, h2.1.1.1.1.1, h2.1.1.1.1.2, h2.1.1.1.2⟩

/-- The row of an opcode acts once, on a job past its commit point; else it changes nothing. -/
theorem runOp_spec (op ctx : Nat) (f : Job → State → State × Res) (s : State) :
    (jobFor s ctx op = none ∧ runOp op ctx f s = s)
      ∨ ∃ j, jobFor s ctx op = some j ∧ runOp op ctx f s = answered s ctx j (f j s) := by
  unfold runOp
  cases h : jobFor s ctx op with
  | none => exact .inl ⟨rfl, rfl⟩
  | some j => exact .inr ⟨j, rfl, rfl⟩

theorem runOp_eq {op ctx : Nat} {s : State} {j : Job} (f : Job → State → State × Res) (h : jobFor s ctx op = some j) :
    runOp op ctx f s = answered s ctx j (f j s) := by
  simp only [runOp, h]

/-- The row of a firmware entry acts once, when its turn has come; else it changes nothing. An entry whose result
the failed partner has mirrored returns it. -/
theorem runAdmin_spec (op ctx : Nat) (f : Job → State → State × Res) (s : State) :
    (adminFor s ctx op = none ∧ runAdmin op ctx f s = s)
      ∨ (∃ j r, adminFor s ctx op = some j ∧ replayResult j = some r ∧ runAdmin op ctx f s = stageDone ctx (beginAdmin j s) r s)
      ∨ ∃ j, adminFor s ctx op = some j ∧ replayResult j = none ∧ runAdmin op ctx f s =
          let r := f (beginAdmin j s) (setJob ctx (beginAdmin j s) s)
          stageOwn s ctx ((getJob r.1 ctx).getD (beginAdmin j s)) r.2 r.1 := by
  unfold runAdmin asAdmin
  cases h : adminFor s ctx op with
  | none => exact .inl ⟨rfl, rfl⟩
  | some j =>
    cases hr : replayResult j with
    | none => exact .inr (.inr ⟨j, rfl, hr, by simp [hr]⟩)
    | some r => exact .inr (.inl ⟨j, r, rfl, hr, by simp [hr]⟩)

end Sys2Proof.Machine
end

