-- ==== Sys2Proof/Laws/Keeps.lean ====
section
/-! SUPPORT. What every operation of the block keeps: the queue of commands, the canonical form of memory,
what has left the block, the free values used, the 48-bit bound of the counters. One relation, `Keeps`,
says it; one lemma per operation, in the files beside this one, shows it of that operation. -/

namespace Sys2Proof.Machine

/-! ### Memory -/

theorem memWfAbove_mono : ∀ (m : List Host.Cell) {b c : Nat}, b ≤ c → memWfAbove c m = true → memWfAbove b m = true
  | [], _, _, _, _ => rfl
  | (k, v) :: t, b, c, hbc, h => by
    simp only [memWfAbove, Bool.and_eq_true, decide_eq_true_eq] at h ⊢
    exact ⟨⟨by omega, h.1.2⟩, h.2⟩

theorem memWfAbove_cellDel (a : Nat) :
    ∀ (m : List Host.Cell) (b : Nat), memWfAbove b m = true → memWfAbove b (cellDel m a) = true
  | [], _, _ => rfl
  | (k, v) :: t, b, h => by
    simp only [memWfAbove, Bool.and_eq_true, decide_eq_true_eq] at h
    simp only [cellDel]
    split
    · exact memWfAbove_mono t (by omega) h.2
    · simp only [memWfAbove, Bool.and_eq_true, decide_eq_true_eq]
      exact ⟨h.1, memWfAbove_cellDel a t k h.2⟩

theorem memWfAbove_cellPut (a : Nat) (x : Byte) (hx : x ≠ memDefault a) :
    ∀ (m : List Host.Cell) (b : Nat), b < a → memWfAbove b m = true → memWfAbove b (cellPut m a x) = true
  | [], b, hb, _ => by simp [cellPut, memWfAbove, hb, hx]
  | (k, v) :: t, b, hb, h => by
    simp only [memWfAbove, Bool.and_eq_true, decide_eq_true_eq] at h
    simp only [cellPut]
    split
    · simp [memWfAbove, h.1.2, h.2, *]
    · split
      · subst_vars
        simp [memWfAbove, hb, hx, h.2]
      · simp only [memWfAbove, Bool.and_eq_true, decide_eq_true_eq]
        exact ⟨h.1, memWfAbove_cellPut a x hx t k (by omega) h.2⟩

/-- Writing a byte keeps the canonical form. -/
theorem Memory.wf_writeByte {m : List Host.Cell} (a : Nat) (b : Byte) (h : Memory.wf m = true) :
    Memory.wf (writeByte m a b) = true := by
  unfold writeByte
  split
  · exact h
  · split
    · exact memWfAbove_cellDel a m _ h
    · exact memWfAbove_cellPut a b ‹_› m _ (by omega) h

/-- Writing bytes keeps the canonical form. -/
theorem Memory.wf_writeBytes : ∀ (l : List Byte) {m : List Host.Cell} (a : Nat), Memory.wf m = true →
    Memory.wf (writeBytes m a l) = true
  | [], _, _, h => h
  | b :: t, _, a, h => Memory.wf_writeBytes t (a + 1) (Memory.wf_writeByte a b h)

theorem memWfAbove_filter (p : Host.Cell → Bool) :
    ∀ (m : List Host.Cell) (b : Nat), memWfAbove b m = true → memWfAbove b (m.filter p) = true
  | [], _, _ => rfl
  | (k, v) :: t, b, h => by
    simp only [memWfAbove, Bool.and_eq_true, decide_eq_true_eq] at h
    have ih := memWfAbove_filter p t
    by_cases hp : p (k, v) = true
    · simp only [List.filter_cons, hp, if_true, memWfAbove, Bool.and_eq_true, decide_eq_true_eq]
      exact ⟨h.1, ih k h.2⟩
    · simp only [List.filter_cons, hp]
      exact ih b (memWfAbove_mono t (by omega) h.2)

/-- Forgetting listed bytes keeps the canonical form. -/
theorem Memory.wf_filter (p : Host.Cell → Bool) {m : List Host.Cell} (h : Memory.wf m = true) :
    Memory.wf (m.filter p) = true := memWfAbove_filter p m _ h

theorem Memory.wf_clearRange (lo hi : Nat) {m : List Host.Cell} (h : Memory.wf m = true) :
    Memory.wf (clearRange m lo hi) = true := Memory.wf_filter _ h

theorem cellAt_below : ∀ (m : List Host.Cell) {b a : Nat}, memWfAbove b m = true → a ≤ b → cellAt m a = none
  | [], _, _, _, _ => rfl
  | (k, v) :: t, b, a, h, hab => by
    simp only [memWfAbove, Bool.and_eq_true, decide_eq_true_eq] at h
    simp only [cellAt]
    rw [if_neg (by omega)]
    exact cellAt_below t h.2 (by omega)

theorem cellAt_cellDel : ∀ (m : List Host.Cell) {b : Nat} (a c : Nat), memWfAbove b m = true →
    cellAt (cellDel m a) c = if c = a then none else cellAt m c
  | [], _, a, c, _ => by simp [cellDel, cellAt]
  | (k, v) :: t, b, a, c, h => by
    simp only [memWfAbove, Bool.and_eq_true, decide_eq_true_eq] at h
    simp only [cellDel]
    split
    · subst_vars
      by_cases hc : c = a
      · subst hc; simp [cellAt_below t h.2 (Nat.le_refl _)]
      · simp [cellAt, hc, Ne.symm hc]
    · simp only [cellAt]
      by_cases hk : k = c
      · subst hk; simp [*]
      · simp [hk, cellAt_cellDel t a c h.2]

theorem cellAt_cellPut : ∀ (m : List Host.Cell) (a c : Nat) (x : Byte),
    cellAt (cellPut m a x) c = if c = a then some x else cellAt m c
  | [], a, c, x => by simp only [cellPut, cellAt]; by_cases h : a = c <;> simp [h, eq_comm]
  | (k, v) :: t, a, c, x => by
    simp only [cellPut]
    split
    · simp only [cellAt]; by_cases h : a = c <;> simp [h, eq_comm]
    · split
      · subst_vars; simp only [cellAt]; by_cases h : a = c <;> simp [h, eq_comm]
      · simp only [cellAt, cellAt_cellPut t a c x]
        by_cases hk : k = c
        · subst hk; simp [*]
        · simp [hk]

/-- A read after a write of one byte: the byte written at its address, what stood there before elsewhere;
a write into the boot ROM changes nothing. -/
theorem readByte_writeByte {m : List Host.Cell} (a c : Nat) (b : Byte) (h : Memory.wf m = true) :
    readByte (writeByte m a b) c = if c = a ∧ 0x80000 ≤ a then b else readByte m c := by
  unfold writeByte
  by_cases ha : a < 0x80000
  · simp only [ha, if_true]; rw [if_neg (by omega)]
  · simp only [ha, if_false]
    split
    · next hb =>
      simp only [readByte, cellAt_cellDel m a c h]
      by_cases hc : c = a
      · subst hc; simp [hb]; omega
      · simp [hc]
    · simp only [readByte, cellAt_cellPut]
      by_cases hc : c = a
      · subst hc; simp; omega
      · simp [hc]

/-- Bytes outside those written read as before. -/
theorem readByte_writeBytes_outside : ∀ (l : List Byte) {m : List Host.Cell} (a c : Nat), Memory.wf m = true →
    (c < a ∨ a + l.length ≤ c) → readByte (writeBytes m a l) c = readByte m c
  | [], _, _, _, _, _ => rfl
  | b :: t, m, a, c, h, hc => by
    simp only [List.length_cons] at hc
    simp only [writeBytes]
    rw [readByte_writeBytes_outside t (a + 1) c (Memory.wf_writeByte a b h) (by omega),
      readByte_writeByte a c b h, if_neg (by omega)]

/-- Bytes written above the boot ROM read back. -/
theorem readByte_writeBytes_inside : ∀ (l : List Byte) {m : List Host.Cell} (a i : Nat), Memory.wf m = true →
    0x80000 ≤ a → (hi : i < l.length) → readByte (writeBytes m a l) (a + i) = l[i]
  | [], _, _, _, _, _, hi => absurd hi (by simp)
  | b :: t, m, a, 0, h, ha, _ => by
    simp only [writeBytes, Nat.add_zero, List.getElem_cons_zero]
    rw [readByte_writeBytes_outside t (a + 1) a (Memory.wf_writeByte a b h) (by omega),
      readByte_writeByte a a b h, if_pos ⟨rfl, ha⟩]
  | b :: t, m, a, i + 1, h, ha, hi => by
    have := readByte_writeBytes_inside t (a + 1) i (Memory.wf_writeByte a b h) (by omega)
      (by simpa using hi)
    simpa [writeBytes, Nat.add_assoc, Nat.add_comm 1 i] using this

/-! ### Tables whose numbers stay below 2^48 -/

/-- Every number of the table is below 2^48. -/
def below48 (t : Tab Nat) : Prop := ∀ p ∈ t, p.2 < 2 ^ 48

theorem below48_tput : ∀ {t : Tab Nat} (n : Nat) {v : Nat}, below48 t → v < 2 ^ 48 → below48 (tput t n v)
  | [], n, v, _, hv => by intro p hp; simp only [tput, List.mem_singleton] at hp; subst hp; exact hv
  | (k, w) :: t, n, v, h, hv => by
    simp only [tput]
    have ht : below48 t := fun p hp => h p (List.mem_cons_of_mem _ hp)
    have hw : w < 2 ^ 48 := h (k, w) List.mem_cons_self
    split
    · intro p hp
      simp only [List.mem_cons] at hp
      rcases hp with rfl | rfl | hp
      · exact hv
      · exact hw
      · exact ht p hp
    · split
      · intro p hp
        simp only [List.mem_cons] at hp
        rcases hp with rfl | hp
        · exact hv
        · exact ht p hp
      · intro p hp
        simp only [List.mem_cons] at hp
        rcases hp with rfl | hp
        · exact hw
        · exact below48_tput n ht hv p hp

theorem below48_tdel : ∀ {t : Tab Nat} (n : Nat), below48 t → below48 (tdel t n)
  | [], _, h => h
  | (k, w) :: t, n, h => by
    simp only [tdel]
    have ht : below48 t := fun p hp => h p (List.mem_cons_of_mem _ hp)
    split
    · exact below48_tdel n ht
    · intro p hp
      simp only [List.mem_cons] at hp
      rcases hp with rfl | hp
      · exact h _ List.mem_cons_self
      · exact below48_tdel n ht p hp

theorem satAdd_lt (w a k : Nat) : satAdd w a k < 2 ^ w := by
  have := Nat.two_pow_pos w
  unfold satAdd
  split <;> omega

theorem evcCount_lt (b : Bool) (v k : Nat) : (evcCount b v k).1 < 2 ^ 48 := by
  unfold evcCount
  split
  · simp only; omega
  · simp only; omega

/-! ### The relation -/

/-- The relation of `Keeps` between a state and the parts of another that it speaks of. -/
structure KC (w d : Bool) (r : State) (p : List Instr) (m : List Host.Cell) (o : List OutEv) (f q : Nat)
    (c v : Tab Nat) : Prop where
  pending : p = r.pending
  mem : w = false → m = r.mem
  wf : Memory.wf r.mem = true → Memory.wf m = true
  out : ∃ l, o = r.out ++ l
  free : r.freeCtr ≤ f
  time : d = false → q = r.sched.pitch
  cnt : below48 r.cnt → below48 c
  evc : below48 r.evc.vals → below48 v

/-- From `r` to `t` the queue stands, memory keeps its canonical form (and with `w` false every byte), what
has left the block stays and may be added to, no free value is used twice, the pitch count stands (with `d` false), and the
counters stay inside 48 bits. -/
def Keeps (w d : Bool) (r t : State) : Prop :=
  KC w d r t.pending t.mem t.out t.freeCtr t.sched.pitch t.cnt t.evc.vals

namespace Keeps
variable {w d : Bool} {r s t : State}

theorem refl (w d : Bool) (s : State) : Keeps w d s s :=
  ⟨rfl, fun _ => rfl, id, ⟨[], by simp⟩, Nat.le_refl _, fun _ => rfl, id, id⟩

theorem trans (h : Keeps w d r s) (k : Keeps w d s t) : Keeps w d r t :=
  ⟨k.pending.trans h.pending, fun e => (k.mem e).trans (h.mem e), fun e => k.wf (h.wf e),
    (by obtain ⟨l, hl⟩ := h.out; obtain ⟨l', hl'⟩ := k.out; exact ⟨l ++ l', by rw [hl', hl, List.append_assoc]⟩),
    Nat.le_trans h.free k.free, fun e => (k.time e).trans (h.time e), fun e => k.cnt (h.cnt e), fun e => k.evc (h.evc e)⟩

/-- A step that writes no memory is one that may write some. -/
theorem weaken (h : Keeps false d r s) : Keeps w d r s :=
  ⟨h.pending, fun _ => h.mem rfl, h.wf, h.out, h.free, h.time, h.cnt, h.evc⟩

theorem upd (h : KC w d r t.pending t.mem t.out t.freeCtr t.sched.pitch t.cnt t.evc.vals) : Keeps w d r t := h

theorem ite {c : Prop} [Decidable c] (h : Keeps w d r s) (k : Keeps w d r t) : Keeps w d r (if c then s else t) := by
  split
  · exact h
  · exact k

theorem foldl {α : Type} {f : State → α → State} (hf : ∀ t x, Keeps w d r t → Keeps w d r (f t x)) :
    ∀ (l : List α) {s : State}, Keeps w d r s → Keeps w d r (l.foldl f s)
  | [], _, h => h
  | x :: l, s, h => foldl hf l (hf s x h)

theorem foldl_fst {α β : Type} {f : State × β → α → State × β}
    (hf : ∀ t x, Keeps w d r t.1 → Keeps w d r (f t x).1) :
    ∀ (l : List α) {s : State × β}, Keeps w d r s.1 → Keeps w d r (l.foldl f s).1
  | [], _, h => h
  | x :: l, s, h => foldl_fst hf l (hf s x h)

theorem foldl_snd {α β : Type} {f : β × State → α → β × State}
    (hf : ∀ t x, Keeps w d r t.2 → Keeps w d r (f t x).2) :
    ∀ (l : List α) {s : β × State}, Keeps w d r s.2 → Keeps w d r (l.foldl f s).2
  | [], _, h => h
  | x :: l, s, h => foldl_snd hf l (hf s x h)

end Keeps

namespace KC
variable {w d : Bool} {r X : State} {p : List Instr} {m : List Host.Cell} {o : List OutEv} {f q : Nat} {c v : Tab Nat}

theorem fold (h : Keeps w d r X) : KC w d r X.pending X.mem X.out X.freeCtr X.sched.pitch X.cnt X.evc.vals := h

theorem emitted (l : List OutEv) (h : KC w d r p m o f q c v) : KC w d r p m (o ++ l) f q c v :=
  { h with out := by obtain ⟨k, hk⟩ := h.out; exact ⟨k ++ l, by rw [hk, List.append_assoc]⟩ }

theorem used (n : Nat) (h : KC w d r p m o f q c v) : KC w d r p m o (f + n) q c v :=
  { h with free := Nat.le_trans h.free (Nat.le_add_right _ _) }

theorem wrote (a : Nat) (l : List Byte) (h : KC true d r p m o f q c v) : KC true d r p (writeBytes m a l) o f q c v :=
  { h with mem := by simp, wf := fun e => Memory.wf_writeBytes l a (h.wf e) }

theorem cleared (lo hi : Nat) (h : KC true d r p m o f q c v) : KC true d r p (clearRange m lo hi) o f q c v :=
  { h with mem := by simp, wf := fun e => Memory.wf_clearRange lo hi (h.wf e) }

theorem filtered (g : Host.Cell → Bool) (h : KC true d r p m o f q c v) : KC true d r p (m.filter g) o f q c v :=
  { h with mem := by simp, wf := fun e => Memory.wf_filter g (h.wf e) }

theorem rewrote {m' : List Host.Cell} (hw : Memory.wf m = true → Memory.wf m' = true) (h : KC true d r p m o f q c v) :
    KC true d r p m' o f q c v :=
  { h with mem := by simp, wf := fun e => hw (h.wf e) }

theorem noCounts (h : KC w d r p m o f q c v) : KC w d r p m o f q [] v :=
  { h with cnt := fun _ _ hp => absurd hp (by simp) }

theorem noEvents (h : KC w d r p m o f q c v) : KC w d r p m o f q c [] :=
  { h with evc := fun _ _ hp => absurd hp (by simp) }

theorem eventSet (n : Nat) {x : Nat} (hx : x < 2 ^ 48) (h : KC w d r p m o f q c v) :
    KC w d r p m o f q c (tput v n x) :=
  { h with evc := fun e => below48_tput n (h.evc e) hx }

theorem eventDel (n : Nat) (h : KC w d r p m o f q c v) : KC w d r p m o f q c (tdel v n) :=
  { h with evc := fun e => below48_tdel n (h.evc e) }

theorem counted (n a k : Nat) (h : KC w d r p m o f q c v) :
    KC w d r p m o f q (tput c n (satAdd 48 a k)) v :=
  { h with cnt := fun e => below48_tput n (h.cnt e) (satAdd_lt 48 a k) }

end KC

end Sys2Proof.Machine
end

