-- ==== Sys2Proof/Laws/KeepsOps.lean ====
section
/-! SUPPORT. `Keeps` of the operations of Machine/Ops.lean. -/

namespace Sys2Proof.Machine

theorem setRw_keeps {w td : Bool} {z : State} (off v : Nat) (s : State)
    (hz : Keeps w td z s) : Keeps w td z (setRw off v s) := by
  unfold setRw
  repeat' first
    | with_reducible first
      | exact hz | apply Keeps.ite | apply KC.fold
    | split | (with_reducible apply Keeps.upd; dsimp only) | dsimp only | intro

theorem setStaged_keeps {w td : Bool} {z : State} (off v : Nat) (s : State)
    (hz : Keeps w td z s) : Keeps w td z (setStaged off v s) := by
  unfold setStaged
  repeat' first
    | with_reducible first
      | exact hz | apply KC.fold
    | (with_reducible apply Keeps.upd; dsimp only) | dsimp only | intro

theorem bump_keeps {w td : Bool} {z : State} (b i k : Nat) (s : State)
    (hz : Keeps w td z s) : Keeps w td z (bump b i k s) := by
  unfold bump
  repeat' first
    | with_reducible first
      | exact hz | apply Keeps.ite | apply KC.counted | apply KC.fold
    | split | (with_reducible apply Keeps.upd; dsimp only) | dsimp only | intro

theorem evcOne_vals (s : State) (src k : Nat) (e : Evc) (n : Nat) (h : below48 e.vals) :
    below48 (evcOne s src k e n).vals := by
  unfold evcOne
  dsimp only
  split
  · exact below48_tput n h (evcCount_lt _ _ _)
  · exact h

theorem evcFold_vals (s : State) (src k : Nat) : ∀ (l : List Nat) (e : Evc), below48 e.vals →
    below48 (l.foldl (evcOne s src k) e).vals
  | [], _, h => h
  | n :: l, e, h => evcFold_vals s src k l _ (evcOne_vals s src k e n h)

theorem evcAdd_keeps {w td : Bool} {r : State} (src k : Nat) (s : State)
    (h : Keeps w td r s) : Keeps w td r (evcAdd src k s) := by
  unfold evcAdd
  split
  · exact h
  · exact ⟨h.pending, h.mem, h.wf, h.out, h.free, h.time, h.cnt, fun e => evcFold_vals s src k _ _ (h.evc e)⟩

theorem raise_keeps {w td : Bool} {z : State} (n : Nat) (s : State)
    (hz : Keeps w td z s) : Keeps w td z (raise n s) := by
  unfold raise
  repeat' first
    | with_reducible first
      | exact hz | apply Keeps.ite | apply KC.fold
    | split | (with_reducible apply Keeps.upd; dsimp only) | dsimp only | intro

theorem pairState_keeps {w td : Bool} {z : State} (st : Nat) (s : State)
    (hz : Keeps w td z s) : Keeps w td z (pairState st s) := by
  unfold pairState
  repeat' first
    | with_reducible first
      | exact hz | apply raise_keeps | apply Keeps.ite | apply KC.fold
    | split | (with_reducible apply Keeps.upd; dsimp only) | dsimp only | intro

theorem emit_keeps {w td : Bool} {z : State} (e : OutEv) (s : State)
    (hz : Keeps w td z s) : Keeps w td z (emit e s) := by
  unfold emit
  repeat' first
    | with_reducible first
      | exact hz | apply KC.emitted | apply KC.fold
    | (with_reducible apply Keeps.upd; dsimp only) | dsimp only | intro

theorem useBytes_keeps {w td : Bool} {z : State} (n : Nat) (s : State)
    (hz : Keeps w td z s) : Keeps w td z (useBytes n s) := by
  unfold useBytes
  repeat' first
    | with_reducible first
      | exact hz | apply KC.used | apply KC.fold
    | (with_reducible apply Keeps.upd; dsimp only) | dsimp only | intro

theorem cairnPlace_keeps {w td : Bool} {z : State} (type : Nat) (bitmap : BitVec 32) (s : State)
    (hz : Keeps w td z s) : Keeps w td z (cairnPlace type bitmap s) := by
  unfold cairnPlace
  repeat' first
    | with_reducible first
      | exact hz | apply KC.fold
    | (with_reducible apply Keeps.upd; dsimp only) | dsimp only | intro

theorem setRope_keeps {w td : Bool} {z : State} (p : Nat) (r : RopePort) (s : State)
    (hz : Keeps w td z s) : Keeps w td z (setRope p r s) := by
  unfold setRope
  repeat' first
    | with_reducible first
      | exact hz | apply Keeps.ite | apply KC.fold
    | split | (with_reducible apply Keeps.upd; dsimp only) | dsimp only | intro

theorem addLoad_keeps {w td : Bool} {z : State} (n : Nat) (s : State) (p : Nat)
    (hz : Keeps w td z s) : Keeps w td z (addLoad n s p) := by
  unfold addLoad
  repeat' first
    | with_reducible first
      | exact hz | apply setRope_keeps | apply KC.fold
    | (with_reducible apply Keeps.upd; dsimp only) | dsimp only | intro

theorem ropeOut_keeps {w td : Bool} {z : State} (e : OutEv) (ports : List Nat) (s : State)
    (hz : Keeps w td z s) : Keeps w td z (ropeOut e ports s) := by
  unfold ropeOut
  repeat' first
    | with_reducible first
      | exact hz | assumption | apply bump_keeps | apply evcAdd_keeps | apply addLoad_keeps
      | refine Keeps.foldl (fun _ _ _ => ?_) _ ?_ | apply KC.emitted | apply KC.fold
    | (with_reducible apply Keeps.upd; dsimp only) | dsimp only | intro

theorem ropeEmit_keeps {w td : Bool} {z : State} (cls seq : Nat) (b : RopeBody) (ports : List Nat) (s : State)
    (hz : Keeps w td z s) : Keeps w td z (ropeEmit cls seq b ports s) := by
  unfold ropeEmit
  repeat' first
    | with_reducible first
      | exact hz | apply setRope_keeps | apply ropeOut_keeps | apply Keeps.ite | apply KC.fold
    | split | (with_reducible apply Keeps.upd; dsimp only) | dsimp only | intro

theorem drainPort_keeps {w td : Bool} {z : State} (p : Nat) : ∀ (n : Nat) (s : State),
    Keeps w td z s → Keeps w td z (drainPort p n s)
  | 0, _, h => h
  | n + 1, s, h => by
    simp only [drainPort]
    split
    · exact h
    · exact Keeps.ite h (drainPort_keeps p n _ (ropeOut_keeps _ _ _ (setRope_keeps _ _ _ h)))

theorem drainRope_keeps {w td : Bool} {z : State} (s : State)
    (hz : Keeps w td z s) : Keeps w td z (drainRope s) := by
  unfold drainRope
  repeat' first
    | with_reducible first
      | exact hz | assumption | apply drainPort_keeps | refine Keeps.foldl (fun _ _ _ => ?_) _ ?_
      | refine Keeps.foldl_fst (fun _ _ _ => ?_) _ ?_ | refine Keeps.foldl_snd (fun _ _ _ => ?_) _ ?_
    | dsimp only | intro

theorem ropeSend_keeps {w td : Bool} {z : State} (cls : Nat) (b : RopeBody) (s : State)
    (hz : Keeps w td z s) : Keeps w td z (ropeSend cls b s) := by
  unfold ropeSend
  repeat' first
    | with_reducible first
      | exact hz | apply bump_keeps | apply ropeEmit_keeps | apply Keeps.ite | apply KC.fold
    | split | (with_reducible apply Keeps.upd; dsimp only) | dsimp only | intro

theorem mirror_keeps {w td : Bool} {z : State} (c : Change) (s : State)
    (hz : Keeps w td z s) : Keeps w td z (mirror c s) := by
  unfold mirror
  repeat' first
    | with_reducible first
      | exact hz | apply ropeSend_keeps | apply Keeps.ite
    | split | dsimp only | intro

theorem sendFence_keeps {w td : Bool} {z : State} (reason : Nat) (s : State)
    (hz : Keeps w td z s) : Keeps w td z (sendFence reason s) := by
  unfold sendFence
  repeat' first
    | with_reducible first
      | exact hz | apply ropeEmit_keeps | apply Keeps.ite | apply KC.fold
    | split | (with_reducible apply Keeps.upd; dsimp only) | dsimp only | intro

end Sys2Proof.Machine
end

