-- ==== Sys2Proof/Laws/KeepsUnits.lean ====
section
/-! SUPPORT. `Keeps` of the operations of Machine/Units.lean. -/

namespace Sys2Proof.Machine

theorem setUnit_keeps {w td : Bool} {z : State} (u : Nat) (r : UnitRec) (s : State)
    (hz : Keeps w td z s) : Keeps w td z (setUnit u r s) := by
  unfold setUnit
  repeat' first
    | with_reducible first
      | exact hz | apply KC.fold
    | (with_reducible apply Keeps.upd; dsimp only) | dsimp only | intro

theorem freeUnits_keeps {w td : Bool} {z : State} (ctx : Nat) (s : State)
    (hz : Keeps w td z s) : Keeps w td z (freeUnits ctx s) := by
  unfold freeUnits
  repeat' first
    | with_reducible first
      | exact hz | assumption | apply Keeps.ite | apply KC.fold
    | split | (with_reducible apply Keeps.upd; dsimp only) | dsimp only | intro

theorem setDom_keeps {w td : Bool} {z : State} (d : Nat) (r : Dom) (s : State)
    (hz : Keeps w td z s) : Keeps w td z (setDom d r s) := by
  unfold setDom
  repeat' first
    | with_reducible first
      | exact hz | apply KC.fold
    | (with_reducible apply Keeps.upd; dsimp only) | dsimp only | intro

theorem setJob_keeps {w td : Bool} {z : State} (ctx : Nat) (j : Job) (s : State)
    (hz : Keeps w td z s) : Keeps w td z (setJob ctx j s) := by
  unfold setJob
  repeat' first
    | with_reducible first
      | exact hz | apply KC.fold
    | (with_reducible apply Keeps.upd; dsimp only) | dsimp only | intro

theorem endJob_keeps {w td : Bool} {z : State} (ctx : Nat) (j : Job) (r : Res) (due : Nat) (s : State)
    (hz : Keeps w td z s) : Keeps w td z (endJob ctx j r due s) := by
  unfold endJob
  repeat' first
    | with_reducible first
      | exact hz | apply setJob_keeps | apply KC.fold
    | (with_reducible apply Keeps.upd; dsimp only) | dsimp only | intro

theorem dropStream_keeps {w td : Bool} {z : State} (slot id : Nat) (s : State)
    (hz : Keeps w td z s) : Keeps w td z (dropStream slot id s) := by
  unfold dropStream
  repeat' first
    | with_reducible first
      | exact hz | assumption | apply mirror_keeps | apply KC.fold
    | split | (with_reducible apply Keeps.upd; dsimp only) | dsimp only | intro

theorem endStreamId_keeps {w td : Bool} {z : State} (slot id o : Nat) (s : State)
    (hz : Keeps w td z s) : Keeps w td z (endStreamId slot id o s) := by
  unfold endStreamId
  repeat' first
    | with_reducible first
      | exact hz | assumption | apply dropStream_keeps | apply Keeps.ite | apply KC.fold
    | split | (with_reducible apply Keeps.upd; dsimp only) | dsimp only | intro

theorem endStreamOf_keeps {w td : Bool} {z : State} (j : Job) (s : State)
    (hz : Keeps w td z s) : Keeps w td z (endStreamOf j s) := by
  unfold endStreamOf
  repeat' first
    | with_reducible first
      | exact hz | apply endStreamId_keeps | apply Keeps.ite | apply KC.fold
    | split | (with_reducible apply Keeps.upd; dsimp only) | dsimp only | intro

theorem burnLeaf_keeps {w td : Bool} {z : State} (j : Job) (s : State)
    (hz : Keeps w td z s) : Keeps w td z (burnLeaf j s) := by
  unfold burnLeaf
  repeat' first
    | with_reducible first
      | exact hz | apply bump_keeps | apply evcAdd_keeps
    | dsimp only | intro

theorem refuseJob_keeps {w td : Bool} {z : State} (ctx : Nat) (j : Job) (st due : Nat) (s : State)
    (hz : Keeps w td z s) : Keeps w td z (refuseJob ctx j st due s) := by
  unfold refuseJob
  repeat' first
    | with_reducible first
      | exact hz | apply endJob_keeps | apply endStreamOf_keeps | apply burnLeaf_keeps | apply KC.fold
    | (with_reducible apply Keeps.upd; dsimp only) | dsimp only | intro

theorem forwardJob_keeps {w td : Bool} {z : State} (ctx : Nat) (j : Job) (s : State)
    (hz : Keeps w td z s) : Keeps w td z (forwardJob ctx j s) := by
  unfold forwardJob
  repeat' first
    | with_reducible first
      | exact hz | apply bump_keeps | apply evcAdd_keeps | apply ropeSend_keeps | apply setJob_keeps
      | apply Keeps.ite | apply KC.fold
    | split | (with_reducible apply Keeps.upd; dsimp only) | dsimp only | intro

theorem leaveAt_keeps {w td : Bool} {z : State} (due ctx : Nat) (j : Job) (s : State)
    (hz : Keeps w td z s) : Keeps w td z (leaveAt due ctx j s) := by
  unfold leaveAt
  repeat' first
    | with_reducible first
      | exact hz | apply refuseJob_keeps | apply forwardJob_keeps | apply Keeps.ite
    | split | dsimp only | intro

theorem forwardOrRefuse_keeps {w td : Bool} {z : State} (ctx : Nat) (j : Job) (s : State)
    (hz : Keeps w td z s) : Keeps w td z (forwardOrRefuse ctx j s) := by
  unfold forwardOrRefuse
  repeat' first
    | with_reducible first
      | exact hz | apply leaveAt_keeps
    | dsimp only | intro

theorem unmakeSlot_keeps {w td : Bool} {z : State} (s : State) (slot : Nat)
    (hz : Keeps w td z s) : Keeps w td z (unmakeSlot s slot) := by
  unfold unmakeSlot
  repeat' first
    | with_reducible first
      | exact hz | apply mirror_keeps | apply KC.fold
    | split | (with_reducible apply Keeps.upd; dsimp only) | dsimp only | intro

theorem unmake_keeps {w td : Bool} {z : State} (j : Job) (s : State)
    (hz : Keeps w td z s) : Keeps w td z (unmake j s) := by
  unfold unmake
  repeat' first
    | with_reducible first
      | exact hz | assumption | apply mirror_keeps | apply unmakeSlot_keeps | apply Keeps.ite
      | refine Keeps.foldl (fun _ _ _ => ?_) _ ?_
    | split | dsimp only | intro

theorem reserveDraw_keeps {w td : Bool} {z : State} (ctx : Nat) (n : Nat) (s : State)
    (hz : Keeps w td z s) : Keeps w td z (reserveDraw ctx n s) := by
  unfold reserveDraw
  repeat' first
    | with_reducible first
      | exact hz | apply Keeps.ite | apply KC.fold
    | split | (with_reducible apply Keeps.upd; dsimp only) | dsimp only | intro

theorem startOver_keeps {w td : Bool} {z : State} (ctx bad notBefore : Nat) (j : Job) (s : State)
    (hz : Keeps w td z s) : Keeps w td z (startOver ctx bad notBefore j s) := by
  unfold startOver
  repeat' first
    | with_reducible first
      | exact hz | apply evcAdd_keeps | apply setJob_keeps | apply reserveDraw_keeps
    | dsimp only | intro

theorem restartJob_keeps {w td : Bool} {z : State} (ctx bad notBefore : Nat) (s : State)
    (hz : Keeps w td z s) : Keeps w td z (restartJob ctx bad notBefore s) := by
  unfold restartJob
  repeat' first
    | with_reducible first
      | exact hz | apply burnLeaf_keeps | apply forwardOrRefuse_keeps | apply unmake_keeps | apply startOver_keeps
      | apply Keeps.ite | apply KC.fold
    | split | (with_reducible apply Keeps.upd; dsimp only) | dsimp only | intro

theorem collect_keeps {w td : Bool} {z : State} (src cls unit : Nat) (s : State)
    (hz : Keeps w td z s) : Keeps w td z (collect src cls unit s) := by
  unfold collect
  repeat' first
    | with_reducible first
      | exact hz | apply evcAdd_keeps | apply raise_keeps | apply Keeps.ite | apply KC.fold
    | split | (with_reducible apply Keeps.upd; dsimp only) | dsimp only | intro

theorem avalanche_keeps {td : Bool} {z : State} (after : After) (s : State)
    (hz : Keeps true td z s) : Keeps true td z (avalanche after s) := by
  unfold avalanche
  repeat' first
    | with_reducible first
      | exact hz | assumption | apply Keeps.ite | apply KC.counted | apply KC.wrote | apply KC.cleared
      | apply KC.filtered | apply KC.fold
    | split | (with_reducible apply Keeps.upd; dsimp only) | dsimp only | intro

theorem lockdownMode_keeps {w td : Bool} {z : State} (s : State)
    (hz : Keeps w td z s) : Keeps w td z (lockdownMode s) := by
  unfold lockdownMode
  repeat' first
    | with_reducible first
      | exact hz | assumption | apply Keeps.ite | apply KC.fold
    | split | (with_reducible apply Keeps.upd; dsimp only) | dsimp only | intro

theorem f3Fault_keeps {td : Bool} {z : State} (src unit : Nat) (s : State)
    (hz : Keeps true td z s) : Keeps true td z (f3Fault src unit s) := by
  unfold f3Fault
  repeat' first
    | with_reducible first
      | exact hz | apply cairnPlace_keeps | apply sendFence_keeps | apply collect_keeps | apply avalanche_keeps
      | apply lockdownMode_keeps | apply Keeps.ite
    | split | dsimp only | intro

theorem degrade_keeps {w td : Bool} {z : State} (s : State)
    (hz : Keeps w td z s) : Keeps w td z (degrade s) := by
  unfold degrade
  repeat' first
    | with_reducible first
      | exact hz | apply Keeps.ite | apply KC.fold
    | split | (with_reducible apply Keeps.upd; dsimp only) | dsimp only | intro

theorem autoOff_keeps {w td : Bool} {z : State} (u : Nat) (s : State)
    (hz : Keeps w td z s) : Keeps w td z (autoOff u s) := by
  unfold autoOff
  repeat' first
    | with_reducible first
      | exact hz | apply setDom_keeps | apply Keeps.ite | apply KC.fold
    | split | (with_reducible apply Keeps.upd; dsimp only) | dsimp only | intro

theorem fenceUnit_keeps {td : Bool} {z : State} (u notBefore : Nat) (s : State)
    (hz : Keeps true td z s) : Keeps true td z (fenceUnit u notBefore s) := by
  unfold fenceUnit
  repeat' first
    | with_reducible first
      | exact hz | apply setUnit_keeps | apply restartJob_keeps | apply degrade_keeps | apply autoOff_keeps
      | apply Keeps.ite | apply KC.wrote | apply KC.cleared | apply KC.filtered | apply KC.fold
    | split | (with_reducible apply Keeps.upd; dsimp only) | dsimp only | intro

theorem unitFault_keeps {td : Bool} {z : State} (u loc notBefore : Nat) (s : State)
    (hz : Keeps true td z s) : Keeps true td z (unitFault u loc notBefore s) := by
  unfold unitFault
  repeat' first
    | with_reducible first
      | exact hz | apply collect_keeps | apply fenceUnit_keeps
    | dsimp only | intro

theorem mismatchFault_keeps {td : Bool} {z : State} (u loc notBefore : Nat) (s : State)
    (hz : Keeps true td z s) : Keeps true td z (mismatchFault u loc notBefore s) := by
  unfold mismatchFault
  repeat' first
    | with_reducible first
      | exact hz | assumption | apply bump_keeps | apply f3Fault_keeps | apply unitFault_keeps | apply Keeps.ite
      | apply KC.fold
    | split | (with_reducible apply Keeps.upd; dsimp only) | dsimp only | intro

theorem selfCheckFault_keeps {td : Bool} {z : State} (u notBefore : Nat) (s : State)
    (hz : Keeps true td z s) : Keeps true td z (selfCheckFault u notBefore s) := by
  unfold selfCheckFault
  repeat' first
    | with_reducible first
      | exact hz | apply bump_keeps | apply f3Fault_keeps | apply unitFault_keeps | apply Keeps.ite | apply KC.fold
    | split | (with_reducible apply Keeps.upd; dsimp only) | dsimp only | intro

theorem fenceAll_keeps {td : Bool} {z : State} (s : State)
    (hz : Keeps true td z s) : Keeps true td z (fenceAll s) := by
  unfold fenceAll
  repeat' first
    | with_reducible first
      | exact hz | assumption | apply fenceUnit_keeps | refine Keeps.foldl (fun _ _ _ => ?_) _ ?_
      | refine Keeps.foldl_fst (fun _ _ _ => ?_) _ ?_ | refine Keeps.foldl_snd (fun _ _ _ => ?_) _ ?_
    | dsimp only | intro

theorem entStop_keeps {w td : Bool} {z : State} (s : State)
    (hz : Keeps w td z s) : Keeps w td z (entStop s) := by
  unfold entStop
  repeat' first
    | with_reducible first
      | exact hz | assumption | apply bump_keeps | apply raise_keeps | apply collect_keeps | apply degrade_keeps
      | apply Keeps.ite | refine Keeps.foldl (fun _ _ _ => ?_) _ ?_ | apply KC.fold
    | split | (with_reducible apply Keeps.upd; dsimp only) | dsimp only | intro

end Sys2Proof.Machine
end

