-- ==== Sys2Proof/Laws/KeepsAcuCheck.lean ====
section
/-! SUPPORT. `Keeps` of the operations of Machine/AcuCheck.lean. -/

namespace Sys2Proof.Machine

theorem setAcuRec_keeps {w td : Bool} {z : State} (n : Nat) (r : AcuRec) (s : State)
    (hz : Keeps w td z s) : Keeps w td z (setAcuRec n r s) := by
  unfold setAcuRec
  repeat' first
    | with_reducible first
      | exact hz | apply KC.fold
    | (with_reducible apply Keeps.upd; dsimp only) | dsimp only | intro

theorem preciseDenial_keeps {w td : Bool} {z : State} (n master world reg kind a : Nat) (s : State)
    (hz : Keeps w td z s) : Keeps w td z (preciseDenial n master world reg kind a s) := by
  unfold preciseDenial
  repeat' first
    | with_reducible first
      | exact hz | apply evcAdd_keeps | apply raise_keeps | apply setAcuRec_keeps | apply Keeps.ite | apply KC.fold
    | split | (with_reducible apply Keeps.upd; dsimp only) | dsimp only | intro

theorem postedDenial_keeps {w td : Bool} {z : State} (n master reg : Nat) (s : State)
    (hz : Keeps w td z s) : Keeps w td z (postedDenial n master reg s) := by
  unfold postedDenial
  repeat' first
    | with_reducible first
      | exact hz | apply evcAdd_keeps | apply raise_keeps | apply setAcuRec_keeps | apply Keeps.ite | apply KC.fold
    | split | (with_reducible apply Keeps.upd; dsimp only) | dsimp only | intro

theorem recordDenial_keeps {w td : Bool} {z : State} (n master world reg : Nat) (k : AccKind) (a : Nat) (s : State)
    (hz : Keeps w td z s) : Keeps w td z (recordDenial n master world reg k a s) := by
  unfold recordDenial
  repeat' first
    | with_reducible first
      | exact hz | apply preciseDenial_keeps | apply postedDenial_keeps | apply Keeps.ite | apply KC.fold
    | split | (with_reducible apply Keeps.upd; dsimp only) | dsimp only | intro

theorem denyJob_keeps {w td : Bool} {z : State} (ctx : Nat) (s : State)
    (hz : Keeps w td z s) : Keeps w td z (denyJob ctx s) := by
  unfold denyJob
  repeat' first
    | with_reducible first
      | exact hz | apply setUnit_keeps | apply refuseJob_keeps | apply Keeps.ite | apply KC.fold
    | split | (with_reducible apply Keeps.upd; dsimp only) | dsimp only | intro

theorem storeMem_keeps {td : Bool} {z : State} (a : Nat) (data : List Byte) (s : State)
    (hz : Keeps true td z s) : Keeps true td z (storeMem a data s) := by
  unfold storeMem
  repeat' first
    | with_reducible first
      | exact hz | apply Keeps.ite | apply KC.wrote | apply KC.cleared | apply KC.filtered | apply KC.fold
    | split | (with_reducible apply Keeps.upd; dsimp only) | dsimp only | intro

theorem engineAccess_keeps {w td : Bool} {z : State} (master : Nat) (k : AccKind) (a len : Nat) (ctx : Option Nat) (s : State)
    (hz : Keeps w td z s) : Keeps w td z (engineAccess master k a len ctx s).2 := by
  unfold engineAccess
  repeat' first
    | with_reducible first
      | exact hz | apply collect_keeps | apply recordDenial_keeps | apply denyJob_keeps | apply Keeps.ite
      | apply KC.fold
    | split | (with_reducible apply Keeps.upd; dsimp only) | dsimp only | intro

theorem engineBursts_keeps {w td : Bool} {z : State} (master : Nat) (k : AccKind) (l : List Nat) (ctx : Option Nat) (s : State)
    (hz : Keeps w td z s) : Keeps w td z (engineBursts master k l ctx s).2 := by
  unfold engineBursts
  repeat' first
    | with_reducible first
      | exact hz | assumption | apply engineAccess_keeps | apply Keeps.ite
      | refine Keeps.foldl (fun _ _ _ => ?_) _ ?_ | refine Keeps.foldl_fst (fun _ _ _ => ?_) _ ?_
      | refine Keeps.foldl_snd (fun _ _ _ => ?_) _ ?_
    | split | dsimp only | intro

theorem engineWrite_keeps {td : Bool} {z : State} (master a : Nat) (data : List Byte) (s : State)
    (hz : Keeps true td z s) : Keeps true td z (engineWrite master a data s) := by
  unfold engineWrite
  repeat' first
    | with_reducible first
      | exact hz | apply storeMem_keeps | apply engineAccess_keeps | apply Keeps.ite | apply KC.fold
    | split | (with_reducible apply Keeps.upd; dsimp only) | dsimp only | intro

end Sys2Proof.Machine
end

