-- ==== Sys2Proof/Laws/KeepsVaultOps.lean ====
section
/-! SUPPORT. `Keeps` of the operations of Machine/VaultOps.lean. -/

namespace Sys2Proof.Machine

theorem touchHot_keeps {w td : Bool} {z : State} (pins : List Nat) (slot : Nat) (s : State)
    (hz : Keeps w td z s) : Keeps w td z (touchHot pins slot s) := by
  unfold touchHot
  repeat' first
    | with_reducible first
      | exact hz | apply bump_keeps | apply evcAdd_keeps | apply KC.fold
    | (with_reducible apply Keeps.upd; dsimp only) | dsimp only | intro

theorem coldMiss_keeps {w td : Bool} {z : State} (pins : List Nat) (slot : Nat) (s : State)
    (hz : Keeps w td z s) : Keeps w td z (coldMiss pins slot s) := by
  unfold coldMiss
  repeat' first
    | with_reducible first
      | exact hz | apply bump_keeps | apply evcAdd_keeps | apply touchHot_keeps
    | dsimp only | intro

theorem refillSalts_keeps {w td : Bool} {z : State} (k : Nat) (s : State)
    (hz : Keeps w td z s) : Keeps w td z (refillSalts k s) := by
  unfold refillSalts
  repeat' first
    | with_reducible first
      | exact hz | apply Keeps.ite | apply KC.fold
    | split | (with_reducible apply Keeps.upd; dsimp only) | dsimp only | intro

theorem putObj_keeps {w td : Bool} {z : State} (slot : Nat) (o : KeyObj) (s : State)
    (hz : Keeps w td z s) : Keeps w td z (putObj slot o s) := by
  unfold putObj
  repeat' first
    | with_reducible first
      | exact hz | apply KC.fold
    | (with_reducible apply Keeps.upd; dsimp only) | dsimp only | intro

theorem countObj_keeps {w td : Bool} {z : State} (slot : Nat) (o : KeyObj) (s : State)
    (hz : Keeps w td z s) : Keeps w td z (countObj slot o s) := by
  unfold countObj
  repeat' first
    | with_reducible first
      | exact hz | apply putObj_keeps | apply Keeps.ite | apply KC.fold
    | split | (with_reducible apply Keeps.upd; dsimp only) | dsimp only | intro

theorem storeObj_keeps {w td : Bool} {z : State} (slot : Nat) (o : KeyObj) (s : State)
    (hz : Keeps w td z s) : Keeps w td z (storeObj slot o s) := by
  unfold storeObj
  repeat' first
    | with_reducible first
      | exact hz | apply bump_keeps | apply evcAdd_keeps | apply touchHot_keeps | apply putObj_keeps
    | dsimp only | intro

theorem createIn_keeps {w td : Bool} {z : State} (slot part : Nat) (p : Plan) (link : Option Nat) (s : State)
    (hz : Keeps w td z s) : Keeps w td z (createIn slot part p link s) := by
  unfold createIn
  repeat' first
    | with_reducible first
      | exact hz | apply refillSalts_keeps | apply storeObj_keeps | apply KC.fold
    | (with_reducible apply Keeps.upd; dsimp only) | dsimp only | intro

theorem createPlanned_keeps {w td : Bool} {z : State} (slots : List Nat) (part : Nat) (plans : List Plan) (s : State)
    (hz : Keeps w td z s) : Keeps w td z (createPlanned slots part plans s).1 := by
  unfold createPlanned
  repeat' first
    | with_reducible first
      | exact hz | assumption | apply createIn_keeps | apply KC.fold
    | split | (with_reducible apply Keeps.upd; dsimp only) | dsimp only | intro

theorem emptySlot_keeps {w td : Bool} {z : State} (slot g : Nat) (s : State)
    (hz : Keeps w td z s) : Keeps w td z (emptySlot slot g s) := by
  unfold emptySlot
  repeat' first
    | with_reducible first
      | exact hz | assumption | apply Keeps.ite | apply KC.fold
    | split | (with_reducible apply Keeps.upd; dsimp only) | dsimp only | intro

theorem destroyObj_keeps {w td : Bool} {z : State} (slot : Nat) (s : State)
    (hz : Keeps w td z s) : Keeps w td z (destroyObj slot s) := by
  unfold destroyObj
  repeat' first
    | with_reducible first
      | exact hz | assumption | apply bump_keeps | apply evcAdd_keeps | apply mirror_keeps | apply emptySlot_keeps
    | dsimp only | intro

theorem updateObj_keeps {w td : Bool} {z : State} (slot : Nat) (o : KeyObj) (s : State)
    (hz : Keeps w td z s) : Keeps w td z (updateObj slot o s) := by
  unfold updateObj
  repeat' first
    | with_reducible first
      | exact hz | apply mirror_keeps | apply putObj_keeps
    | dsimp only | intro

theorem lostRecord_keeps {w td : Bool} {z : State} (slot : Nat) (tag : Bool) (s : State)
    (hz : Keeps w td z s) : Keeps w td z (lostRecord slot tag s) := by
  unfold lostRecord
  repeat' first
    | with_reducible first
      | exact hz | apply bump_keeps | apply Keeps.ite | apply KC.fold
    | split | (with_reducible apply Keeps.upd; dsimp only) | dsimp only | intro

theorem setRoots_keeps {w td : Bool} {z : State} (r : Tab (List Byte)) (b : Tab Nat) (sd : Tab (List Byte)) (s : State)
    (hz : Keeps w td z s) : Keeps w td z (setRoots r b sd s) := by
  unfold setRoots
  repeat' first
    | with_reducible first
      | exact hz | apply mirror_keeps | apply KC.fold
    | (with_reducible apply Keeps.upd; dsimp only) | dsimp only | intro

theorem toldQuorum_keeps {w td : Bool} {z : State} (s : State)
    (hz : Keeps w td z s) : Keeps w td z (toldQuorum s) := by
  unfold toldQuorum
  repeat' first
    | with_reducible first
      | exact hz | apply KC.fold
    | (with_reducible apply Keeps.upd; dsimp only) | dsimp only | intro

theorem mirrorQuorum_keeps {w td : Bool} {z : State} (s : State)
    (hz : Keeps w td z s) : Keeps w td z (mirrorQuorum s) := by
  unfold mirrorQuorum
  repeat' first
    | with_reducible first
      | exact hz | apply raise_keeps | apply mirror_keeps | apply toldQuorum_keeps | apply Keeps.ite
    | split | dsimp only | intro

theorem setCreds_keeps {w td : Bool} {z : State} (l : List Cred) (s : State)
    (hz : Keeps w td z s) : Keeps w td z (setCreds l s) := by
  unfold setCreds
  repeat' first
    | with_reducible first
      | exact hz | assumption | refine Keeps.foldl (fun _ _ _ => ?_) _ ?_
      | refine Keeps.foldl_fst (fun _ _ _ => ?_) _ ?_ | refine Keeps.foldl_snd (fun _ _ _ => ?_) _ ?_
      | apply KC.fold
    | (with_reducible apply Keeps.upd; dsimp only) | dsimp only | intro

theorem lostRegistry_keeps {w td : Bool} {z : State} (s : State)
    (hz : Keeps w td z s) : Keeps w td z (lostRegistry s) := by
  unfold lostRegistry
  repeat' first
    | with_reducible first
      | exact hz | assumption | apply setCreds_keeps | apply KC.fold
    | (with_reducible apply Keeps.upd; dsimp only) | dsimp only | intro

theorem placeJournal_keeps {w td : Bool} {z : State} (r : JRec) (s : State)
    (hz : Keeps w td z s) : Keeps w td z (placeJournal r s) := by
  unfold placeJournal
  repeat' first
    | with_reducible first
      | exact hz | apply KC.fold
    | (with_reducible apply Keeps.upd; dsimp only) | dsimp only | intro

theorem journal_keeps {w td : Bool} {z : State} (id ev scope index cls status : Nat) (digest : List Byte) (s : State)
    (hz : Keeps w td z s) : Keeps w td z (journal id ev scope index cls status digest s) := by
  unfold journal
  repeat' first
    | with_reducible first
      | exact hz | apply mirror_keeps | apply placeJournal_keeps
    | dsimp only | intro

theorem closeProp_keeps {w td : Bool} {z : State} (slot : Nat) (p : Proposal) (ev : Nat) (s : State)
    (hz : Keeps w td z s) : Keeps w td z (closeProp slot p ev s) := by
  unfold closeProp
  repeat' first
    | with_reducible first
      | exact hz | apply bump_keeps | apply evcAdd_keeps | apply mirrorQuorum_keeps | apply journal_keeps
      | apply Keeps.ite | apply KC.fold
    | split | (with_reducible apply Keeps.upd; dsimp only) | dsimp only | intro

theorem consumeToken_keeps {w td : Bool} {z : State} (tok : List Byte) (s : State)
    (hz : Keeps w td z s) : Keeps w td z (consumeToken tok s) := by
  unfold consumeToken
  repeat' first
    | with_reducible first
      | exact hz | apply closeProp_keeps | apply KC.fold
    | split | (with_reducible apply Keeps.upd; dsimp only) | dsimp only | intro

end Sys2Proof.Machine
end

