-- ==== Sys2Proof/Laws/KeepsCold.lean ====
section
/-! SUPPORT. `Keeps` of the operations of Machine/Cold.lean. -/

namespace Sys2Proof.Machine

theorem storeSpan_keeps {td : Bool} {z : State} (a : Nat) (data : List Byte) (s : State)
    (hz : Keeps true td z s) : Keeps true td z (storeSpan a data s) := by
  unfold storeSpan
  repeat' first
    | with_reducible first
      | exact hz | assumption | apply storeMem_keeps | apply Keeps.ite | refine Keeps.foldl (fun _ _ _ => ?_) _ ?_
      | refine Keeps.foldl_fst (fun _ _ _ => ?_) _ ?_ | refine Keeps.foldl_snd (fun _ _ _ => ?_) _ ?_
      | apply KC.fold
    | split | (with_reducible apply Keeps.upd; dsimp only) | dsimp only | intro

theorem evictLine_keeps {td : Bool} {z : State} (s : State) (x : CacheLine)
    (hz : Keeps true td z s) : Keeps true td z (evictLine s x) := by
  unfold evictLine
  repeat' first
    | with_reducible first
      | exact hz | assumption | apply storeSpan_keeps | apply Keeps.ite | apply KC.fold
    | split | (with_reducible apply Keeps.upd; dsimp only) | dsimp only | intro

theorem writeAt_keeps {w td : Bool} {z : State} (slot g : Nat) (o : KeyObj) (s : State)
    (hz : Keeps w td z s) : Keeps w td z (writeAt slot g o s) := by
  unfold writeAt
  repeat' first
    | with_reducible first
      | exact hz | assumption | apply engineBursts_keeps | apply Keeps.ite | apply KC.fold
    | split | (with_reducible apply Keeps.upd; dsimp only) | dsimp only | intro

theorem sealRecord_keeps {w td : Bool} {z : State} (s : State) (slot : Nat)
    (hz : Keeps w td z s) : Keeps w td z (sealRecord s slot) := by
  unfold sealRecord
  repeat' first
    | with_reducible first
      | exact hz | assumption | apply writeAt_keeps | apply KC.fold
    | split | (with_reducible apply Keeps.upd; dsimp only) | dsimp only | intro

theorem flushRecords_keeps {w td : Bool} {z : State} (s : State)
    (hz : Keeps w td z s) : Keeps w td z (flushRecords s) := by
  unfold flushRecords
  repeat' first
    | with_reducible first
      | exact hz | assumption | apply sealRecord_keeps | apply Keeps.ite
      | refine Keeps.foldl (fun _ _ _ => ?_) _ ?_ | apply KC.fold
    | split | (with_reducible apply Keeps.upd; dsimp only) | dsimp only | intro

theorem refetched_keeps {w td : Bool} {z : State} (slot : Nat) (o : KeyObj) (s : State)
    (hz : Keeps w td z s) : Keeps w td z (refetched slot o s) := by
  unfold refetched
  repeat' first
    | with_reducible first
      | exact hz | apply putObj_keeps | apply KC.fold
    | (with_reducible apply Keeps.upd; dsimp only) | dsimp only | intro

theorem awaitedLost_keeps {w td : Bool} {z : State} (s : State)
    (hz : Keeps w td z s) : Keeps w td z (awaitedLost s) := by
  unfold awaitedLost
  repeat' first
    | with_reducible first
      | exact hz | assumption | refine Keeps.foldl (fun _ _ _ => ?_) _ ?_
      | refine Keeps.foldl_fst (fun _ _ _ => ?_) _ ?_ | refine Keeps.foldl_snd (fun _ _ _ => ?_) _ ?_
      | apply KC.fold
    | (with_reducible apply Keeps.upd; dsimp only) | dsimp only | intro

theorem compactOne_keeps {w td : Bool} {z : State} (s : State)
    (hz : Keeps w td z s) : Keeps w td z (compactOne s) := by
  unfold compactOne
  repeat' first
    | with_reducible first
      | exact hz | assumption | apply engineBursts_keeps | apply Keeps.ite | apply KC.fold
    | split | (with_reducible apply Keeps.upd; dsimp only) | dsimp only | intro

end Sys2Proof.Machine
end

