-- ==== Sys2Proof/Laws/KeepsChecks.lean ====
section
/-! SUPPORT. `Keeps` of the operations of Machine/Checks.lean. -/

namespace Sys2Proof.Machine

theorem setQueue_keeps {w td : Bool} {z : State} (slot : Nat) (q : Queue) (s : State)
    (hz : Keeps w td z s) : Keeps w td z (setQueue slot q s) := by
  unfold setQueue
  repeat' first
    | with_reducible first
      | exact hz | apply KC.fold
    | (with_reducible apply Keeps.upd; dsimp only) | dsimp only | intro

theorem setSess_keeps {w td : Bool} {z : State} (i : Nat) (x : Sess) (s : State)
    (hz : Keeps w td z s) : Keeps w td z (setSess i x s) := by
  unfold setSess
  repeat' first
    | with_reducible first
      | exact hz | apply KC.fold
    | (with_reducible apply Keeps.upd; dsimp only) | dsimp only | intro

end Sys2Proof.Machine
end

