-- ==== Sys2Proof/Laws/KeepsPort.lean ====
section
/-! SUPPORT. `Keeps` of the operations of Machine/Port.lean. -/

namespace Sys2Proof.Machine

theorem setEth_keeps {w td : Bool} {z : State} (p : Nat) (e : Eth) (s : State)
    (hz : Keeps w td z s) : Keeps w td z (setEth p e s) := by
  unfold setEth
  repeat' first
    | with_reducible first
      | exact hz | apply KC.fold
    | (with_reducible apply Keeps.upd; dsimp only) | dsimp only | intro

theorem dressed_keeps {w td : Bool} {z : State} (p : Nat) (f : OutEv) (s : State)
    (hz : Keeps w td z s) : Keeps w td z (dressed p f s).2 := by
  unfold dressed
  repeat' first
    | with_reducible first
      | exact hz | apply setEth_keeps | apply Keeps.ite | apply KC.fold
    | split | (with_reducible apply Keeps.upd; dsimp only) | dsimp only | intro

theorem bufferAccess_keeps {w td : Bool} {z : State} (p len : Nat) (k : AccKind) (s : State)
    (hz : Keeps w td z s) : Keeps w td z (bufferAccess p len k s).2 := by
  unfold bufferAccess
  repeat' first
    | with_reducible first
      | exact hz | assumption | apply engineBursts_keeps | apply Keeps.ite
    | split | dsimp only | intro

theorem leave_keeps {w td : Bool} {z : State} (p : Nat) (f : OutEv) (s : State)
    (hz : Keeps w td z s) : Keeps w td z (leave p f s) := by
  unfold leave
  repeat' first
    | with_reducible first
      | exact hz | apply bump_keeps | apply evcAdd_keeps | apply emit_keeps | apply dressed_keeps
      | apply bufferAccess_keeps | apply Keeps.ite
    | split | dsimp only | intro

theorem pastPause_keeps {w td : Bool} {z : State} (p : Nat) (f : OutEv) (s : State)
    (hz : Keeps w td z s) : Keeps w td z (pastPause p f s) := by
  unfold pastPause
  repeat' first
    | with_reducible first
      | exact hz | apply setEth_keeps | apply leave_keeps | apply Keeps.ite | apply KC.fold
    | split | (with_reducible apply Keeps.upd; dsimp only) | dsimp only | intro

theorem ethFrame_keeps {w td : Bool} {z : State} (p kind : Nat) (arg : List Byte) (s : State)
    (hz : Keeps w td z s) : Keeps w td z (ethFrame p kind arg s) := by
  unfold ethFrame
  repeat' first
    | with_reducible first
      | exact hz | apply leave_keeps | apply pastPause_keeps | apply Keeps.ite
    | split | dsimp only | intro

theorem solicit_keeps {w td : Bool} {z : State} (p hop : Nat) (s : State)
    (hz : Keeps w td z s) : Keeps w td z (solicit p hop s) := by
  unfold solicit
  repeat' first
    | with_reducible first
      | exact hz | apply ethFrame_keeps | apply Keeps.ite
    | split | dsimp only | intro

theorem sendFrame_keeps {w td : Bool} {z : State} (p : Nat) (loc : Option Nat) (f0 : OutEv) (s : State)
    (hz : Keeps w td z s) : Keeps w td z (sendFrame p loc f0 s) := by
  unfold sendFrame
  repeat' first
    | with_reducible first
      | exact hz | apply bump_keeps | apply setEth_keeps | apply pastPause_keeps | apply solicit_keeps
      | apply Keeps.ite | apply KC.fold
    | split | (with_reducible apply Keeps.upd; dsimp only) | dsimp only | intro

theorem resolved_keeps {w td : Bool} {z : State} (p hop mac : Nat) (s : State)
    (hz : Keeps w td z s) : Keeps w td z (resolved p hop mac s) := by
  unfold resolved
  repeat' first
    | with_reducible first
      | exact hz | assumption | apply setEth_keeps | apply pastPause_keeps
      | refine Keeps.foldl (fun _ _ _ => ?_) _ ?_ | refine Keeps.foldl_fst (fun _ _ _ => ?_) _ ?_
      | refine Keeps.foldl_snd (fun _ _ _ => ?_) _ ?_ | apply KC.fold
    | split | (with_reducible apply Keeps.upd; dsimp only) | dsimp only | intro

theorem toHost_keeps {w td : Bool} {z : State} (p loc : Nat) (f : OutEv) (s : State)
    (hz : Keeps w td z s) : Keeps w td z (toHost p loc f s) := by
  unfold toHost
  repeat' first
    | with_reducible first
      | exact hz | apply ropeSend_keeps | apply sendFrame_keeps | apply Keeps.ite
    | split | dsimp only | intro

theorem countRx_keeps {w td : Bool} {z : State} (p len : Nat) (s : State)
    (hz : Keeps w td z s) : Keeps w td z (countRx p len s) := by
  unfold countRx
  repeat' first
    | with_reducible first
      | exact hz | apply bump_keeps | apply evcAdd_keeps
    | dsimp only | intro

theorem linkCounts_keeps {w td : Bool} {z : State} (p : Nat) (h : LinkHdr) (s : State)
    (hz : Keeps w td z s) : Keeps w td z (linkCounts p h s) := by
  unfold linkCounts
  repeat' first
    | with_reducible first
      | exact hz | apply bump_keeps
    | dsimp only | intro

theorem pastVlan_keeps {w td : Bool} {z : State} (p : Nat) (h : LinkHdr) (s : State)
    (hz : Keeps w td z s) : Keeps w td z (pastVlan p h s).2 := by
  unfold pastVlan
  repeat' first
    | with_reducible first
      | exact hz | apply bump_keeps | apply Keeps.ite
    | split | dsimp only | intro

theorem securedIn_keeps {w td : Bool} {z : State} (p : Nat) (h : LinkHdr) (payload : List Byte) (s1 : State)
    (hz : Keeps w td z s1) : Keeps w td z (securedIn p h payload s1).2 := by
  unfold securedIn
  repeat' first
    | with_reducible first
      | exact hz | apply bump_keeps | apply setEth_keeps | apply pastVlan_keeps | apply Keeps.ite | apply KC.fold
    | split | (with_reducible apply Keeps.upd; dsimp only) | dsimp only | intro

theorem keeps_pair {w td : Bool} {z : State} {α : Type} (x : α) {s : State} (h : Keeps w td z s) : Keeps w td z (x, s).2 := h

theorem receive_keeps {w td : Bool} {z : State} (p len : Nat) (h : LinkHdr) (payload : List Byte) (s : State)
    (hz : Keeps w td z s) : Keeps w td z (receive p len h payload s).2 := by
  have h1 := countRx_keeps p len _ (linkCounts_keeps p h s hz)
  have h2 := bufferAccess_keeps p len .write _ h1
  unfold receive
  dsimp only
  split
  · exact keeps_pair _ hz
  · split
    · exact keeps_pair _ (linkCounts_keeps p h s hz)
    · split
      · exact keeps_pair _ h2
      · exact securedIn_keeps p h payload _ h1

end Sys2Proof.Machine
end

