-- ==== Sys2Proof/Laws/KeepsLink.lean ====
section
/-! SUPPORT. `Keeps` of the operations of Machine/Link.lean. -/

namespace Sys2Proof.Machine

theorem sendRecord_keeps {w td : Bool} {z : State} (i : Nat) (dseq : Option W32) (b : TolBody) (s : State)
    (hz : Keeps w td z s) : Keeps w td z (sendRecord i dseq b s) := by
  unfold sendRecord
  repeat' first
    | with_reducible first
      | exact hz | assumption | apply evcAdd_keeps | apply setSess_keeps | apply toHost_keeps | apply KC.fold
    | split | (with_reducible apply Keeps.upd; dsimp only) | dsimp only | intro

theorem sendNow_keeps {w td : Bool} {z : State} (i : Nat) (x : Sess) (b : TolBody) (stage held : Nat) (s : State)
    (hz : Keeps w td z s) : Keeps w td z (sendNow i x b stage held s) := by
  unfold sendNow
  repeat' first
    | with_reducible first
      | exact hz | apply setSess_keeps | apply sendRecord_keeps | apply KC.fold
    | split | (with_reducible apply Keeps.upd; dsimp only) | dsimp only | intro

theorem tolSend_keeps {w td : Bool} {z : State} (i : Nat) (b : TolBody) (stage held : Nat) (s : State)
    (hz : Keeps w td z s) : Keeps w td z (tolSend i b stage held s) := by
  unfold tolSend
  repeat' first
    | with_reducible first
      | exact hz | apply setSess_keeps | apply sendNow_keeps | apply Keeps.ite | apply KC.fold
    | split | (with_reducible apply Keeps.upd; dsimp only) | dsimp only | intro

theorem drainBlocked_keeps {w td : Bool} {z : State} (i : Nat) : ∀ (n : Nat) (s : State),
    Keeps w td z s → Keeps w td z (drainBlocked i n s)
  | 0, _, h => h
  | n + 1, s, h => by
    simp only [drainBlocked]
    split
    · exact h
    · split
      · exact h
      · exact Keeps.ite (drainBlocked_keeps i n _ (sendNow_keeps _ _ _ _ _ _ h)) h

theorem sendResult_keeps {w td : Bool} {z : State} (i qnum : Nat) (entry : W32) (b : List Byte) (stage held : Nat) (s : State)
    (hz : Keeps w td z s) : Keeps w td z (sendResult i qnum entry b stage held s) := by
  unfold sendResult
  repeat' first
    | with_reducible first
      | exact hz | assumption | apply tolSend_keeps | apply Keeps.ite | refine Keeps.foldl (fun _ _ _ => ?_) _ ?_
      | refine Keeps.foldl_fst (fun _ _ _ => ?_) _ ?_ | refine Keeps.foldl_snd (fun _ _ _ => ?_) _ ?_
      | apply KC.fold
    | split | (with_reducible apply Keeps.upd; dsimp only) | dsimp only | intro

theorem sendAck_keeps {w td : Bool} {z : State} (i : Nat) (s : State)
    (hz : Keeps w td z s) : Keeps w td z (sendAck i s) := by
  unfold sendAck
  repeat' first
    | with_reducible first
      | exact hz | apply sendRecord_keeps | apply KC.fold
    | split | (with_reducible apply Keeps.upd; dsimp only) | dsimp only | intro

theorem sendPairMove_keeps {w td : Bool} {z : State} (i kind : Nat) (s : State)
    (hz : Keeps w td z s) : Keeps w td z (sendPairMove i kind s) := by
  unfold sendPairMove
  repeat' first
    | with_reducible first
      | exact hz | apply sendRecord_keeps | apply KC.fold
    | split | (with_reducible apply Keeps.upd; dsimp only) | dsimp only | intro

theorem mirrorSession_keeps {w td : Bool} {z : State} (i ev : Nat) (s : State)
    (hz : Keeps w td z s) : Keeps w td z (mirrorSession i ev s) := by
  unfold mirrorSession
  repeat' first
    | with_reducible first
      | exact hz | apply ropeSend_keeps | apply Keeps.ite | apply KC.fold
    | split | (with_reducible apply Keeps.upd; dsimp only) | dsimp only | intro

theorem abandonUpdate_keeps {w td : Bool} {z : State} (i : Nat) (s : State)
    (hz : Keeps w td z s) : Keeps w td z (abandonUpdate i s) := by
  unfold abandonUpdate
  repeat' first
    | with_reducible first
      | exact hz | apply Keeps.ite | apply KC.fold
    | split | (with_reducible apply Keeps.upd; dsimp only) | dsimp only | intro

theorem countEnd_keeps {w td : Bool} {z : State} (reason : Nat) (s : State)
    (hz : Keeps w td z s) : Keeps w td z (countEnd reason s) := by
  unfold countEnd
  repeat' first
    | with_reducible first
      | exact hz | apply bump_keeps | apply evcAdd_keeps | apply Keeps.ite
    | split | dsimp only | intro

theorem stopSession_keeps {w td : Bool} {z : State} (i : Nat) (x : Sess) (s : State)
    (hz : Keeps w td z s) : Keeps w td z (stopSession i x s) := by
  unfold stopSession
  repeat' first
    | with_reducible first
      | exact hz | assumption | apply Keeps.ite | apply KC.fold
    | split | (with_reducible apply Keeps.upd; dsimp only) | dsimp only | intro

theorem sendClose_keeps {w td : Bool} {z : State} (i reason status : Nat) (s : State)
    (hz : Keeps w td z s) : Keeps w td z (sendClose i reason status s) := by
  unfold sendClose
  repeat' first
    | with_reducible first
      | exact hz | apply setSess_keeps | apply sendRecord_keeps | apply Keeps.ite | apply KC.fold
    | split | (with_reducible apply Keeps.upd; dsimp only) | dsimp only | intro

theorem endSession_keeps {w td : Bool} {z : State} (i reason status : Nat) (s : State)
    (hz : Keeps w td z s) : Keeps w td z (endSession i reason status s) := by
  unfold endSession
  repeat' first
    | with_reducible first
      | exact hz | apply mirrorSession_keeps | apply abandonUpdate_keeps | apply countEnd_keeps
      | apply stopSession_keeps | apply sendClose_keeps | apply Keeps.ite | apply KC.fold
    | split | (with_reducible apply Keeps.upd; dsimp only) | dsimp only | intro

theorem endSessions_keeps {w td : Bool} {z : State} (p : Sess → Bool) (reason status : Nat) (s : State)
    (hz : Keeps w td z s) : Keeps w td z (endSessions p reason status s) := by
  unfold endSessions
  repeat' first
    | with_reducible first
      | exact hz | assumption | apply endSession_keeps | apply Keeps.ite
      | refine Keeps.foldl (fun _ _ _ => ?_) _ ?_ | refine Keeps.foldl_fst (fun _ _ _ => ?_) _ ?_
      | refine Keeps.foldl_snd (fun _ _ _ => ?_) _ ?_
    | split | dsimp only | intro

theorem settleClose_keeps {w td : Bool} {z : State} (i : Nat) (x : Sess) (s : State)
    (hz : Keeps w td z s) : Keeps w td z (settleClose i x s) := by
  unfold settleClose
  repeat' first
    | with_reducible first
      | exact hz | apply setSess_keeps | apply sendRecord_keeps | apply Keeps.ite | apply KC.fold
    | split | (with_reducible apply Keeps.upd; dsimp only) | dsimp only | intro

theorem countUpdate_keeps {w td : Bool} {z : State} (s : State)
    (hz : Keeps w td z s) : Keeps w td z (countUpdate s) := by
  unfold countUpdate
  repeat' first
    | with_reducible first
      | exact hz | apply bump_keeps | apply evcAdd_keeps
    | dsimp only | intro

theorem settleUpdate_keeps {w td : Bool} {z : State} (i : Nat) (x : Sess) (s : State)
    (hz : Keeps w td z s) : Keeps w td z (settleUpdate i x s) := by
  unfold settleUpdate
  repeat' first
    | with_reducible first
      | exact hz | apply setSess_keeps | apply tolSend_keeps | apply countUpdate_keeps | apply Keeps.ite
      | apply KC.fold
    | split | (with_reducible apply Keeps.upd; dsimp only) | dsimp only | intro

theorem settleAck_keeps {w td : Bool} {z : State} (i : Nat) (x : Sess) (s : State)
    (hz : Keeps w td z s) : Keeps w td z (settleAck i x s) := by
  unfold settleAck
  repeat' first
    | with_reducible first
      | exact hz | assumption | apply setSess_keeps | apply sendAck_keeps | apply KC.fold
    | split | (with_reducible apply Keeps.upd; dsimp only) | dsimp only | intro

theorem onSess_keeps {w td : Bool} {z : State} (i : Nat) (f : Nat → Sess → State → State) (s : State)
    (hf : ∀ (y0 : Nat) (y1 : Sess) (y2 : State), Keeps w td z y2 → Keeps w td z (f y0 y1 y2))
    (hz : Keeps w td z s) : Keeps w td z (onSess i f s) := by
  unfold onSess
  repeat' first
    | with_reducible first
      | exact hz | assumption | apply hf | apply KC.fold
    | split | (with_reducible apply Keeps.upd; dsimp only) | dsimp only | intro

theorem settleSess_keeps {w td : Bool} {z : State} (i : Nat) (s : State)
    (hz : Keeps w td z s) : Keeps w td z (settleSess i s) := by
  unfold settleSess
  repeat' first
    | with_reducible first
      | exact hz | apply settleClose_keeps | apply settleUpdate_keeps | apply settleAck_keeps | apply onSess_keeps
    | dsimp only | intro

theorem settlePidx_keeps {w td : Bool} {z : State} (slot : Nat) (s : State)
    (hz : Keeps w td z s) : Keeps w td z (settlePidx slot s) := by
  unfold settlePidx
  repeat' first
    | with_reducible first
      | exact hz | assumption | apply setQueue_keeps | apply KC.fold
    | split | (with_reducible apply Keeps.upd; dsimp only) | dsimp only | intro

theorem sendAccept_keeps {w td : Bool} {z : State} (p : Nat) (h : Handshake) (s : State)
    (hz : Keeps w td z s) : Keeps w td z (sendAccept p h s) := by
  unfold sendAccept
  repeat' first
    | with_reducible first
      | exact hz | assumption | apply toHost_keeps | refine Keeps.foldl (fun _ _ _ => ?_) _ ?_
      | refine Keeps.foldl_fst (fun _ _ _ => ?_) _ ?_ | refine Keeps.foldl_snd (fun _ _ _ => ?_) _ ?_
    | dsimp only | intro

theorem settleAccepts_keeps {w td : Bool} {z : State} (p : Nat) (s : State)
    (hz : Keeps w td z s) : Keeps w td z (settleAccepts p s) := by
  unfold settleAccepts
  repeat' first
    | with_reducible first
      | exact hz | assumption | apply setEth_keeps | apply sendAccept_keeps | apply Keeps.ite
      | refine Keeps.foldl (fun _ _ _ => ?_) _ ?_ | refine Keeps.foldl_fst (fun _ _ _ => ?_) _ ?_
      | refine Keeps.foldl_snd (fun _ _ _ => ?_) _ ?_ | apply KC.fold
    | split | (with_reducible apply Keeps.upd; dsimp only) | dsimp only | intro

theorem settleAll_keeps {w td : Bool} {z : State} (s : State)
    (hz : Keeps w td z s) : Keeps w td z (settleAll s) := by
  unfold settleAll
  repeat' first
    | with_reducible first
      | exact hz | assumption | apply settleSess_keeps | apply settlePidx_keeps | apply settleAccepts_keeps
      | refine Keeps.foldl (fun _ _ _ => ?_) _ ?_ | refine Keeps.foldl_fst (fun _ _ _ => ?_) _ ?_
      | refine Keeps.foldl_snd (fun _ _ _ => ?_) _ ?_
    | dsimp only | intro

end Sys2Proof.Machine
end

