-- ==== Sys2Proof/Laws/KeepsReplicate.lean ====
section
/-! SUPPORT. `Keeps` of the operations of Machine/Replicate.lean. -/

namespace Sys2Proof.Machine

theorem fabricSend_keeps {w td : Bool} {z : State} (dst port : Nat) (b : RopeBody) (s : State)
    (hz : Keeps w td z s) : Keeps w td z (fabricSend dst port b s) := by
  unfold fabricSend
  repeat' first
    | with_reducible first
      | exact hz | apply bump_keeps | apply evcAdd_keeps | apply emit_keeps | apply KC.fold
    | (with_reducible apply Keeps.upd; dsimp only) | dsimp only | intro

theorem replicateSend_keeps {w td : Bool} {z : State} (r : Repl) (s : State)
    (hz : Keeps w td z s) : Keeps w td z (replicateSend r s) := by
  unfold replicateSend
  repeat' first
    | with_reducible first
      | exact hz | apply bump_keeps | apply fabricSend_keeps | apply Keeps.ite | apply KC.fold
    | split | (with_reducible apply Keeps.upd; dsimp only) | dsimp only | intro

theorem replicateTo_keeps {w td : Bool} {z : State} (oper slot gen : Nat) (s : State) (member : Nat)
    (hz : Keeps w td z s) : Keeps w td z (replicateTo oper slot gen s member) := by
  unfold replicateTo
  repeat' first
    | with_reducible first
      | exact hz | apply replicateSend_keeps | apply Keeps.ite | apply KC.fold
    | split | (with_reducible apply Keeps.upd; dsimp only) | dsimp only | intro

theorem replicaDrawn_keeps {w td : Bool} {z : State} (member slot gen oper : Nat) (salt : List Byte) (s : State)
    (hz : Keeps w td z s) : Keeps w td z (replicaDrawn member slot gen oper salt s) := by
  unfold replicaDrawn
  repeat' first
    | with_reducible first
      | exact hz | assumption | apply replicateSend_keeps | apply Keeps.ite | apply KC.fold
    | split | (with_reducible apply Keeps.upd; dsimp only) | dsimp only | intro

theorem replicateAll_keeps {w td : Bool} {z : State} (oper slot gen : Nat) (s : State)
    (hz : Keeps w td z s) : Keeps w td z (replicateAll oper slot gen s) := by
  unfold replicateAll
  repeat' first
    | with_reducible first
      | exact hz | assumption | apply replicateTo_keeps | apply Keeps.ite
      | refine Keeps.foldl (fun _ _ _ => ?_) _ ?_
    | split | dsimp only | intro

theorem replicateSlot_keeps {w td : Bool} {z : State} (oper : Nat) (s : State) (slot : Nat)
    (hz : Keeps w td z s) : Keeps w td z (replicateSlot oper s slot) := by
  unfold replicateSlot
  repeat' first
    | with_reducible first
      | exact hz | apply replicateAll_keeps | apply Keeps.ite | apply KC.fold
    | split | (with_reducible apply Keeps.upd; dsimp only) | dsimp only | intro

theorem replicateRelease_keeps {w td : Bool} {z : State} (j : Job) (r : Res) (s : State)
    (hz : Keeps w td z s) : Keeps w td z (replicateRelease j r s) := by
  unfold replicateRelease
  repeat' first
    | with_reducible first
      | exact hz | assumption | apply replicateAll_keeps | apply replicateSlot_keeps | apply Keeps.ite
      | refine Keeps.foldl (fun _ _ _ => ?_) _ ?_
    | split | dsimp only | intro

end Sys2Proof.Machine
end

