-- ==== Sys2Proof/Laws/KeepsJobs.lean ====
section
/-! SUPPORT. `Keeps` of the operations of Machine/Jobs.lean. -/

namespace Sys2Proof.Machine

theorem countRefusal_keeps {w td : Bool} {z : State} (h : Header) (st : Nat) (s : State)
    (hz : Keeps w td z s) : Keeps w td z (countRefusal h st s) := by
  unfold countRefusal
  repeat' first
    | with_reducible first
      | exact hz | apply bump_keeps | apply Keeps.ite
    | split | dsimp only | intro

theorem endNamed_keeps {w td : Bool} {z : State} (j : Job) (st : Nat) (s : State)
    (hz : Keeps w td z s) : Keeps w td z (endNamed j st s) := by
  unfold endNamed
  repeat' first
    | with_reducible first
      | exact hz | apply endStreamOf_keeps | apply Keeps.ite
    | split | dsimp only | intro

theorem refuseAtFetch_keeps {w td : Bool} {z : State} (ctx : Nat) (j : Job) (st : Nat) (s : State)
    (hz : Keeps w td z s) : Keeps w td z (refuseAtFetch ctx j st s) := by
  unfold refuseAtFetch
  repeat' first
    | with_reducible first
      | exact hz | apply endJob_keeps | apply countRefusal_keeps | apply endNamed_keeps | apply KC.fold
    | (with_reducible apply Keeps.upd; dsimp only) | dsimp only | intro

theorem modStream_keeps {w td : Bool} {z : State} (j : Job) (f : Stream → Stream) (s : State)
    (hz : Keeps w td z s) : Keeps w td z (modStream j f s) := by
  unfold modStream
  repeat' first
    | with_reducible first
      | exact hz | assumption | apply Keeps.ite | apply KC.fold
    | split | (with_reducible apply Keeps.upd; dsimp only) | dsimp only | intro

theorem claimStream_keeps {w td : Bool} {z : State} (j : Job) (s : State)
    (hz : Keeps w td z s) : Keeps w td z (claimStream j s) := by
  unfold claimStream
  repeat' first
    | with_reducible first
      | exact hz | apply mirror_keeps | apply modStream_keeps | apply Keeps.ite | apply KC.fold
    | split | (with_reducible apply Keeps.upd; dsimp only) | dsimp only | intro

theorem serveSalts_keeps {w td : Bool} {z : State} (s : State)
    (hz : Keeps w td z s) : Keeps w td z (serveSalts s) := by
  unfold serveSalts
  repeat' first
    | with_reducible first
      | exact hz | assumption | apply setJob_keeps | apply Keeps.ite | refine Keeps.foldl (fun _ _ _ => ?_) _ ?_
      | refine Keeps.foldl_fst (fun _ _ _ => ?_) _ ?_ | refine Keeps.foldl_snd (fun _ _ _ => ?_) _ ?_
      | apply KC.fold
    | split | (with_reducible apply Keeps.upd; dsimp only) | dsimp only | intro

theorem sendAway_keeps {w td : Bool} {z : State} (ctx : Nat) (j : Job) (s : State)
    (hz : Keeps w td z s) : Keeps w td z (sendAway ctx j s) := by
  unfold sendAway
  repeat' first
    | with_reducible first
      | exact hz | assumption | apply bump_keeps | apply freeUnits_keeps | apply forwardJob_keeps | apply KC.fold
    | (with_reducible apply Keeps.upd; dsimp only) | dsimp only | intro

theorem acceptEntry_keeps {w td : Bool} {z : State} (ctx : Nat) (j : Job) (s : State)
    (hz : Keeps w td z s) : Keeps w td z (acceptEntry ctx j s) := by
  unfold acceptEntry
  repeat' first
    | with_reducible first
      | exact hz | assumption | apply bump_keeps | apply setJob_keeps | apply reserveDraw_keeps
      | apply claimStream_keeps | apply serveSalts_keeps | apply sendAway_keeps | apply Keeps.ite
      | apply KC.emitted | apply KC.fold
    | split | (with_reducible apply Keeps.upd; dsimp only) | dsimp only | intro

theorem skipEntry_keeps {w td : Bool} {z : State} (ctx : Nat) (j : Job) (q : Queue) (s : State)
    (hz : Keeps w td z s) : Keeps w td z (skipEntry ctx j q s) := by
  unfold skipEntry
  repeat' first
    | with_reducible first
      | exact hz | assumption | apply setQueue_keeps | apply Keeps.ite | apply KC.fold
    | split | (with_reducible apply Keeps.upd; dsimp only) | dsimp only | intro

theorem checkEntry_keeps {w td : Bool} {z : State} (ctx : Nat) (j : Job) (s : State)
    (hz : Keeps w td z s) : Keeps w td z (checkEntry ctx j s) := by
  unfold checkEntry
  repeat' first
    | with_reducible first
      | exact hz | apply refuseAtFetch_keeps | apply acceptEntry_keeps | apply skipEntry_keeps | apply Keeps.ite
      | apply KC.fold
    | split | (with_reducible apply Keeps.upd; dsimp only) | dsimp only | intro

theorem passEntry_keeps {w td : Bool} {z : State} (slot : Nat) (q : Queue) (e len : Nat) (s : State)
    (hz : Keeps w td z s) : Keeps w td z (passEntry slot q e len s) := by
  unfold passEntry
  repeat' first
    | with_reducible first
      | exact hz | apply bump_keeps | apply evcAdd_keeps | apply mirror_keeps | apply setQueue_keeps
      | apply Keeps.ite | apply KC.fold
    | split | (with_reducible apply Keeps.upd; dsimp only) | dsimp only | intro

theorem fetchBody_keeps {w td : Bool} {z : State} (slot ctx : Nat) (q : Queue) (j : Job) (s : State)
    (hz : Keeps w td z s) : Keeps w td z (fetchBody slot ctx q j s) := by
  unfold fetchBody
  repeat' first
    | with_reducible first
      | exact hz | apply setJob_keeps | apply engineBursts_keeps | apply checkEntry_keeps | apply passEntry_keeps
      | apply Keeps.ite | apply KC.fold
    | split | (with_reducible apply Keeps.upd; dsimp only) | dsimp only | intro

theorem fetchStep_keeps {w td : Bool} {z : State} (slot : Nat) (s : State)
    (hz : Keeps w td z s) : Keeps w td z (fetchStep slot s) := by
  unfold fetchStep
  repeat' first
    | with_reducible first
      | exact hz | assumption | apply bump_keeps | apply setJob_keeps | apply engineAccess_keeps
      | apply refuseAtFetch_keeps | apply passEntry_keeps | apply fetchBody_keeps | apply Keeps.ite | apply KC.fold
    | split | (with_reducible apply Keeps.upd; dsimp only) | dsimp only | intro

theorem refuseBare_keeps {w td : Bool} {z : State} (slot : Nat) (q : Queue) (h : Header) (st len : Nat) (s : State)
    (hz : Keeps w td z s) : Keeps w td z (refuseBare slot q h st len s) := by
  unfold refuseBare
  repeat' first
    | with_reducible first
      | exact hz | assumption | apply endJob_keeps | apply endNamed_keeps | apply passEntry_keeps | apply KC.fold
    | (with_reducible apply Keeps.upd; dsimp only) | dsimp only | intro

theorem refuseNoContext_keeps {w td : Bool} {z : State} (slot : Nat) (s : State)
    (hz : Keeps w td z s) : Keeps w td z (refuseNoContext slot s) := by
  unfold refuseNoContext
  repeat' first
    | with_reducible first
      | exact hz | apply bump_keeps | apply setQueue_keeps | apply engineAccess_keeps | apply refuseBare_keeps
      | apply Keeps.ite | apply KC.fold
    | split | (with_reducible apply Keeps.upd; dsimp only) | dsimp only | intro

theorem commitJob_keeps {w td : Bool} {z : State} (j : Job) (s : State)
    (hz : Keeps w td z s) : Keeps w td z (commitJob j s) := by
  unfold commitJob
  repeat' first
    | with_reducible first
      | exact hz | assumption | apply consumeToken_keeps | apply modStream_keeps | apply Keeps.ite | apply KC.fold
    | split | (with_reducible apply Keeps.upd; dsimp only) | dsimp only | intro

theorem countSegment_keeps {w td : Bool} {z : State} (u : Nat) (s : State)
    (hz : Keeps w td z s) : Keeps w td z (countSegment u s) := by
  unfold countSegment
  repeat' first
    | with_reducible first
      | exact hz | apply evcAdd_keeps | apply Keeps.ite
    | split | dsimp only | intro

theorem bindNonce_keeps {w td : Bool} {z : State} (j : Job) (s : State)
    (hz : Keeps w td z s) : Keeps w td z (bindNonce j s).2 := by
  unfold bindNonce
  repeat' first
    | with_reducible first
      | exact hz | apply mirror_keeps | apply countObj_keeps | apply Keeps.ite | apply KC.fold
    | split | (with_reducible apply Keeps.upd; dsimp only) | dsimp only | intro

theorem inputAccess_keeps {w td : Bool} {z : State} (u ctx : Nat) (j : Job) (s : State)
    (hz : Keeps w td z s) : Keeps w td z (inputAccess u ctx j s).2 := by
  unfold inputAccess
  repeat' first
    | with_reducible first
      | exact hz | apply engineBursts_keeps | apply KC.fold
    | split | (with_reducible apply Keeps.upd; dsimp only) | dsimp only | intro

theorem outputAccess_keeps {w td : Bool} {z : State} (u ctx : Nat) (j : Job) (s : State)
    (hz : Keeps w td z s) : Keeps w td z (outputAccess u ctx j s).2 := by
  unfold outputAccess
  repeat' first
    | with_reducible first
      | exact hz | assumption | apply engineBursts_keeps
    | dsimp only | intro

theorem startJob_keeps {td : Bool} {z : State} (ctx : Nat) (j : Job) (u : Option Nat) (b : Nat) (s : State)
    (hz : Keeps true td z s) : Keeps true td z (startJob ctx j u b s) := by
  unfold startJob
  repeat' first
    | with_reducible first
      | exact hz | apply bump_keeps | apply evcAdd_keeps | apply setUnit_keeps | apply setJob_keeps
      | apply refuseJob_keeps | apply commitJob_keeps | apply countSegment_keeps | apply bindNonce_keeps
      | apply Keeps.ite | apply KC.wrote | apply KC.cleared | apply KC.filtered | apply KC.fold
    | split | (with_reducible apply Keeps.upd; dsimp only) | dsimp only | intro

theorem stage_keeps {w td : Bool} {z : State} (ctx : Nat) (j : Job) (r : Res) (s : State)
    (hz : Keeps w td z s) : Keeps w td z (stage ctx j r s) := by
  unfold stage
  repeat' first
    | with_reducible first
      | exact hz | apply setJob_keeps | apply KC.fold
    | (with_reducible apply Keeps.upd; dsimp only) | dsimp only | intro

theorem stageDone_keeps {w td : Bool} {z : State} (ctx : Nat) (j : Job) (r : Res) (s : State)
    (hz : Keeps w td z s) : Keeps w td z (stageDone ctx j r s) := by
  unfold stageDone
  repeat' first
    | with_reducible first
      | exact hz | apply stage_keeps | apply KC.fold
    | (with_reducible apply Keeps.upd; dsimp only) | dsimp only | intro

theorem mirrorMade_keeps {w td : Bool} {z : State} (s0 : State) (j : Job) (r : Res) (s : State)
    (hz : Keeps w td z s) : Keeps w td z (mirrorMade s0 j r s) := by
  unfold mirrorMade
  repeat' first
    | with_reducible first
      | exact hz | apply mirror_keeps | apply Keeps.ite
    | split | dsimp only | intro

theorem stageOwn_keeps {w td : Bool} {z : State} (s0 : State) (ctx : Nat) (j : Job) (r : Res) (s : State)
    (hz : Keeps w td z s) : Keeps w td z (stageOwn s0 ctx j r s) := by
  unfold stageOwn
  repeat' first
    | with_reducible first
      | exact hz | apply stageDone_keeps | apply mirrorMade_keeps | apply KC.fold
    | (with_reducible apply Keeps.upd; dsimp only) | dsimp only | intro

theorem answered_keeps {w td : Bool} {z : State} (s0 : State) (ctx : Nat) (j : Job) (r : State × Res)
    (hz : Keeps w td z r.1) : Keeps w td z (answered s0 ctx j r) := stage_keeps _ _ _ _ (mirrorMade_keeps _ _ _ _ hz)

theorem runOp_keeps {w td : Bool} {z : State} (op ctx : Nat) (f : Job → State → State × Res) (s : State)
    (hf : ∀ (y0 : Job) (y1 : State), Keeps w td z y1 → Keeps w td z (f y0 y1).1)
    (hz : Keeps w td z s) : Keeps w td z (runOp op ctx f s) := by
  unfold runOp
  repeat' first
    | with_reducible first
      | exact hz | assumption | apply answered_keeps | apply hf | apply KC.fold
    | split | (with_reducible apply Keeps.upd; dsimp only) | dsimp only | intro

theorem asAdmin_keeps {w td : Bool} {z : State} (op ctx : Nat) (f : Job → State) (s : State)
    (hf : ∀ y, Keeps w td z (f y)) (hz : Keeps w td z s) : Keeps w td z (asAdmin op ctx f s) := by
  unfold asAdmin
  repeat' first
    | with_reducible first
      | exact hz | exact hf _ | apply stageDone_keeps | apply KC.fold
    | split | (with_reducible apply Keeps.upd; dsimp only) | dsimp only | intro

theorem runAdmin_keeps {w td : Bool} {z : State} (op ctx : Nat) (f : Job → State → State × Res) (s : State)
    (hf : ∀ (y0 : Job) (y1 : State), Keeps w td z y1 → Keeps w td z (f y0 y1).1)
    (hz : Keeps w td z s) : Keeps w td z (runAdmin op ctx f s) := by
  unfold runAdmin
  repeat' first
    | with_reducible first
      | exact hz | assumption | apply setJob_keeps | apply stageOwn_keeps | apply asAdmin_keeps | apply hf
    | dsimp only | intro

theorem fail_keeps {w td : Bool} {z : State} (st : Nat) (s : State)
    (hz : Keeps w td z s) : Keeps w td z (fail st s).1 := by
  unfold fail
  repeat' first
    | with_reducible first
      | exact hz
    | dsimp only | intro

theorem countRelease_keeps {w td : Bool} {z : State} (j : Job) (r : Res) (s : State)
    (hz : Keeps w td z s) : Keeps w td z (countRelease j r s) := by
  unfold countRelease
  repeat' first
    | with_reducible first
      | exact hz | apply bump_keeps | apply evcAdd_keeps | apply Keeps.ite | apply KC.fold
    | split | (with_reducible apply Keeps.upd; dsimp only) | dsimp only | intro

theorem markReleased_keeps {w td : Bool} {z : State} (j : Job) (s : State)
    (hz : Keeps w td z s) : Keeps w td z (markReleased j s) := by
  unfold markReleased
  repeat' first
    | with_reducible first
      | exact hz | assumption | apply Keeps.ite | apply KC.fold
    | split | (with_reducible apply Keeps.upd; dsimp only) | dsimp only | intro

theorem endLate_keeps {w td : Bool} {z : State} (j : Job) (s : State)
    (hz : Keeps w td z s) : Keeps w td z (endLate j s) := by
  unfold endLate
  repeat' first
    | with_reducible first
      | exact hz | assumption | apply dropStream_keeps | apply Keeps.ite | apply KC.fold
    | split | (with_reducible apply Keeps.upd; dsimp only) | dsimp only | intro

theorem streamAfter_keeps {w td : Bool} {z : State} (b : Nat) (j : Job) (r : Res) (s : State)
    (hz : Keeps w td z s) : Keeps w td z (streamAfter b j r s) := by
  unfold streamAfter
  repeat' first
    | with_reducible first
      | exact hz | assumption | apply endStreamOf_keeps | apply modStream_keeps | apply endLate_keeps
      | apply Keeps.ite | apply KC.fold
    | split | (with_reducible apply Keeps.upd; dsimp only) | dsimp only | intro

theorem writeRing_keeps {td : Bool} {z : State} (master : Nat) (q : Queue) (i : Nat) (b : List Byte) (s : State)
    (hz : Keeps true td z s) : Keeps true td z (writeRing master q i b s) := by
  unfold writeRing
  repeat' first
    | with_reducible first
      | exact hz | assumption | apply engineWrite_keeps | refine Keeps.foldl (fun _ _ _ => ?_) _ ?_
      | refine Keeps.foldl_fst (fun _ _ _ => ?_) _ ?_ | refine Keeps.foldl_snd (fun _ _ _ => ?_) _ ?_
    | dsimp only | intro

theorem writeInternal_keeps {td : Bool} {z : State} (j : Job) (q : Queue) (r : Res) (s : State)
    (hz : Keeps true td z s) : Keeps true td z (writeInternal j q r s) := by
  unfold writeInternal
  repeat' first
    | with_reducible first
      | exact hz | apply emit_keeps | apply writeRing_keeps
    | dsimp only | intro

theorem deliver_keeps {td : Bool} {z : State} (j : Job) (r : Res) (s : State)
    (hz : Keeps true td z s) : Keeps true td z (deliver j r s) := by
  unfold deliver
  repeat' first
    | with_reducible first
      | exact hz | apply ropeSend_keeps | apply sendResult_keeps | apply stage_keeps | apply writeInternal_keeps
      | apply Keeps.ite | apply KC.fold
    | split | (with_reducible apply Keeps.upd; dsimp only) | dsimp only | intro

theorem releaseJob_keeps {td : Bool} {z : State} (ctx : Nat) (j : Job) (r : Res) (b : Nat) (s : State)
    (hz : Keeps true td z s) : Keeps true td z (releaseJob ctx j r b s) := by
  unfold releaseJob
  repeat' first
    | with_reducible first
      | exact hz | assumption | apply replicateRelease_keeps | apply countRelease_keeps | apply markReleased_keeps
      | apply streamAfter_keeps | apply deliver_keeps | apply Keeps.ite | apply KC.fold
    | split | (with_reducible apply Keeps.upd; dsimp only) | dsimp only | intro

theorem releaseAll_keeps {td : Bool} {z : State} (b : Nat) (s : State)
    (hz : Keeps true td z s) : Keeps true td z (releaseAll b s) := by
  unfold releaseAll
  repeat' first
    | with_reducible first
      | exact hz | assumption | apply releaseJob_keeps | apply Keeps.ite
      | refine Keeps.foldl (fun _ _ _ => ?_) _ ?_ | refine Keeps.foldl_fst (fun _ _ _ => ?_) _ ?_
      | refine Keeps.foldl_snd (fun _ _ _ => ?_) _ ?_ | apply KC.fold
    | split | (with_reducible apply Keeps.upd; dsimp only) | dsimp only | intro

theorem writeHead_keeps {td : Bool} {z : State} (slot : Nat) (q : Queue) (s : State)
    (hz : Keeps true td z s) : Keeps true td z (writeHead slot q s) := by
  unfold writeHead
  repeat' first
    | with_reducible first
      | exact hz | assumption | apply raise_keeps | apply setQueue_keeps | apply engineWrite_keeps | apply KC.fold
    | split | (with_reducible apply Keeps.upd; dsimp only) | dsimp only | intro

theorem moveHead_keeps {td : Bool} {z : State} (slot : Nat) (q : Queue) (h : W32) (s : State)
    (hz : Keeps true td z s) : Keeps true td z (moveHead slot q h s) := by
  unfold moveHead
  repeat' first
    | with_reducible first
      | exact hz | apply setQueue_keeps | apply tolSend_keeps | apply writeHead_keeps | apply Keeps.ite
      | apply KC.fold
    | split | (with_reducible apply Keeps.upd; dsimp only) | dsimp only | intro

theorem advanceHead_keeps {td : Bool} {z : State} (slot : Nat) (s : State)
    (hz : Keeps true td z s) : Keeps true td z (advanceHead slot s) := by
  unfold advanceHead
  repeat' first
    | with_reducible first
      | exact hz | assumption | apply ropeSend_keeps | apply setQueue_keeps | apply moveHead_keeps
      | apply Keeps.ite | refine Keeps.foldl (fun _ _ _ => ?_) _ ?_ | apply KC.fold
    | split | (with_reducible apply Keeps.upd; dsimp only) | dsimp only | intro

theorem abortJob_keeps {td : Bool} {z : State} (b ctx : Nat) (j : Job) (s : State)
    (hz : Keeps true td z s) : Keeps true td z (abortJob b ctx j s) := by
  unfold abortJob
  repeat' first
    | with_reducible first
      | exact hz | apply endStreamOf_keeps | apply burnLeaf_keeps | apply releaseJob_keeps | apply KC.fold
    | (with_reducible apply Keeps.upd; dsimp only) | dsimp only | intro

theorem awaitJob_keeps {w td : Bool} {z : State} (slot : Nat) (i : W32) (n : Nat) (s : State)
    (hz : Keeps w td z s) : Keeps w td z (awaitJob slot i n s) := by
  unfold awaitJob
  repeat' first
    | with_reducible first
      | exact hz | assumption | apply setQueue_keeps | apply KC.fold
    | split | (with_reducible apply Keeps.upd; dsimp only) | dsimp only | intro

theorem abortRing_keeps {td : Bool} {z : State} (b slot : Nat) (q : Queue) (p : W32) :
    ∀ (n : Nat) (x : Bool) (i : W32) (k : Nat) (s : State), Keeps true td z s →
      Keeps true td z (abortRing b slot q p n x i k s).2
  | 0, _, _, _, _, h => h
  | n + 1, x, i, k, s, h => by
    simp only [abortRing]
    split
    · exact h
    · split
      · exact abortRing_keeps b slot q p n _ _ _ _ (awaitJob_keeps _ _ _ _ (engineAccess_keeps _ _ _ _ _ _ h))
      · exact abortRing_keeps b slot q p n _ _ _ _
          (deliver_keeps _ _ _ (countRelease_keeps _ _ _ (endNamed_keeps _ _ _ (engineAccess_keeps _ _ _ _ _ _ h))))

theorem beginTeardown_keeps {td : Bool} {z : State} (b slot : Nat) (s : State)
    (hz : Keeps true td z s) : Keeps true td z (beginTeardown b slot s) := by
  unfold beginTeardown
  repeat' first
    | with_reducible first
      | exact hz | assumption | apply mirror_keeps | apply setQueue_keeps | apply abortJob_keeps
      | apply abortRing_keeps | apply Keeps.ite | refine Keeps.foldl (fun _ _ _ => ?_) _ ?_
      | refine Keeps.foldl_fst (fun _ _ _ => ?_) _ ?_ | refine Keeps.foldl_snd (fun _ _ _ => ?_) _ ?_
      | apply KC.fold
    | split | (with_reducible apply Keeps.upd; dsimp only) | dsimp only | intro

theorem endQueueStreams_keeps {w td : Bool} {z : State} (slot : Nat) (s : State)
    (hz : Keeps w td z s) : Keeps w td z (endQueueStreams slot s) := by
  unfold endQueueStreams
  repeat' first
    | with_reducible first
      | exact hz | assumption | apply endStreamId_keeps | refine Keeps.foldl (fun _ _ _ => ?_) _ ?_
      | refine Keeps.foldl_fst (fun _ _ _ => ?_) _ ?_ | refine Keeps.foldl_snd (fun _ _ _ => ?_) _ ?_
    | dsimp only | intro

theorem finishTeardown_keeps {w td : Bool} {z : State} (slot : Nat) (q : Queue) (s : State)
    (hz : Keeps w td z s) : Keeps w td z (finishTeardown slot q s) := by
  unfold finishTeardown
  repeat' first
    | with_reducible first
      | exact hz | assumption | apply mirror_keeps | apply setQueue_keeps | apply stageOwn_keeps
      | apply endQueueStreams_keeps | apply Keeps.ite | apply KC.fold
    | split | (with_reducible apply Keeps.upd; dsimp only) | dsimp only | intro

theorem teardownStep_keeps {td : Bool} {z : State} (slot : Nat) (s : State)
    (hz : Keeps true td z s) : Keeps true td z (teardownStep slot s) := by
  unfold teardownStep
  repeat' first
    | with_reducible first
      | exact hz | assumption | apply ropeSend_keeps | apply setQueue_keeps | apply moveHead_keeps
      | apply finishTeardown_keeps | apply Keeps.ite | apply KC.fold
    | split | (with_reducible apply Keeps.upd; dsimp only) | dsimp only | intro

end Sys2Proof.Machine
end

