-- ==== Sys2Proof/Laws/KeepsEntropy.lean ====
section
/-! SUPPORT. `Keeps` of the operations of Machine/Entropy.lean. -/

namespace Sys2Proof.Machine

theorem grantInternal_keeps {w td : Bool} {z : State} (n : Nat) (s : State)
    (hz : Keeps w td z s) : Keeps w td z (grantInternal n s) := by
  unfold grantInternal
  repeat' first
    | with_reducible first
      | exact hz | apply bump_keeps | apply evcAdd_keeps | apply KC.fold
    | (with_reducible apply Keeps.upd; dsimp only) | dsimp only | intro

theorem requestDraw_keeps {w td : Bool} {z : State} (d : Draw) (n : Nat) (s : State)
    (hz : Keeps w td z s) : Keeps w td z (requestDraw d n s) := by
  unfold requestDraw
  repeat' first
    | with_reducible first
      | exact hz | apply KC.fold
    | (with_reducible apply Keeps.upd; dsimp only) | dsimp only | intro

theorem runDraw_keeps {w td : Bool} {z : State} (op ctx n : Nat) (d : Draw) (plan : Job → State → State × Option Res) (f : Job → List Byte → State → State × Res) (s : State)
    (hplan : ∀ (y0 : Job) (y1 : State), Keeps w td z y1 → Keeps w td z (plan y0 y1).1)
    (hf : ∀ (y0 : Job) (y1 : List Byte) (y2 : State), Keeps w td z y2 → Keeps w td z (f y0 y1 y2).1)
    (hz : Keeps w td z s) : Keeps w td z (runDraw op ctx n d plan f s) := by
  unfold runDraw
  repeat' first
    | with_reducible first
      | exact hz | assumption | apply setJob_keeps | apply stageOwn_keeps | apply grantInternal_keeps
      | apply requestDraw_keeps | apply hplan | apply hf | apply Keeps.ite | apply KC.fold
    | split | (with_reducible apply Keeps.upd; dsimp only) | dsimp only | intro

theorem refillFifo_keeps {w td : Bool} {z : State} (s : State)
    (hz : Keeps w td z s) : Keeps w td z (refillFifo s) := by
  unfold refillFifo
  repeat' first
    | with_reducible first
      | exact hz | apply KC.fold
    | (with_reducible apply Keeps.upd; dsimp only) | dsimp only | intro

theorem grantJob_keeps {w td : Bool} {z : State} (ctx n : Nat) (rest : List (Draw × Nat)) (s : State)
    (hz : Keeps w td z s) : Keeps w td z (grantJob ctx n rest s) := by
  unfold grantJob
  repeat' first
    | with_reducible first
      | exact hz | apply bump_keeps | apply evcAdd_keeps | apply setJob_keeps | apply Keeps.ite | apply KC.fold
    | split | (with_reducible apply Keeps.upd; dsimp only) | dsimp only | intro

theorem grantSecond_keeps {w td : Bool} {z : State} (s : State)
    (hz : Keeps w td z s) : Keeps w td z (grantSecond s) := by
  unfold grantSecond
  repeat' first
    | with_reducible first
      | exact hz | apply refillFifo_keeps | apply grantJob_keeps | apply Keeps.ite | apply KC.fold
    | split | (with_reducible apply Keeps.upd; dsimp only) | dsimp only | intro

theorem setBank_keeps {w td : Bool} {z : State} (b : Nat) (k : Bank) (s : State)
    (hz : Keeps w td z s) : Keeps w td z (setBank b k s) := by
  unfold setBank
  repeat' first
    | with_reducible first
      | exact hz | apply KC.fold
    | (with_reducible apply Keeps.upd; dsimp only) | dsimp only | intro

theorem quarantine_keeps {w td : Bool} {z : State} (b cause cell : Nat) (s : State)
    (hz : Keeps w td z s) : Keeps w td z (quarantine b cause cell s) := by
  unfold quarantine
  repeat' first
    | with_reducible first
      | exact hz | apply bump_keeps | apply raise_keeps | apply collect_keeps | apply setBank_keeps
      | apply Keeps.ite | apply KC.fold
    | split | (with_reducible apply Keeps.upd; dsimp only) | dsimp only | intro

theorem dropConditioner_keeps {w td : Bool} {z : State} (c : Nat) (s : State)
    (hz : Keeps w td z s) : Keeps w td z (dropConditioner c s) := by
  unfold dropConditioner
  repeat' first
    | with_reducible first
      | exact hz | assumption | apply bump_keeps | refine Keeps.foldl (fun _ _ _ => ?_) _ ?_ | apply KC.fold
    | (with_reducible apply Keeps.upd; dsimp only) | dsimp only | intro

theorem condFault_keeps {td : Bool} {z : State} (c : Nat) (s : State)
    (hz : Keeps true td z s) : Keeps true td z (condFault c s) := by
  unfold condFault
  repeat' first
    | with_reducible first
      | exact hz | apply raise_keeps | apply collect_keeps | apply fenceUnit_keeps | apply entStop_keeps
      | apply dropConditioner_keeps
    | dsimp only | intro

theorem execEntropyStartup_keeps {w td : Bool} {t : State} (s : State)
    (hz : execEntropyStartup s = .next t) : Keeps w td s t := by
  unfold execEntropyStartup at hz
  injection hz with hz
  subst hz
  repeat' first
    | with_reducible first
      | exact Keeps.refl _ _ _ | assumption | apply raise_keeps | apply Keeps.ite
      | refine Keeps.foldl (fun _ _ _ => ?_) _ ?_ | refine Keeps.foldl_fst (fun _ _ _ => ?_) _ ?_
      | refine Keeps.foldl_snd (fun _ _ _ => ?_) _ ?_ | apply KC.fold
    | split | (with_reducible apply Keeps.upd; dsimp only) | dsimp only | intro

theorem execEntropyStartupTestsEnd_keeps {td : Bool} {t : State} (badBanks badConds : List Nat) (s : State)
    (hz : execEntropyStartupTestsEnd badBanks badConds s = .next t) : Keeps true td s t := by
  unfold execEntropyStartupTestsEnd at hz
  injection hz with hz
  subst hz
  repeat' first
    | with_reducible first
      | exact Keeps.refl _ _ _ | assumption | apply raise_keeps | apply setUnit_keeps | apply entStop_keeps
      | apply quarantine_keeps | apply condFault_keeps | apply Keeps.ite
      | refine Keeps.foldl (fun _ _ _ => ?_) _ ?_ | refine Keeps.foldl_fst (fun _ _ _ => ?_) _ ?_
      | refine Keeps.foldl_snd (fun _ _ _ => ?_) _ ?_ | apply KC.fold
    | split | (with_reducible apply Keeps.upd; dsimp only) | dsimp only | intro

theorem execEntropyOutputOpen_keeps {w td : Bool} {t : State} (s : State)
    (hz : execEntropyOutputOpen s = .next t) : Keeps w td s t := by
  unfold execEntropyOutputOpen at hz
  injection hz with hz
  subst hz
  repeat' first
    | with_reducible first
      | exact Keeps.refl _ _ _ | assumption | apply raise_keeps | apply refillSalts_keeps | apply Keeps.ite
      | apply KC.fold
    | split | (with_reducible apply Keeps.upd; dsimp only) | dsimp only | intro

theorem execAptWindowClose_keeps {w td : Bool} {t : State} (bank : Nat) (s : State)
    (hz : execAptWindowClose bank s = .next t) : Keeps w td s t := by
  unfold execAptWindowClose at hz
  injection hz with hz
  subst hz
  repeat' first
    | with_reducible first
      | exact Keeps.refl _ _ _ | assumption | apply bump_keeps | apply setBank_keeps | apply Keeps.ite
      | apply KC.fold
    | split | (with_reducible apply Keeps.upd; dsimp only) | dsimp only | intro

theorem execConditionerBlockDone_keeps {w td : Bool} {t : State} (cond bank : Nat) (s : State)
    (hz : execConditionerBlockDone cond bank s = .next t) : Keeps w td s t := by
  unfold execConditionerBlockDone at hz
  injection hz with hz
  subst hz
  repeat' first
    | with_reducible first
      | exact Keeps.refl _ _ _ | assumption | apply useBytes_keeps | apply setBank_keeps | apply Keeps.ite
      | refine Keeps.foldl (fun _ _ _ => ?_) _ ?_ | refine Keeps.foldl_fst (fun _ _ _ => ?_) _ ?_
      | refine Keeps.foldl_snd (fun _ _ _ => ?_) _ ?_ | apply KC.fold
    | split | (with_reducible apply Keeps.upd; dsimp only) | dsimp only | intro

theorem execEstimatorWindowClose_keeps {w td : Bool} {t : State} (bank ones : Nat) (corrs : List Nat) (s : State)
    (hz : execEstimatorWindowClose bank ones corrs s = .next t) : Keeps w td s t := by
  unfold execEstimatorWindowClose at hz
  injection hz with hz
  subst hz
  repeat' first
    | with_reducible first
      | exact Keeps.refl _ _ _ | assumption | apply useBytes_keeps | apply entStop_keeps | apply setBank_keeps
      | apply quarantine_keeps | apply Keeps.ite | apply KC.fold
    | split | (with_reducible apply Keeps.upd; dsimp only) | dsimp only | intro

theorem failedWindow_keeps {w td : Bool} {z : State} (bank cause value : Nat) (s : State)
    (hz : Keeps w td z s) : Keeps w td z (failedWindow bank cause value s) := by
  unfold failedWindow
  repeat' first
    | with_reducible first
      | exact hz | apply useBytes_keeps | apply setBank_keeps | apply Keeps.ite | apply KC.fold
    | split | (with_reducible apply Keeps.upd; dsimp only) | dsimp only | intro

theorem execHealthTestFail_keeps {w td : Bool} {t : State} (bank cause cell value : Nat) (s : State)
    (hz : execHealthTestFail bank cause cell value s = .next t) : Keeps w td s t := by
  unfold execHealthTestFail at hz
  injection hz with hz
  subst hz
  repeat' first
    | with_reducible first
      | exact Keeps.refl _ _ _ | apply entStop_keeps | apply quarantine_keeps | apply failedWindow_keeps
      | apply Keeps.ite
    | split | dsimp only | intro

theorem entDataRead_keeps {w td : Bool} {z : State} (width64 devMtype : Bool) (s : State)
    (hz : Keeps w td z s) : Keeps w td z (entDataRead width64 devMtype s) := by
  unfold entDataRead
  repeat' first
    | with_reducible first
      | exact hz | apply bump_keeps | apply evcAdd_keeps | apply emit_keeps | apply collect_keeps | apply Keeps.ite
      | apply KC.fold
    | split | (with_reducible apply Keeps.upd; dsimp only) | dsimp only | intro

theorem execEntDataRead_keeps {w td : Bool} {t : State} (width64 devMtype : Bool) (s : State)
    (hz : execEntDataRead width64 devMtype s = .next t) : Keeps w td s t := by
  unfold execEntDataRead at hz
  injection hz with hz
  subst hz
  repeat' first
    | with_reducible first
      | exact Keeps.refl _ _ _ | apply entDataRead_keeps
    | dsimp only | intro

theorem entKatIn_keeps {w td : Bool} {z : State} (v : Word) (s : State)
    (hz : Keeps w td z s) : Keeps w td z (entKatIn v s) := by
  unfold entKatIn
  repeat' first
    | with_reducible first
      | exact hz | apply Keeps.ite | apply KC.fold
    | split | (with_reducible apply Keeps.upd; dsimp only) | dsimp only | intro

theorem execEntKatIn_keeps {w td : Bool} {t : State} (v : Word) (s : State)
    (hz : execEntKatIn v s = .next t) : Keeps w td s t := by
  unfold execEntKatIn at hz
  injection hz with hz
  subst hz
  repeat' first
    | with_reducible first
      | exact Keeps.refl _ _ _ | apply entKatIn_keeps
    | dsimp only | intro

theorem entKatStart_keeps {w td : Bool} {z : State} (s : State)
    (hz : Keeps w td z s) : Keeps w td z (entKatStart s) := by
  unfold entKatStart
  repeat' first
    | with_reducible first
      | exact hz | apply Keeps.ite | apply KC.fold
    | split | (with_reducible apply Keeps.upd; dsimp only) | dsimp only | intro

theorem execEntKatStart_keeps {w td : Bool} {t : State} (s : State)
    (hz : execEntKatStart s = .next t) : Keeps w td s t := by
  unfold execEntKatStart at hz
  injection hz with hz
  subst hz
  repeat' first
    | with_reducible first
      | exact Keeps.refl _ _ _ | apply entKatStart_keeps
    | dsimp only | intro

theorem entKatOutRead_keeps {w td : Bool} {z : State} (s : State)
    (hz : Keeps w td z s) : Keeps w td z (entKatOutRead s) := by
  unfold entKatOutRead
  repeat' first
    | with_reducible first
      | exact hz | apply emit_keeps | apply KC.fold
    | split | (with_reducible apply Keeps.upd; dsimp only) | dsimp only | intro

theorem execEntKatOutRead_keeps {w td : Bool} {t : State} (s : State)
    (hz : execEntKatOutRead s = .next t) : Keeps w td s t := by
  unfold execEntKatOutRead at hz
  injection hz with hz
  subst hz
  repeat' first
    | with_reducible first
      | exact Keeps.refl _ _ _ | apply entKatOutRead_keeps
    | dsimp only | intro

theorem katBoundary_keeps {w td : Bool} {z : State} (s : State)
    (hz : Keeps w td z s) : Keeps w td z (katBoundary s) := by
  unfold katBoundary
  repeat' first
    | with_reducible first
      | exact hz | assumption | apply setUnit_keeps | apply Keeps.ite | apply KC.fold
    | split | (with_reducible apply Keeps.upd; dsimp only) | dsimp only | intro

theorem execEntropyWaitExpiry_keeps {w td : Bool} {t : State} (ctx : Nat) (s : State)
    (hz : execEntropyWaitExpiry ctx s = .next t) : Keeps w td s t := by
  unfold execEntropyWaitExpiry at hz
  injection hz with hz
  subst hz
  repeat' first
    | with_reducible first
      | exact Keeps.refl _ _ _ | assumption | apply bump_keeps | apply freeUnits_keeps | apply refuseJob_keeps
      | apply forwardJob_keeps | apply Keeps.ite | apply KC.fold
    | split | (with_reducible apply Keeps.upd; dsimp only) | dsimp only | intro

theorem execRngBytes_keeps {w td : Bool} {t : State} (ctx : Nat) (s : State)
    (hz : execRngBytes ctx s = .next t) : Keeps w td s t := by
  unfold execRngBytes at hz
  injection hz with hz
  subst hz
  repeat' first
    | with_reducible first
      | exact Keeps.refl _ _ _ | assumption | apply setJob_keeps | apply reserveDraw_keeps | apply stageDone_keeps
      | apply Keeps.ite | apply KC.emitted | apply KC.fold
    | split | (with_reducible apply Keeps.upd; dsimp only) | dsimp only | intro

theorem execEntStatus_keeps {w td : Bool} {t : State} (ctx : Nat) (s : State)
    (hz : execEntStatus ctx s = .next t) : Keeps w td s t := by
  unfold execEntStatus at hz
  injection hz with hz
  subst hz
  repeat' first
    | with_reducible first
      | exact Keeps.refl _ _ _ | assumption | apply stageDone_keeps | apply KC.emitted | apply KC.fold
    | split | (with_reducible apply Keeps.upd; dsimp only) | dsimp only | intro

end Sys2Proof.Machine
end

