-- ==== Sys2Proof/Laws/KeepsWorld.lean ====
section
/-! SUPPORT. `Keeps` of the operations of Machine/World.lean. -/

namespace Sys2Proof.Machine

theorem setCore_keeps {w td : Bool} {z : State} (c : Nat) (r : Core) (s : State)
    (hz : Keeps w td z s) : Keeps w td z (setCore c r s) := by
  unfold setCore
  repeat' first
    | with_reducible first
      | exact hz | apply KC.fold
    | (with_reducible apply Keeps.upd; dsimp only) | dsimp only | intro

theorem beginRestart_keeps {td : Bool} {z : State} (trigger : Nat) (s : State)
    (hz : Keeps true td z s) : Keeps true td z (beginRestart trigger s) := by
  unfold beginRestart
  repeat' first
    | with_reducible first
      | exact hz | assumption | apply evcAdd_keeps | apply collect_keeps
      | refine Keeps.foldl (fun _ _ _ => ?_) _ ?_ | refine Keeps.foldl_fst (fun _ _ _ => ?_) _ ?_
      | refine Keeps.foldl_snd (fun _ _ _ => ?_) _ ?_ | apply KC.wrote | apply KC.cleared | apply KC.filtered
      | apply KC.fold
    | (with_reducible apply Keeps.upd; dsimp only) | dsimp only | intro

theorem restartSummit_keeps {td : Bool} {z : State} (trigger : Nat) (s : State)
    (hz : Keeps true td z s) : Keeps true td z (restartSummit trigger s) := by
  unfold restartSummit
  repeat' first
    | with_reducible first
      | exact hz | apply f3Fault_keeps | apply beginRestart_keeps | apply Keeps.ite | apply KC.fold
    | split | (with_reducible apply Keeps.upd; dsimp only) | dsimp only | intro

theorem trapTo_keeps {td : Bool} {z : State} (c : Nat) (intr : Bool) (cause : Nat) (tval : Word) (s : State)
    (hz : Keeps true td z s) : Keeps true td z (trapTo c intr cause tval s) := by
  unfold trapTo
  repeat' first
    | with_reducible first
      | exact hz | apply setCore_keeps | apply restartSummit_keeps | apply Keeps.ite | apply KC.fold
    | split | (with_reducible apply Keeps.upd; dsimp only) | dsimp only | intro

theorem excep_keeps {td : Bool} {z : State} (c cause : Nat) (tval : Word) (s : State)
    (hz : Keeps true td z s) : Keeps true td z (excep c cause tval s) := by
  unfold excep
  repeat' first
    | with_reducible first
      | exact hz | apply trapTo_keeps
    | dsimp only | intro

theorem illegal_keeps {td : Bool} {z : State} (c : Nat) (s : State)
    (hz : Keeps true td z s) : Keeps true td z (illegal c s) := by
  unfold illegal
  repeat' first
    | with_reducible first
      | exact hz | apply useBytes_keeps | apply excep_keeps
    | dsimp only | intro

theorem belay_keeps {td : Bool} {z : State} (c rd rs1 tag : Nat) (s : State)
    (hz : Keeps true td z s) : Keeps true td z (belay c rd rs1 tag s) := by
  unfold belay
  repeat' first
    | with_reducible first
      | exact hz | apply evcAdd_keeps | apply setCore_keeps | apply excep_keeps | apply illegal_keeps
      | apply Keeps.ite | apply KC.fold
    | split | (with_reducible apply Keeps.upd; dsimp only) | dsimp only | intro

theorem lower_keeps {td : Bool} {z : State} (c rs1 : Nat) (s : State)
    (hz : Keeps true td z s) : Keeps true td z (lower c rs1 s) := by
  unfold lower
  repeat' first
    | with_reducible first
      | exact hz | apply setCore_keeps | apply illegal_keeps | apply Keeps.ite | apply KC.fold
    | split | (with_reducible apply Keeps.upd; dsimp only) | dsimp only | intro

theorem countCores_keeps {w td : Bool} {z : State} (retired : List Nat) (s : State)
    (hz : Keeps w td z s) : Keeps w td z (countCores retired s) := by
  unfold countCores
  repeat' first
    | with_reducible first
      | exact hz | assumption | apply setCore_keeps | apply Keeps.ite | refine Keeps.foldl (fun _ _ _ => ?_) _ ?_
      | refine Keeps.foldl_fst (fun _ _ _ => ?_) _ ?_ | refine Keeps.foldl_snd (fun _ _ _ => ?_) _ ?_
    | split | dsimp only | intro

theorem worldCsrAccess_keeps {td : Bool} {z : State} (c csr : Nat) (wr : Option Word) (rd : Nat) (s : State)
    (hz : Keeps true td z s) : Keeps true td z (worldCsrAccess c csr wr rd s) := by
  unfold worldCsrAccess
  repeat' first
    | with_reducible first
      | exact hz | apply useBytes_keeps | apply setCore_keeps | apply illegal_keeps | apply Keeps.ite
      | apply KC.fold
    | split | (with_reducible apply Keeps.upd; dsimp only) | dsimp only | intro

theorem mret_keeps {td : Bool} {z : State} (c : Nat) (s : State)
    (hz : Keeps true td z s) : Keeps true td z (mret c s) := by
  unfold mret
  repeat' first
    | with_reducible first
      | exact hz | apply setCore_keeps | apply illegal_keeps | apply Keeps.ite | apply KC.fold
    | split | (with_reducible apply Keeps.upd; dsimp only) | dsimp only | intro

theorem summitInterrupt_keeps {td : Bool} {z : State} (c : Nat) (s : State)
    (hz : Keeps true td z s) : Keeps true td z (summitInterrupt c s) := by
  unfold summitInterrupt
  repeat' first
    | with_reducible first
      | exact hz | apply evcAdd_keeps | apply setCore_keeps | apply restartSummit_keeps | apply Keeps.ite
      | apply KC.fold
    | split | (with_reducible apply Keeps.upd; dsimp only) | dsimp only | intro

theorem baseInterrupt_keeps {td : Bool} {z : State} (c : Nat) (s : State)
    (hz : Keeps true td z s) : Keeps true td z (baseInterrupt c s) := by
  unfold baseInterrupt
  repeat' first
    | with_reducible first
      | exact hz | apply evcAdd_keeps | apply setCore_keeps | apply trapTo_keeps | apply Keeps.ite
    | split | dsimp only | intro

theorem claim_keeps {w td : Bool} {z : State} (base : Bool) (c : Nat) (s : State)
    (hz : Keeps w td z s) : Keeps w td z (claim base c s).2 := by
  unfold claim
  repeat' first
    | with_reducible first
      | exact hz | apply setCore_keeps | apply Keeps.ite | apply KC.fold
    | split | (with_reducible apply Keeps.upd; dsimp only) | dsimp only | intro

theorem irqDone_keeps {w td : Bool} {z : State} (base : Bool) (n : Nat) (s : State)
    (hz : Keeps w td z s) : Keeps w td z (irqDone base n s) := by
  unfold irqDone
  repeat' first
    | with_reducible first
      | exact hz | apply Keeps.ite | apply KC.fold
    | split | (with_reducible apply Keeps.upd; dsimp only) | dsimp only | intro

theorem extendMeas_keeps {w td : Bool} {z : State} (n : Nat) (d : List Byte) (s : State)
    (hz : Keeps w td z s) : Keeps w td z (extendMeas n d s) := by
  unfold extendMeas
  repeat' first
    | with_reducible first
      | exact hz | apply KC.fold
    | (with_reducible apply Keeps.upd; dsimp only) | dsimp only | intro

theorem startFirmware_keeps {w td : Bool} {z : State} (s : State)
    (hz : Keeps w td z s) : Keeps w td z (startFirmware s) := by
  unfold startFirmware
  repeat' first
    | with_reducible first
      | exact hz | apply setCore_keeps | apply Keeps.ite | apply KC.fold
    | split | (with_reducible apply Keeps.upd; dsimp only) | dsimp only | intro

theorem execBelay_keeps {td : Bool} {t : State} (core rd rs1 tag : Nat) (s : State)
    (hz : execBelay core rd rs1 tag s = .next t) : Keeps true td s t := by
  unfold execBelay at hz
  injection hz with hz
  subst hz
  repeat' first
    | with_reducible first
      | exact Keeps.refl _ _ _ | apply belay_keeps
    | dsimp only | intro

theorem execLower_keeps {td : Bool} {t : State} (core rs1 : Nat) (s : State)
    (hz : execLower core rs1 s = .next t) : Keeps true td s t := by
  unfold execLower at hz
  injection hz with hz
  subst hz
  repeat' first
    | with_reducible first
      | exact Keeps.refl _ _ _ | apply lower_keeps
    | dsimp only | intro

theorem execAnchor_keeps {td : Bool} {t : State} (core : Nat) (s : State)
    (hz : execAnchor core s = .next t) : Keeps true td s t := by
  unfold execAnchor at hz
  injection hz with hz
  subst hz
  repeat' first
    | with_reducible first
      | exact Keeps.refl _ _ _ | apply illegal_keeps | apply Keeps.ite
    | split | dsimp only | intro

theorem execGatewayInstructionIllegal_keeps {td : Bool} {t : State} (core : Nat) (word : W32) (s : State)
    (hz : execGatewayInstructionIllegal core word s = .next t) : Keeps true td s t := by
  unfold execGatewayInstructionIllegal at hz
  injection hz with hz
  subst hz
  repeat' first
    | with_reducible first
      | exact Keeps.refl _ _ _ | apply illegal_keeps | apply Keeps.ite
    | split | dsimp only | intro

theorem execWorldCsrAccess_keeps {td : Bool} {t : State} (core csr : Nat) (wr : Option Word) (rd : Nat) (s : State)
    (hz : execWorldCsrAccess core csr wr rd s = .next t) : Keeps true td s t := by
  unfold execWorldCsrAccess at hz
  injection hz with hz
  subst hz
  repeat' first
    | with_reducible first
      | exact Keeps.refl _ _ _ | apply worldCsrAccess_keeps
    | dsimp only | intro

theorem execMret_keeps {td : Bool} {t : State} (core : Nat) (s : State)
    (hz : execMret core s = .next t) : Keeps true td s t := by
  unfold execMret at hz
  injection hz with hz
  subst hz
  repeat' first
    | with_reducible first
      | exact Keeps.refl _ _ _ | apply mret_keeps
    | dsimp only | intro

theorem execTrapEntry_keeps {td : Bool} {t : State} (core cause : Nat) (tval : Word) (s : State)
    (hz : execTrapEntry core cause tval s = .next t) : Keeps true td s t := by
  unfold execTrapEntry at hz
  injection hz with hz
  subst hz
  repeat' first
    | with_reducible first
      | exact Keeps.refl _ _ _ | apply excep_keeps | apply Keeps.ite
    | split | dsimp only | intro

theorem execDoubleTrap_keeps {td : Bool} {t : State} (core cause : Nat) (_tval : Word) (s : State)
    (hz : execDoubleTrap core cause _tval s = .next t) : Keeps true td s t := by
  unfold execDoubleTrap at hz
  injection hz with hz
  subst hz
  repeat' first
    | with_reducible first
      | exact Keeps.refl _ _ _ | apply restartSummit_keeps | apply Keeps.ite
    | split | dsimp only | intro

theorem execSummitInterrupt_keeps {td : Bool} {t : State} (core : Nat) (s : State)
    (hz : execSummitInterrupt core s = .next t) : Keeps true td s t := by
  unfold execSummitInterrupt at hz
  injection hz with hz
  subst hz
  repeat' first
    | with_reducible first
      | exact Keeps.refl _ _ _ | apply summitInterrupt_keeps
    | dsimp only | intro

theorem execBaseInterrupt_keeps {td : Bool} {t : State} (core : Nat) (s : State)
    (hz : execBaseInterrupt core s = .next t) : Keeps true td s t := by
  unfold execBaseInterrupt at hz
  injection hz with hz
  subst hz
  repeat' first
    | with_reducible first
      | exact Keeps.refl _ _ _ | apply baseInterrupt_keeps
    | dsimp only | intro

theorem execWorldSclaim_keeps {w td : Bool} {t : State} (core : Nat) (s : State)
    (hz : execWorldSclaim core s = .next t) : Keeps w td s t := by
  unfold execWorldSclaim at hz
  injection hz with hz
  subst hz
  repeat' first
    | with_reducible first
      | exact Keeps.refl _ _ _ | apply emit_keeps | apply claim_keeps
    | dsimp only | intro

theorem execWorldBclaim_keeps {w td : Bool} {t : State} (core : Nat) (s : State)
    (hz : execWorldBclaim core s = .next t) : Keeps w td s t := by
  unfold execWorldBclaim at hz
  injection hz with hz
  subst hz
  repeat' first
    | with_reducible first
      | exact Keeps.refl _ _ _ | apply emit_keeps | apply claim_keeps
    | dsimp only | intro

theorem execWorldSdone_keeps {w td : Bool} {t : State} (src : Nat) (s : State)
    (hz : execWorldSdone src s = .next t) : Keeps w td s t := by
  unfold execWorldSdone at hz
  injection hz with hz
  subst hz
  repeat' first
    | with_reducible first
      | exact Keeps.refl _ _ _ | apply irqDone_keeps
    | dsimp only | intro

theorem execWorldBdone_keeps {w td : Bool} {t : State} (src : Nat) (s : State)
    (hz : execWorldBdone src s = .next t) : Keeps w td s t := by
  unfold execWorldBdone at hz
  injection hz with hz
  subst hz
  repeat' first
    | with_reducible first
      | exact Keeps.refl _ _ _ | apply irqDone_keeps
    | dsimp only | intro

theorem swdogKick_keeps {w td : Bool} {z : State} (s : State)
    (hz : Keeps w td z s) : Keeps w td z (swdogKick s) := by
  unfold swdogKick
  repeat' first
    | with_reducible first
      | exact hz | apply KC.fold
    | (with_reducible apply Keeps.upd; dsimp only) | dsimp only | intro

theorem bwdogKick_keeps {w td : Bool} {z : State} (s : State)
    (hz : Keeps w td z s) : Keeps w td z (bwdogKick s) := by
  unfold bwdogKick
  repeat' first
    | with_reducible first
      | exact hz | apply KC.fold
    | (with_reducible apply Keeps.upd; dsimp only) | dsimp only | intro

theorem execWorldSwdogKick_keeps {w td : Bool} {t : State} (s : State)
    (hz : execWorldSwdogKick s = .next t) : Keeps w td s t := by
  unfold execWorldSwdogKick at hz
  injection hz with hz
  subst hz
  repeat' first
    | with_reducible first
      | exact Keeps.refl _ _ _ | apply swdogKick_keeps
    | dsimp only | intro

theorem execWorldBwdogKick_keeps {w td : Bool} {t : State} (s : State)
    (hz : execWorldBwdogKick s = .next t) : Keeps w td s t := by
  unfold execWorldBwdogKick at hz
  injection hz with hz
  subst hz
  repeat' first
    | with_reducible first
      | exact Keeps.refl _ _ _ | apply bwdogKick_keeps
    | dsimp only | intro

theorem execSummitWatchdogExpiry_keeps {td : Bool} {t : State} (s : State)
    (hz : execSummitWatchdogExpiry s = .next t) : Keeps true td s t := by
  unfold execSummitWatchdogExpiry at hz
  injection hz with hz
  subst hz
  repeat' first
    | with_reducible first
      | exact Keeps.refl _ _ _ | apply restartSummit_keeps | apply Keeps.ite
    | split | dsimp only | intro

theorem execBaseWatchdogExpiry_keeps {w td : Bool} {t : State} (s : State)
    (hz : execBaseWatchdogExpiry s = .next t) : Keeps w td s t := by
  unfold execBaseWatchdogExpiry at hz
  injection hz with hz
  subst hz
  repeat' first
    | with_reducible first
      | exact Keeps.refl _ _ _ | apply raise_keeps | apply collect_keeps | apply Keeps.ite | apply KC.fold
    | split | (with_reducible apply Keeps.upd; dsimp only) | dsimp only | intro

theorem worldRestartWrite_keeps {td : Bool} {z : State} (s : State)
    (hz : Keeps true td z s) : Keeps true td z (worldRestartWrite s) := by
  unfold worldRestartWrite
  repeat' first
    | with_reducible first
      | exact hz | apply restartSummit_keeps | apply Keeps.ite
    | split | dsimp only | intro

theorem execWorldCtlRestart_keeps {td : Bool} {t : State} (s : State)
    (hz : execWorldCtlRestart s = .next t) : Keeps true td s t := by
  unfold execWorldCtlRestart at hz
  injection hz with hz
  subst hz
  repeat' first
    | with_reducible first
      | exact Keeps.refl _ _ _ | apply worldRestartWrite_keeps
    | dsimp only | intro

theorem execSummitFirmwareCopyDone_keeps {td : Bool} {t : State} (integrityOk : Bool) (s : State)
    (hz : execSummitFirmwareCopyDone integrityOk s = .next t) : Keeps true td s t := by
  unfold execSummitFirmwareCopyDone at hz
  injection hz with hz
  subst hz
  repeat' first
    | with_reducible first
      | exact Keeps.refl _ _ _ | apply f3Fault_keeps | apply engineAccess_keeps | apply extendMeas_keeps
      | apply startFirmware_keeps | apply Keeps.ite | apply KC.wrote | apply KC.cleared | apply KC.filtered
      | apply KC.fold
    | split | (with_reducible apply Keeps.upd; dsimp only) | dsimp only | intro

theorem execRestartTimeout_keeps {td : Bool} {t : State} (s : State)
    (hz : execRestartTimeout s = .next t) : Keeps true td s t := by
  unfold execRestartTimeout at hz
  injection hz with hz
  subst hz
  repeat' first
    | with_reducible first
      | exact Keeps.refl _ _ _ | apply restartSummit_keeps | apply Keeps.ite
    | split | dsimp only | intro

end Sys2Proof.Machine
end

