-- ==== Sys2Proof/Laws/KeepsCsrRead.lean ====
section
/-! SUPPORT. `Keeps` of the operations of Machine/CsrRead.lean. -/

namespace Sys2Proof.Machine

theorem fault64_keeps {w td : Bool} {z : State} (off : Nat) (s : State)
    (hz : Keeps w td z s) : Keeps w td z (fault64 off s) := by
  unfold fault64
  repeat' first
    | with_reducible first
      | exact hz | apply collect_keeps
    | dsimp only | intro

theorem claimRead_keeps {w td : Bool} {z : State} (base : Bool) (core : Option Nat) (h : Half) (s : State)
    (hz : Keeps w td z s) : Keeps w td z (claimRead base core h s) := by
  unfold claimRead
  repeat' first
    | with_reducible first
      | exact hz | apply emit_keeps | apply claim_keeps | apply KC.fold
    | split | (with_reducible apply Keeps.upd; dsimp only) | dsimp only | intro

theorem csrRead_keeps {w td : Bool} {z : State} (core : Option Nat) (dev : Bool) (off : Nat) (h : Half) (s : State)
    (hz : Keeps w td z s) : Keeps w td z (csrRead core dev off h s) := by
  unfold csrRead
  repeat' first
    | with_reducible first
      | exact hz | apply emit_keeps | apply entDataRead_keeps | apply entKatOutRead_keeps | apply fault64_keeps
      | apply claimRead_keeps | apply Keeps.ite | apply KC.fold
    | split | (with_reducible apply Keeps.upd; dsimp only) | dsimp only | intro

end Sys2Proof.Machine
end

