-- ==== Sys2Proof/Laws/KeepsCairnLog.lean ====
section
/-! SUPPORT. `Keeps` of the operations of Machine/CairnLog.lean. -/

namespace Sys2Proof.Machine

theorem writeRecord_keeps {w td : Bool} {z : State} (index : Nat) (e : CairnEnt) (s : State)
    (hz : Keeps w td z s) : Keeps w td z (writeRecord index e s) := by
  unfold writeRecord
  repeat' first
    | with_reducible first
      | exact hz | apply evcAdd_keeps | apply Keeps.ite | apply KC.fold
    | split | (with_reducible apply Keeps.upd; dsimp only) | dsimp only | intro

theorem writeReserved_keeps {w td : Bool} {z : State} (e : CairnEnt) (s : State)
    (hz : Keeps w td z s) : Keeps w td z (writeReserved e s) := by
  unfold writeReserved
  repeat' first
    | with_reducible first
      | exact hz | apply writeRecord_keeps | apply KC.fold
    | (with_reducible apply Keeps.upd; dsimp only) | dsimp only | intro

theorem freeEntry_keeps {w td : Bool} {z : State} (s : State)
    (hz : Keeps w td z s) : Keeps w td z (freeEntry s) := by
  unfold freeEntry
  repeat' first
    | with_reducible first
      | exact hz | apply KC.fold
    | split | (with_reducible apply Keeps.upd; dsimp only) | dsimp only | intro

theorem logFull_keeps {w td : Bool} {z : State} (e : CairnEnt) (s : State)
    (hz : Keeps w td z s) : Keeps w td z (logFull e s) := by
  unfold logFull
  repeat' first
    | with_reducible first
      | exact hz | apply writeReserved_keeps | apply Keeps.ite | apply KC.fold
    | split | (with_reducible apply Keeps.upd; dsimp only) | dsimp only | intro

theorem programOldest_keeps {w td : Bool} {z : State} (s : State)
    (hz : Keeps w td z s) : Keeps w td z (programOldest s) := by
  unfold programOldest
  repeat' first
    | with_reducible first
      | exact hz | apply freeEntry_keeps | apply logFull_keeps | apply Keeps.ite | apply KC.fold
    | split | (with_reducible apply Keeps.upd; dsimp only) | dsimp only | intro

theorem completeRecord_keeps {w td : Bool} {z : State} (s : State)
    (hz : Keeps w td z s) : Keeps w td z (completeRecord s) := by
  unfold completeRecord
  repeat' first
    | with_reducible first
      | exact hz | apply writeRecord_keeps | apply freeEntry_keeps | apply Keeps.ite | apply KC.fold
    | split | (with_reducible apply Keeps.upd; dsimp only) | dsimp only | intro

theorem drainBuffer_keeps {w td : Bool} {z : State} : ∀ (n : Nat) (s : State),
    Keeps w td z s → Keeps w td z (drainBuffer n s)
  | 0, _, h => h
  | n + 1, s, h => by
    simp only [drainBuffer]
    exact Keeps.ite h (drainBuffer_keeps n _ (completeRecord_keeps _ (programOldest_keeps _ h)))

theorem cairnStartup_keeps {w td : Bool} {z : State} (s : State)
    (hz : Keeps w td z s) : Keeps w td z (cairnStartup s) := by
  unfold cairnStartup
  repeat' first
    | with_reducible first
      | exact hz | apply cairnPlace_keeps | apply drainBuffer_keeps | apply Keeps.ite | apply KC.fold
    | split | (with_reducible apply Keeps.upd; dsimp only) | dsimp only | intro

theorem transitionRecord_keeps {w td : Bool} {z : State} (old new : Nat) (s : State)
    (hz : Keeps w td z s) : Keeps w td z (transitionRecord old new s) := by
  unfold transitionRecord
  repeat' first
    | with_reducible first
      | exact hz | apply writeReserved_keeps | apply completeRecord_keeps | apply KC.fold
    | (with_reducible apply Keeps.upd; dsimp only) | dsimp only | intro

theorem cairnRead_keeps {w td : Bool} {z : State} (j : Job) (s : State)
    (hz : Keeps w td z s) : Keeps w td z (cairnRead j s).1 := by
  unfold cairnRead
  repeat' first
    | with_reducible first
      | exact hz | assumption
    | dsimp only | intro

theorem execCairnRead_keeps {w td : Bool} {t : State} (ctx : Nat) (s : State)
    (hz : execCairnRead ctx s = .next t) : Keeps w td s t := by
  unfold execCairnRead at hz
  injection hz with hz
  subst hz
  repeat' first
    | with_reducible first
      | exact Keeps.refl _ _ _ | apply runAdmin_keeps | apply cairnRead_keeps
    | dsimp only | intro

end Sys2Proof.Machine
end

