-- ==== Sys2Proof/Laws/KeepsMoves.lean ====
section
/-! SUPPORT. `Keeps` of the operations of Machine/Moves.lean. -/

namespace Sys2Proof.Machine

theorem KC.fillRing {td : Bool} {z : State} {p : List Instr} {o : List OutEv} {f e : Nat} {c v : Tab Nat} (q : Queue) :
    ∀ (l : List (Nat × List Byte)) {m : List Host.Cell}, KC true td z p m o f e c v → KC true td z p (fillRing q l m) o f e c v
  | [], _, h => h
  | _ :: l, _, h => KC.fillRing q l (KC.wrote _ _ h)

theorem forgetSession_keeps {w td : Bool} {z : State} (i : Nat) (s : State)
    (hz : Keeps w td z s) : Keeps w td z (forgetSession i s) := by
  unfold forgetSession
  repeat' first
    | with_reducible first
      | exact hz | assumption | apply Keeps.ite | apply KC.fold
    | split | (with_reducible apply Keeps.upd; dsimp only) | dsimp only | intro

theorem handOut_keeps {w td : Bool} {z : State} (kind : Nat) (which : Sess → Bool) (s : State)
    (hz : Keeps w td z s) : Keeps w td z (handOut kind which s) := by
  unfold handOut
  repeat' first
    | with_reducible first
      | exact hz | assumption | apply ropeSend_keeps | apply forgetSession_keeps | apply Keeps.ite
      | refine Keeps.foldl (fun _ _ _ => ?_) _ ?_ | refine Keeps.foldl_fst (fun _ _ _ => ?_) _ ?_
      | refine Keeps.foldl_snd (fun _ _ _ => ?_) _ ?_
    | split | dsimp only | intro

theorem announceAddr_keeps {w td : Bool} {z : State} (p mac : Nat) (s : State) (ip : Nat)
    (hz : Keeps w td z s) : Keeps w td z (announceAddr p mac s ip) := by
  unfold announceAddr
  repeat' first
    | with_reducible first
      | exact hz | apply ethFrame_keeps | apply Keeps.ite
    | split | dsimp only | intro

theorem announceList_keeps {w td : Bool} {z : State} (p : Nat) (l : List Nat) (s : State)
    (hz : Keeps w td z s) : Keeps w td z (announceList p l s) := by
  unfold announceList
  repeat' first
    | with_reducible first
      | exact hz | assumption | apply announceAddr_keeps | refine Keeps.foldl (fun _ _ _ => ?_) _ ?_
    | dsimp only | intro

theorem announcePort_keeps {w td : Bool} {z : State} (p : Nat) (s : State)
    (hz : Keeps w td z s) : Keeps w td z (announcePort p s) := by
  unfold announcePort
  repeat' first
    | with_reducible first
      | exact hz | apply announceList_keeps | apply Keeps.ite
    | split | dsimp only | intro

theorem announceAll_keeps {w td : Bool} {z : State} (s : State)
    (hz : Keeps w td z s) : Keeps w td z (announceAll s) := by
  unfold announceAll
  repeat' first
    | with_reducible first
      | exact hz | assumption | apply announcePort_keeps | refine Keeps.foldl (fun _ _ _ => ?_) _ ?_
      | refine Keeps.foldl_fst (fun _ _ _ => ?_) _ ?_ | refine Keeps.foldl_snd (fun _ _ _ => ?_) _ ?_
    | dsimp only | intro

theorem takeAddresses_keeps {w td : Bool} {z : State} (s : State)
    (hz : Keeps w td z s) : Keeps w td z (takeAddresses s) := by
  unfold takeAddresses
  repeat' first
    | with_reducible first
      | exact hz | assumption | apply setEth_keeps | apply announceAll_keeps
      | refine Keeps.foldl (fun _ _ _ => ?_) _ ?_ | refine Keeps.foldl_fst (fun _ _ _ => ?_) _ ?_
      | refine Keeps.foldl_snd (fun _ _ _ => ?_) _ ?_ | apply KC.fold
    | (with_reducible apply Keeps.upd; dsimp only) | dsimp only | intro

theorem resubmit_keeps {w td : Bool} {z : State} (slot : Nat) (e : W32 × Header) (s : State)
    (hz : Keeps w td z s) : Keeps w td z (resubmit slot e s) := by
  unfold resubmit
  repeat' first
    | with_reducible first
      | exact hz | assumption | apply bump_keeps | apply endJob_keeps | apply KC.fold
    | (with_reducible apply Keeps.upd; dsimp only) | dsimp only | intro

theorem adoptJobs_keeps {w td : Bool} {z : State} (sess qnum slot : Nat) (s : State)
    (hz : Keeps w td z s) : Keeps w td z (adoptJobs sess qnum slot s).1 := by
  unfold adoptJobs
  repeat' first
    | with_reducible first
      | exact hz | assumption | apply Keeps.ite | apply KC.fold
    | split | (with_reducible apply Keeps.upd; dsimp only) | dsimp only | intro

theorem takeQueue_keeps {td : Bool} {z : State} (i part kind : Nat) (rheads : List (Nat × W32)) (pq : PeerQueue) (s : State)
    (hz : Keeps true td z s) : Keeps true td z (takeQueue i part kind rheads pq s) := by
  unfold takeQueue
  repeat' first
    | with_reducible first
      | exact hz | assumption | apply mirror_keeps | apply setQueue_keeps | apply resubmit_keeps
      | apply adoptJobs_keeps | apply Keeps.ite | refine Keeps.foldl (fun _ _ _ => ?_) _ ?_
      | refine Keeps.foldl_fst (fun _ _ _ => ?_) _ ?_ | refine Keeps.foldl_snd (fun _ _ _ => ?_) _ ?_
      | apply KC.fillRing | apply KC.wrote | apply KC.cleared | apply KC.filtered | apply KC.fold
    | split | (with_reducible apply Keeps.upd; dsimp only) | dsimp only | intro

theorem takeSession_keeps {td : Bool} {z : State} (kind : Nat) (p : SessPos) (s : State)
    (hz : Keeps true td z s) : Keeps true td z (takeSession kind p s) := by
  unfold takeSession
  repeat' first
    | with_reducible first
      | exact hz | assumption | apply bump_keeps | apply useBytes_keeps | apply setSess_keeps
      | apply sendPairMove_keeps | apply mirrorSession_keeps | apply endSession_keeps | apply takeQueue_keeps
      | apply Keeps.ite | refine Keeps.foldl (fun _ _ _ => ?_) _ ?_ | apply KC.fold
    | split | (with_reducible apply Keeps.upd; dsimp only) | dsimp only | intro

theorem takeSessions_keeps {td : Bool} {z : State} (kind : Nat) (slots : Nat → Bool) (s : State)
    (hz : Keeps true td z s) : Keeps true td z (takeSessions kind slots s) := by
  unfold takeSessions
  repeat' first
    | with_reducible first
      | exact hz | assumption | apply takeSession_keeps | refine Keeps.foldl (fun _ _ _ => ?_) _ ?_
      | refine Keeps.foldl_fst (fun _ _ _ => ?_) _ ?_ | refine Keeps.foldl_snd (fun _ _ _ => ?_) _ ?_
      | apply KC.fold
    | (with_reducible apply Keeps.upd; dsimp only) | dsimp only | intro

theorem recordTake_keeps {w td : Bool} {z : State} (cause : Nat) (s : State)
    (hz : Keeps w td z s) : Keeps w td z (recordTake cause s) := by
  unfold recordTake
  repeat' first
    | with_reducible first
      | exact hz | apply KC.fold
    | (with_reducible apply Keeps.upd; dsimp only) | dsimp only | intro

theorem recallJob_keeps {w td : Bool} {z : State} (ctx : Nat) (j : Job) (s : State)
    (hz : Keeps w td z s) : Keeps w td z (recallJob ctx j s) := by
  unfold recallJob
  repeat' first
    | with_reducible first
      | exact hz | apply setJob_keeps | apply burnLeaf_keeps | apply refuseJob_keeps | apply reserveDraw_keeps
      | apply Keeps.ite | apply KC.fold
    | split | (with_reducible apply Keeps.upd; dsimp only) | dsimp only | intro

theorem leavePair_keeps {w td : Bool} {z : State} (st : Nat) (s0 : State)
    (hz : Keeps w td z s0) : Keeps w td z (leavePair st s0) := by
  unfold leavePair
  repeat' first
    | with_reducible first
      | exact hz | assumption | apply pairState_keeps | apply settleAll_keeps | apply awaitedLost_keeps
      | apply recallJob_keeps | refine Keeps.foldl (fun _ _ _ => ?_) _ ?_
      | refine Keeps.foldl_fst (fun _ _ _ => ?_) _ ?_ | refine Keeps.foldl_snd (fun _ _ _ => ?_) _ ?_
      | apply KC.fold
    | (with_reducible apply Keeps.upd; dsimp only) | dsimp only | intro

theorem leadStays_keeps {w td : Bool} {z : State} (s : State)
    (hz : Keeps w td z s) : Keeps w td z (leadStays s) := by
  unfold leadStays
  repeat' first
    | with_reducible first
      | exact hz | apply leavePair_keeps | apply KC.fold
    | (with_reducible apply Keeps.upd; dsimp only) | dsimp only | intro

theorem secondLeaves_keeps {w td : Bool} {z : State} (s : State)
    (hz : Keeps w td z s) : Keeps w td z (secondLeaves s) := by
  unfold secondLeaves
  repeat' first
    | with_reducible first
      | exact hz | assumption | apply lostRegistry_keeps | apply handOut_keeps | apply leavePair_keeps
      | apply KC.fold
    | (with_reducible apply Keeps.upd; dsimp only) | dsimp only | intro

theorem unpair_keeps {w td : Bool} {z : State} (s : State)
    (hz : Keeps w td z s) : Keeps w td z (unpair s) := by
  unfold unpair
  repeat' first
    | with_reducible first
      | exact hz | apply sendFence_keeps | apply leadStays_keeps | apply secondLeaves_keeps | apply Keeps.ite
    | split | dsimp only | intro

end Sys2Proof.Machine
end

