-- ==== Sys2Proof/Laws/KeepsDebug.lean ====
section
/-! SUPPORT. `Keeps` of the operations of Machine/Debug.lean. -/

namespace Sys2Proof.Machine

theorem endJobs_keeps {td : Bool} {z : State} (s : State)
    (hz : Keeps true td z s) : Keeps true td z (endJobs s) := by
  unfold endJobs
  repeat' first
    | with_reducible first
      | exact hz | assumption | apply KC.wrote | apply KC.cleared | apply KC.filtered | apply KC.fold
    | (with_reducible apply Keeps.upd; dsimp only) | dsimp only | intro

theorem giveUpSessions_keeps {w td : Bool} {z : State} (s : State)
    (hz : Keeps w td z s) : Keeps w td z (giveUpSessions s) := by
  unfold giveUpSessions
  repeat' first
    | with_reducible first
      | exact hz | assumption | apply forgetSession_keeps | apply leavePair_keeps
      | refine Keeps.foldl (fun _ _ _ => ?_) _ ?_ | refine Keeps.foldl_fst (fun _ _ _ => ?_) _ ?_
      | refine Keeps.foldl_snd (fun _ _ _ => ?_) _ ?_ | apply KC.fold
    | (with_reducible apply Keeps.upd; dsimp only) | dsimp only | intro

theorem substituteTrk_keeps {td : Bool} {z : State} (s : State)
    (hz : Keeps true td z s) : Keeps true td z (substituteTrk s) := by
  unfold substituteTrk
  repeat' first
    | with_reducible first
      | exact hz | apply sendFence_keeps | apply lostRegistry_keeps | apply endJobs_keeps
      | apply giveUpSessions_keeps | apply Keeps.ite | apply KC.fold
    | split | (with_reducible apply Keeps.upd; dsimp only) | dsimp only | intro

theorem enableNow_keeps {td : Bool} {z : State} (n : Nat) (s : State)
    (hz : Keeps true td z s) : Keeps true td z (enableNow n s) := by
  unfold enableNow
  repeat' first
    | with_reducible first
      | exact hz | apply useBytes_keeps | apply extendMeas_keeps | apply substituteTrk_keeps | apply Keeps.ite
      | apply KC.fold
    | split | (with_reducible apply Keeps.upd; dsimp only) | dsimp only | intro

theorem settleEnables_keeps {td : Bool} {z : State} (s : State)
    (hz : Keeps true td z s) : Keeps true td z (settleEnables s) := by
  unfold settleEnables
  repeat' first
    | with_reducible first
      | exact hz | assumption | apply enableNow_keeps | refine Keeps.foldl (fun _ _ _ => ?_) _ ?_
      | refine Keeps.foldl_fst (fun _ _ _ => ?_) _ ?_ | refine Keeps.foldl_snd (fun _ _ _ => ?_) _ ?_
      | apply KC.fold
    | (with_reducible apply Keeps.upd; dsimp only) | dsimp only | intro

theorem acceptToken_keeps {td : Bool} {z : State} (en : Nat) (s : State)
    (hz : Keeps true td z s) : Keeps true td z (acceptToken en s) := by
  unfold acceptToken
  repeat' first
    | with_reducible first
      | exact hz | assumption | apply cairnPlace_keeps | apply settleEnables_keeps
      | refine Keeps.foldl (fun _ _ _ => ?_) _ ?_ | refine Keeps.foldl_fst (fun _ _ _ => ?_) _ ?_
      | refine Keeps.foldl_snd (fun _ _ _ => ?_) _ ?_ | apply KC.fold
    | (with_reducible apply Keeps.upd; dsimp only) | dsimp only | intro

theorem loadIr_keeps {w td : Bool} {z : State} (code : Byte) (s : State)
    (hz : Keeps w td z s) : Keeps w td z (loadIr code s) := by
  unfold loadIr
  repeat' first
    | with_reducible first
      | exact hz | apply KC.fold
    | (with_reducible apply Keeps.upd; dsimp only) | dsimp only | intro

theorem actBypass_keeps {w td : Bool} {z : State} (code : Byte) (s : State)
    (hz : Keeps w td z s) : Keeps w td z (actBypass code s) := by
  unfold actBypass
  repeat' first
    | with_reducible first
      | exact hz | apply emit_keeps | apply loadIr_keeps
    | dsimp only | intro

theorem boundary_keeps {w td : Bool} {z : State} (code : Byte) (s : State)
    (hz : Keeps w td z s) : Keeps w td z (boundary code s) := by
  unfold boundary
  repeat' first
    | with_reducible first
      | exact hz | apply loadIr_keeps | apply actBypass_keeps | apply Keeps.ite
    | split | dsimp only | intro

theorem newChallenge_keeps {w td : Bool} {z : State} (b : List Byte) (s : State)
    (hz : Keeps w td z s) : Keeps w td z (newChallenge b s) := by
  unfold newChallenge
  repeat' first
    | with_reducible first
      | exact hz | apply emit_keeps | apply KC.fold
    | (with_reducible apply Keeps.upd; dsimp only) | dsimp only | intro

theorem execBypass_keeps {w td : Bool} {t : State} (s : State)
    (hz : execBypass s = .next t) : Keeps w td s t := by
  unfold execBypass at hz
  injection hz with hz
  subst hz
  repeat' first
    | with_reducible first
      | exact Keeps.refl _ _ _ | apply actBypass_keeps | apply Keeps.ite
    | split | dsimp only | intro

theorem execIdcode_keeps {w td : Bool} {t : State} (s : State)
    (hz : execIdcode s = .next t) : Keeps w td s t := by
  unfold execIdcode at hz
  injection hz with hz
  subst hz
  repeat' first
    | with_reducible first
      | exact Keeps.refl _ _ _ | apply emit_keeps | apply loadIr_keeps | apply Keeps.ite
    | split | dsimp only | intro

theorem execSamplePreload_keeps {w td : Bool} {t : State} (s : State)
    (hz : execSamplePreload s = .next t) : Keeps w td s t := by
  unfold execSamplePreload at hz
  injection hz with hz
  subst hz
  repeat' first
    | with_reducible first
      | exact Keeps.refl _ _ _ | apply loadIr_keeps | apply Keeps.ite
    | split | dsimp only | intro

theorem execExtest_keeps {w td : Bool} {t : State} (s : State)
    (hz : execExtest s = .next t) : Keeps w td s t := by
  unfold execExtest at hz
  injection hz with hz
  subst hz
  repeat' first
    | with_reducible first
      | exact Keeps.refl _ _ _ | apply boundary_keeps
    | dsimp only | intro

theorem execClamp_keeps {w td : Bool} {t : State} (s : State)
    (hz : execClamp s = .next t) : Keeps w td s t := by
  unfold execClamp at hz
  injection hz with hz
  subst hz
  repeat' first
    | with_reducible first
      | exact Keeps.refl _ _ _ | apply boundary_keeps
    | dsimp only | intro

theorem execHighz_keeps {w td : Bool} {t : State} (s : State)
    (hz : execHighz s = .next t) : Keeps w td s t := by
  unfold execHighz at hz
  injection hz with hz
  subst hz
  repeat' first
    | with_reducible first
      | exact Keeps.refl _ _ _ | apply boundary_keeps
    | dsimp only | intro

theorem execDbgChal_keeps {w td : Bool} {t : State} (s : State)
    (hz : execDbgChal s = .next t) : Keeps w td s t := by
  unfold execDbgChal at hz
  injection hz with hz
  subst hz
  repeat' first
    | with_reducible first
      | exact Keeps.refl _ _ _ | apply grantInternal_keeps | apply requestDraw_keeps | apply loadIr_keeps
      | apply actBypass_keeps | apply newChallenge_keeps | apply Keeps.ite
    | split | dsimp only | intro

theorem execDbgChallengeExpiry_keeps {w td : Bool} {t : State} (s : State)
    (hz : execDbgChallengeExpiry s = .next t) : Keeps w td s t := by
  unfold execDbgChallengeExpiry at hz
  injection hz with hz
  subst hz
  repeat' first
    | with_reducible first
      | exact Keeps.refl _ _ _ | apply Keeps.ite | apply KC.fold
    | split | (with_reducible apply Keeps.upd; dsimp only) | dsimp only | intro

theorem execDbgToken_keeps {td : Bool} {t : State} (token : List Byte) (s : State)
    (hz : execDbgToken token s = .next t) : Keeps true td s t := by
  unfold execDbgToken at hz
  injection hz with hz
  subst hz
  repeat' first
    | with_reducible first
      | exact Keeps.refl _ _ _ | apply acceptToken_keeps | apply loadIr_keeps | apply actBypass_keeps
      | apply Keeps.ite | apply KC.fold
    | split | (with_reducible apply Keeps.upd; dsimp only) | dsimp only | intro

theorem execDbgStatus_keeps {w td : Bool} {t : State} (s : State)
    (hz : execDbgStatus s = .next t) : Keeps w td s t := by
  unfold execDbgStatus at hz
  injection hz with hz
  subst hz
  repeat' first
    | with_reducible first
      | exact Keeps.refl _ _ _ | apply emit_keeps | apply loadIr_keeps | apply actBypass_keeps | apply Keeps.ite
    | split | dsimp only | intro

theorem execDbgDrop_keeps {w td : Bool} {t : State} (s : State)
    (hz : execDbgDrop s = .next t) : Keeps w td s t := by
  unfold execDbgDrop at hz
  injection hz with hz
  subst hz
  repeat' first
    | with_reducible first
      | exact Keeps.refl _ _ _ | apply loadIr_keeps | apply actBypass_keeps | apply Keeps.ite | apply KC.fold
    | split | (with_reducible apply Keeps.upd; dsimp only) | dsimp only | intro

theorem execCairnBufferProgram_keeps {td : Bool} {t : State} (s : State)
    (hz : execCairnBufferProgram s = .next t) : Keeps true td s t := by
  unfold execCairnBufferProgram at hz
  injection hz with hz
  subst hz
  repeat' first
    | with_reducible first
      | exact Keeps.refl _ _ _ | apply programOldest_keeps | apply settleEnables_keeps | apply Keeps.ite
    | split | dsimp only | intro

theorem execCairnRecordProgrammed_keeps {td : Bool} {t : State} (s : State)
    (hz : execCairnRecordProgrammed s = .next t) : Keeps true td s t := by
  unfold execCairnRecordProgrammed at hz
  injection hz with hz
  subst hz
  repeat' first
    | with_reducible first
      | exact Keeps.refl _ _ _ | apply completeRecord_keeps | apply settleEnables_keeps | apply Keeps.ite
    | split | dsimp only | intro

end Sys2Proof.Machine
end

