-- ==== Sys2Proof/Laws/KeepsTamper.lean ====
section
/-! SUPPORT. `Keeps` of the operations of Machine/Tamper.lean. -/

namespace Sys2Proof.Machine

theorem eventRecord_keeps {w td : Bool} {z : State} (level : Nat) (m : BitVec 32) (s : State)
    (hz : Keeps w td z s) : Keeps w td z (eventRecord level m s) := by
  unfold eventRecord
  repeat' first
    | with_reducible first
      | exact hz | apply cairnPlace_keeps | apply Keeps.ite | apply KC.fold
    | split | (with_reducible apply Keeps.upd; dsimp only) | dsimp only | intro

theorem eventFault_keeps {w td : Bool} {z : State} (first others : Nat) (s : State)
    (hz : Keeps w td z s) : Keeps w td z (eventFault first others s) := by
  unfold eventFault
  repeat' first
    | with_reducible first
      | exact hz | apply collect_keeps | apply Keeps.ite | apply KC.fold
    | split | (with_reducible apply Keeps.upd; dsimp only) | dsimp only | intro

theorem respond_keeps {td : Bool} {z : State} (level : Nat) (l : List Nat) (s : State)
    (hz : Keeps true td z s) : Keeps true td z (respond level l s) := by
  unfold respond
  repeat' first
    | with_reducible first
      | exact hz | apply raise_keeps | apply sendFence_keeps | apply avalanche_keeps | apply lockdownMode_keeps
      | apply fenceAll_keeps | apply eventRecord_keeps | apply eventFault_keeps | apply Keeps.ite | apply KC.fold
    | split | (with_reducible apply Keeps.upd; dsimp only) | dsimp only | intro

theorem tamperEvent_keeps {td : Bool} {z : State} (l : List Nat) (s : State)
    (hz : Keeps true td z s) : Keeps true td z (tamperEvent l s) := by
  unfold tamperEvent
  repeat' first
    | with_reducible first
      | exact hz | apply bump_keeps | apply evcAdd_keeps | apply respond_keeps | apply Keeps.ite
    | split | dsimp only | intro

theorem batteryEvent_keeps {td : Bool} {z : State} (l : List Nat) (s : State)
    (hz : Keeps true td z s) : Keeps true td z (batteryEvent l s) := by
  unfold batteryEvent
  repeat' first
    | with_reducible first
      | exact hz | apply bump_keeps | apply cairnPlace_keeps | apply avalanche_keeps | apply Keeps.ite
      | apply KC.fold
    | split | (with_reducible apply Keeps.upd; dsimp only) | dsimp only | intro

theorem endDisagreements_keeps {w td : Bool} {z : State} (s : State)
    (hz : Keeps w td z s) : Keeps w td z (endDisagreements s) := by
  unfold endDisagreements
  repeat' first
    | with_reducible first
      | exact hz | assumption | apply KC.fold
    | (with_reducible apply Keeps.upd; dsimp only) | dsimp only | intro

theorem alarmOnset_keeps {td : Bool} {z : State} (srcs : List Nat) (s : State)
    (hz : Keeps true td z s) : Keeps true td z (alarmOnset srcs s) := by
  unfold alarmOnset
  repeat' first
    | with_reducible first
      | exact hz | assumption | apply bump_keeps | apply tamperEvent_keeps | apply batteryEvent_keeps
      | apply endDisagreements_keeps | apply Keeps.ite | refine Keeps.foldl (fun _ _ _ => ?_) _ ?_
      | refine Keeps.foldl_fst (fun _ _ _ => ?_) _ ?_ | refine Keeps.foldl_snd (fun _ _ _ => ?_) _ ?_
      | apply KC.fold
    | split | (with_reducible apply Keeps.upd; dsimp only) | dsimp only | intro

theorem alarmClear_keeps {w td : Bool} {z : State} (srcs : List Nat) (s : State)
    (hz : Keeps w td z s) : Keeps w td z (alarmClear srcs s) := by
  unfold alarmClear
  repeat' first
    | with_reducible first
      | exact hz | apply endDisagreements_keeps | apply KC.fold
    | (with_reducible apply Keeps.upd; dsimp only) | dsimp only | intro

theorem tamperCommitted_keeps {td : Bool} {z : State} (s0 s : State)
    (hz : Keeps true td z s) : Keeps true td z (tamperCommitted s0 s) := by
  unfold tamperCommitted
  repeat' first
    | with_reducible first
      | exact hz | assumption | apply tamperEvent_keeps | apply alarmClear_keeps | apply Keeps.ite
    | split | dsimp only | intro

theorem rtcRun_keeps {w td : Bool} {z : State} (n : Nat) (s : State)
    (hz : Keeps w td z s) : Keeps w td z (rtcRun n s) := by
  unfold rtcRun
  repeat' first
    | with_reducible first
      | exact hz | apply Keeps.ite | apply KC.fold
    | split | (with_reducible apply Keeps.upd; dsimp only) | dsimp only | intro

theorem frameTime_keeps {w td : Bool} {z : State} (s : State)
    (hz : Keeps w td z s) : Keeps w td z (frameTime s) := by
  unfold frameTime
  repeat' first
    | with_reducible first
      | exact hz | apply rtcRun_keeps | apply Keeps.ite | apply KC.fold
    | split | (with_reducible apply Keeps.upd; dsimp only) | dsimp only | intro

theorem countCheck_keeps {w td : Bool} {z : State} (s : State) (c : Nat × Bool)
    (hz : Keeps w td z s) : Keeps w td z (countCheck s c) := by
  unfold countCheck
  repeat' first
    | with_reducible first
      | exact hz | apply Keeps.ite | apply KC.fold
    | split | (with_reducible apply Keeps.upd; dsimp only) | dsimp only | intro

theorem readingsTaken_keeps {w td : Bool} {z : State} (reads : List Reading) (s : State)
    (hz : Keeps w td z s) : Keeps w td z (readingsTaken reads s) := by
  unfold readingsTaken
  repeat' first
    | with_reducible first
      | exact hz | assumption | apply Keeps.ite | apply KC.fold
    | split | (with_reducible apply Keeps.upd; dsimp only) | dsimp only | intro

theorem judged_keeps {td : Bool} {z : State} (checks : List (Nat × Bool)) (reads : List Reading) (s : State)
    (hz : Keeps true td z s) : Keeps true td z (judged checks reads s) := by
  unfold judged
  repeat' first
    | with_reducible first
      | exact hz | assumption | apply alarmOnset_keeps | apply alarmClear_keeps | apply countCheck_keeps
      | apply readingsTaken_keeps | refine Keeps.foldl (fun _ _ _ => ?_) _ ?_
    | dsimp only | intro

theorem driveFrame_keeps {w td : Bool} {z : State} (s : State)
    (hz : Keeps w td z s) : Keeps w td z (driveFrame s) := by
  unfold driveFrame
  repeat' first
    | with_reducible first
      | exact hz | assumption | apply emit_keeps | apply Keeps.ite | refine Keeps.foldl (fun _ _ _ => ?_) _ ?_
    | split | dsimp only | intro

theorem execPinLoopCheck_keeps {td : Bool} {t : State} (tampIn : List Byte) (mesh : Option (Bool × Bool)) (reads : List Reading) (s : State)
    (hz : execPinLoopCheck tampIn mesh reads s = .next t) : Keeps true td s t := by
  unfold execPinLoopCheck at hz
  injection hz with hz
  subst hz
  repeat' first
    | with_reducible first
      | exact Keeps.refl _ _ _ | assumption | apply frameTime_keeps | apply judged_keeps | apply driveFrame_keeps
      | apply Keeps.ite | apply KC.fold
    | split | (with_reducible apply Keeps.upd; dsimp only) | dsimp only | intro

theorem execMeshCheck_keeps {td : Bool} {t : State} (outer inner : Bool) (reads : List Reading) (s : State)
    (hz : execMeshCheck outer inner reads s = .next t) : Keeps true td s t := by
  unfold execMeshCheck at hz
  injection hz with hz
  subst hz
  repeat' first
    | with_reducible first
      | exact Keeps.refl _ _ _ | apply judged_keeps | apply Keeps.ite | apply KC.fold
    | split | (with_reducible apply Keeps.upd; dsimp only) | dsimp only | intro

theorem execDetectorAlarm_keeps {td : Bool} {t : State} (reads : List Reading) (s : State)
    (hz : execDetectorAlarm reads s = .next t) : Keeps true td s t := by
  unfold execDetectorAlarm at hz
  injection hz with hz
  subst hz
  repeat' first
    | with_reducible first
      | exact Keeps.refl _ _ _ | apply judged_keeps
    | dsimp only | intro

theorem execDetectorAlarmClear_keeps {w td : Bool} {t : State} (src : Nat) (s : State)
    (hz : execDetectorAlarmClear src s = .next t) : Keeps w td s t := by
  unfold execDetectorAlarmClear at hz
  injection hz with hz
  subst hz
  repeat' first
    | with_reducible first
      | exact Keeps.refl _ _ _ | apply alarmClear_keeps | apply Keeps.ite | apply KC.fold
    | split | (with_reducible apply Keeps.upd; dsimp only) | dsimp only | intro

theorem execDisagreementWindowExpiry_keeps {td : Bool} {t : State} (cls us : Nat) (s : State)
    (hz : execDisagreementWindowExpiry cls us s = .next t) : Keeps true td s t := by
  unfold execDisagreementWindowExpiry at hz
  injection hz with hz
  subst hz
  repeat' first
    | with_reducible first
      | exact Keeps.refl _ _ _ | apply alarmOnset_keeps | apply Keeps.ite
    | split | dsimp only | intro

theorem execVbatLow_keeps {td : Bool} {t : State} (mv : Nat) (s : State)
    (hz : execVbatLow mv s = .next t) : Keeps true td s t := by
  unfold execVbatLow at hz
  injection hz with hz
  subst hz
  repeat' first
    | with_reducible first
      | exact Keeps.refl _ _ _ | apply judged_keeps
    | dsimp only | intro

theorem execXtalStop_keeps {td : Bool} {t : State} (s : State)
    (hz : execXtalStop s = .next t) : Keeps true td s t := by
  unfold execXtalStop at hz
  injection hz with hz
  subst hz
  repeat' first
    | with_reducible first
      | exact Keeps.refl _ _ _ | apply judged_keeps
    | dsimp only | intro

theorem execRailExcursionShort_keeps {td : Bool} {t : State} (rail : Nat) (mv : Int) (ns : Nat) (s : State)
    (hz : execRailExcursionShort rail mv ns s = .next t) : Keeps true td s t := by
  unfold execRailExcursionShort at hz
  injection hz with hz
  subst hz
  repeat' first
    | with_reducible first
      | exact Keeps.refl _ _ _ | assumption | apply alarmOnset_keeps | apply alarmClear_keeps | apply Keeps.ite
    | split | dsimp only | intro

theorem execAvalancheLineRelease_keeps {w td : Bool} {t : State} (s : State)
    (hz : execAvalancheLineRelease s = .next t) : Keeps w td s t := by
  unfold execAvalancheLineRelease at hz
  injection hz with hz
  subst hz
  repeat' first
    | with_reducible first
      | exact Keeps.refl _ _ _ | apply Keeps.ite | apply KC.fold
    | split | (with_reducible apply Keeps.upd; dsimp only) | dsimp only | intro

theorem execClearConfirmation_keeps {w td : Bool} {t : State} (s : State)
    (hz : execClearConfirmation s = .next t) : Keeps w td s t := by
  unfold execClearConfirmation at hz
  injection hz with hz
  subst hz
  repeat' first
    | with_reducible first
      | exact Keeps.refl _ _ _ | apply Keeps.ite | apply KC.fold
    | split | (with_reducible apply Keeps.upd; dsimp only) | dsimp only | intro

theorem execClearConfirmationTimeout_keeps {w td : Bool} {t : State} (s : State)
    (hz : execClearConfirmationTimeout s = .next t) : Keeps w td s t := by
  unfold execClearConfirmationTimeout at hz
  injection hz with hz
  subst hz
  repeat' first
    | with_reducible first
      | exact Keeps.refl _ _ _ | apply Keeps.ite | apply KC.fold
    | split | (with_reducible apply Keeps.upd; dsimp only) | dsimp only | intro

end Sys2Proof.Machine
end

