-- ==== Sys2Proof/Laws/KeepsQuorum.lean ====
section
/-! SUPPORT. `Keeps` of the operations of Machine/Quorum.lean. -/

namespace Sys2Proof.Machine

theorem voidProps_keeps {w td : Bool} {z : State} (p : Proposal → Bool) (s : State)
    (hz : Keeps w td z s) : Keeps w td z (voidProps p s) := by
  unfold voidProps
  repeat' first
    | with_reducible first
      | exact hz | assumption | apply closeProp_keeps | apply Keeps.ite | refine Keeps.foldl (fun _ _ _ => ?_) _ ?_
      | refine Keeps.foldl_fst (fun _ _ _ => ?_) _ ?_ | refine Keeps.foldl_snd (fun _ _ _ => ?_) _ ?_
    | split | dsimp only | intro

theorem stagedWrite_keeps {w td : Bool} {z : State} (off v : Nat) (s : State)
    (hz : Keeps w td z s) : Keeps w td z (stagedWrite off v s) := by
  unfold stagedWrite
  repeat' first
    | with_reducible first
      | exact hz | assumption | apply setStaged_keeps | apply voidProps_keeps | apply KC.fold
    | split | (with_reducible apply Keeps.upd; dsimp only) | dsimp only | intro

theorem setProp_keeps {w td : Bool} {z : State} (slot : Nat) (p : Proposal) (s : State)
    (hz : Keeps w td z s) : Keeps w td z (setProp slot p s) := by
  unfold setProp
  repeat' first
    | with_reducible first
      | exact hz | apply KC.fold
    | (with_reducible apply Keeps.upd; dsimp only) | dsimp only | intro

theorem openProp_keeps {w td : Bool} {z : State} (p : Proposal) (secs : Nat) (nonce : List Byte) (s : State)
    (hz : Keeps w td z s) : Keeps w td z (openProp p secs nonce s).1 := by
  unfold openProp
  repeat' first
    | with_reducible first
      | exact hz | apply bump_keeps | apply evcAdd_keeps | apply mirrorQuorum_keeps | apply journal_keeps
      | apply fail_keeps | apply setProp_keeps | apply KC.emitted | apply KC.fold
    | split | (with_reducible apply Keeps.upd; dsimp only) | dsimp only | intro

theorem proposeImage_keeps {w td : Bool} {z : State} (j : Job) (nonce : List Byte) (s : State)
    (hz : Keeps w td z s) : Keeps w td z (proposeImage j nonce s).1 := by
  unfold proposeImage
  repeat' first
    | with_reducible first
      | exact hz | assumption | apply fail_keeps | apply stagedWrite_keeps | apply openProp_keeps | apply Keeps.ite
      | refine Keeps.foldl (fun _ _ _ => ?_) _ ?_ | refine Keeps.foldl_fst (fun _ _ _ => ?_) _ ?_
      | refine Keeps.foldl_snd (fun _ _ _ => ?_) _ ?_
    | split | dsimp only | intro

theorem proposeOp_keeps {w td : Bool} {z : State} (j : Job) (nonce : List Byte) (s : State)
    (hz : Keeps w td z s) : Keeps w td z (proposeOp j nonce s).1 := by
  unfold proposeOp
  repeat' first
    | with_reducible first
      | exact hz | apply openProp_keeps
    | dsimp only | intro

theorem refuseApproval_keeps {w td : Bool} {z : State} (p : Proposal) (scope index st : Nat) (s : State)
    (hz : Keeps w td z s) : Keeps w td z (refuseApproval p scope index st s).1 := by
  unfold refuseApproval
  repeat' first
    | with_reducible first
      | exact hz | apply bump_keeps | apply mirrorQuorum_keeps | apply journal_keeps
    | dsimp only | intro

theorem approve_keeps {w td : Bool} {z : State} (j : Job) (s : State)
    (hz : Keeps w td z s) : Keeps w td z (approve j s).1 := by
  unfold approve
  repeat' first
    | with_reducible first
      | exact hz | apply bump_keeps | apply evcAdd_keeps | apply mirrorQuorum_keeps | apply journal_keeps
      | apply setProp_keeps | apply refuseApproval_keeps | apply Keeps.ite | apply KC.fold
    | split | (with_reducible apply Keeps.upd; dsimp only) | dsimp only | intro

theorem issueToken_keeps {w td : Bool} {z : State} (j : Job) (r : List Byte) (s : State)
    (hz : Keeps w td z s) : Keeps w td z (issueToken j r s).1 := by
  unfold issueToken
  repeat' first
    | with_reducible first
      | exact hz | apply bump_keeps | apply mirrorQuorum_keeps | apply journal_keeps | apply fail_keeps
      | apply setProp_keeps | apply KC.fold
    | split | (with_reducible apply Keeps.upd; dsimp only) | dsimp only | intro

theorem pairCommitted_keeps {w td : Bool} {z : State} (p : Proposal) (s : State)
    (hz : Keeps w td z s) : Keeps w td z (pairCommitted p s) := by
  unfold pairCommitted
  repeat' first
    | with_reducible first
      | exact hz | apply pairState_keeps | apply unpair_keeps | apply Keeps.ite | apply KC.fold
    | split | (with_reducible apply Keeps.upd; dsimp only) | dsimp only | intro

theorem applyImage_keeps {td : Bool} {z : State} (slot : Nat) (p : Proposal) (s : State)
    (hz : Keeps true td z s) : Keeps true td z (applyImage slot p s) := by
  unfold applyImage
  repeat' first
    | with_reducible first
      | exact hz | apply cairnPlace_keeps | apply closeProp_keeps | apply tamperCommitted_keeps
      | apply pairCommitted_keeps | apply Keeps.ite | apply KC.fold
    | split | (with_reducible apply Keeps.upd; dsimp only) | dsimp only | intro

theorem endCommit_keeps {w td : Bool} {z : State} (s0 : State) (ctx : Option Nat) (code : Nat) (s : State)
    (hz : Keeps w td z s) : Keeps w td z (endCommit s0 ctx code s) := by
  unfold endCommit
  repeat' first
    | with_reducible first
      | exact hz | apply stageOwn_keeps | apply Keeps.ite | apply KC.fold
    | split | (with_reducible apply Keeps.upd; dsimp only) | dsimp only | intro

theorem commitOne_keeps {td : Bool} {z : State} (s : State) (tok : List Byte) (ctx : Option Nat)
    (hz : Keeps true td z s) : Keeps true td z (commitOne s tok ctx) := by
  unfold commitOne
  repeat' first
    | with_reducible first
      | exact hz | assumption | apply applyImage_keeps | apply endCommit_keeps | apply Keeps.ite
      | refine Keeps.foldl (fun _ _ _ => ?_) _ ?_ | apply KC.fold
    | split | (with_reducible apply Keeps.upd; dsimp only) | dsimp only | intro

theorem commitsDue_keeps {td : Bool} {z : State} (s : State)
    (hz : Keeps true td z s) : Keeps true td z (commitsDue s) := by
  unfold commitsDue
  repeat' first
    | with_reducible first
      | exact hz | assumption | apply commitOne_keeps | refine Keeps.foldl (fun _ _ _ => ?_) _ ?_
      | refine Keeps.foldl_fst (fun _ _ _ => ?_) _ ?_ | refine Keeps.foldl_snd (fun _ _ _ => ?_) _ ?_
      | apply KC.fold
    | (with_reducible apply Keeps.upd; dsimp only) | dsimp only | intro

theorem partCreate_keeps {w td : Bool} {z : State} (j : Job) (seed : List Byte) (s : State)
    (hz : Keeps w td z s) : Keeps w td z (partCreate j seed s).1 := by
  unfold partCreate
  repeat' first
    | with_reducible first
      | exact hz | assumption | apply mirror_keeps | apply mirrorQuorum_keeps | apply consumeToken_keeps
      | apply fail_keeps | apply KC.fold
    | split | (with_reducible apply Keeps.upd; dsimp only) | dsimp only | intro

theorem seedCleared_keeps {w td : Bool} {z : State} (part : Nat) (s : State)
    (hz : Keeps w td z s) : Keeps w td z (seedCleared part s) := by
  unfold seedCleared
  repeat' first
    | with_reducible first
      | exact hz | assumption | apply Keeps.ite | apply KC.fold
    | split | (with_reducible apply Keeps.upd; dsimp only) | dsimp only | intro

theorem partDelete_keeps {w td : Bool} {z : State} (part : Nat) (s : State)
    (hz : Keeps w td z s) : Keeps w td z (partDelete part s) := by
  unfold partDelete
  repeat' first
    | with_reducible first
      | exact hz | assumption | apply mirror_keeps | apply endSessions_keeps | apply mirrorQuorum_keeps
      | apply setCreds_keeps | apply voidProps_keeps | apply seedCleared_keeps | apply KC.fold
    | (with_reducible apply Keeps.upd; dsimp only) | dsimp only | intro

theorem enrolOne_keeps {w td : Bool} {z : State} (officer : Bool) (j : Job) (s : State)
    (hz : Keeps w td z s) : Keeps w td z (enrolOne officer j s).1 := by
  unfold enrolOne
  repeat' first
    | with_reducible first
      | exact hz | apply mirrorQuorum_keeps | apply consumeToken_keeps | apply fail_keeps | apply Keeps.ite
      | apply KC.emitted | apply KC.fold
    | split | (with_reducible apply Keeps.upd; dsimp only) | dsimp only | intro

theorem officerRemove_keeps {w td : Bool} {z : State} (j : Job) (s : State)
    (hz : Keeps w td z s) : Keeps w td z (officerRemove j s).1 := by
  unfold officerRemove
  repeat' first
    | with_reducible first
      | exact hz | assumption | apply mirrorQuorum_keeps | apply setCreds_keeps | apply consumeToken_keeps
      | apply fail_keeps | apply Keeps.ite | apply KC.fold
    | split | (with_reducible apply Keeps.upd; dsimp only) | dsimp only | intro

theorem clientRemove_keeps {w td : Bool} {z : State} (j : Job) (s : State)
    (hz : Keeps w td z s) : Keeps w td z (clientRemove j s).1 := by
  unfold clientRemove
  repeat' first
    | with_reducible first
      | exact hz | assumption | apply mirrorQuorum_keeps | apply consumeToken_keeps | apply fail_keeps
      | apply Keeps.ite | apply KC.fold
    | split | (with_reducible apply Keeps.upd; dsimp only) | dsimp only | intro

theorem regBackup_keeps {w td : Bool} {z : State} (j : Job) (s : State)
    (hz : Keeps w td z s) : Keeps w td z (regBackup j s).1 := by
  unfold regBackup
  repeat' first
    | with_reducible first
      | exact hz | apply consumeToken_keeps | apply fail_keeps | apply Keeps.ite
    | split | dsimp only | intro

theorem regRestore_keeps {w td : Bool} {z : State} (j : Job) (s : State)
    (hz : Keeps w td z s) : Keeps w td z (regRestore j s).1 := by
  unfold regRestore
  repeat' first
    | with_reducible first
      | exact hz | assumption | apply mirrorQuorum_keeps | apply setCreds_keeps | apply consumeToken_keeps
      | apply fail_keeps | apply Keeps.ite | apply KC.fold
    | split | (with_reducible apply Keeps.upd; dsimp only) | dsimp only | intro

theorem leaveMaintenance_keeps {w td : Bool} {z : State} (s : State)
    (hz : Keeps w td z s) : Keeps w td z (leaveMaintenance s) := by
  unfold leaveMaintenance
  repeat' first
    | with_reducible first
      | exact hz | assumption | apply ropeSend_keeps | apply Keeps.ite | apply KC.fold
    | split | (with_reducible apply Keeps.upd; dsimp only) | dsimp only | intro

theorem zeroizeNow_keeps {td : Bool} {z : State} (tok : List Byte) (s : State)
    (hz : Keeps true td z s) : Keeps true td z (zeroizeNow tok s) := by
  unfold zeroizeNow
  repeat' first
    | with_reducible first
      | exact hz | apply cairnPlace_keeps | apply sendFence_keeps | apply avalanche_keeps
      | apply consumeToken_keeps
    | dsimp only | intro

theorem execQPropose_keeps {w td : Bool} {t : State} (ctx : Nat) (s : State)
    (hz : execQPropose ctx s = .next t) : Keeps w td s t := by
  unfold execQPropose at hz
  injection hz with hz
  subst hz
  repeat' first
    | with_reducible first
      | exact Keeps.refl _ _ _ | assumption | apply runDraw_keeps | apply proposeImage_keeps
    | dsimp only | intro

theorem execQProposeOp_keeps {w td : Bool} {t : State} (ctx : Nat) (s : State)
    (hz : execQProposeOp ctx s = .next t) : Keeps w td s t := by
  unfold execQProposeOp at hz
  injection hz with hz
  subst hz
  repeat' first
    | with_reducible first
      | exact Keeps.refl _ _ _ | assumption | apply runDraw_keeps | apply proposeOp_keeps
    | dsimp only | intro

theorem execQApprove_keeps {w td : Bool} {t : State} (ctx : Nat) (s : State)
    (hz : execQApprove ctx s = .next t) : Keeps w td s t := by
  unfold execQApprove at hz
  injection hz with hz
  subst hz
  repeat' first
    | with_reducible first
      | exact Keeps.refl _ _ _ | apply runDraw_keeps | apply approve_keeps | apply issueToken_keeps
    | dsimp only | intro

theorem execQWithdraw_keeps {w td : Bool} {t : State} (ctx : Nat) (s : State)
    (hz : execQWithdraw ctx s = .next t) : Keeps w td s t := by
  unfold execQWithdraw at hz
  injection hz with hz
  subst hz
  repeat' first
    | with_reducible first
      | exact Keeps.refl _ _ _ | assumption | apply closeProp_keeps | apply runAdmin_keeps | apply fail_keeps
      | apply Keeps.ite | apply KC.fold
    | split | (with_reducible apply Keeps.upd; dsimp only) | dsimp only | intro

theorem execQCommit_keeps {w td : Bool} {t : State} (ctx : Nat) (s : State)
    (hz : execQCommit ctx s = .next t) : Keeps w td s t := by
  unfold execQCommit at hz
  injection hz with hz
  subst hz
  repeat' first
    | with_reducible first
      | exact Keeps.refl _ _ _ | assumption | apply setJob_keeps | apply stageDone_keeps | apply asAdmin_keeps
      | apply Keeps.ite | apply KC.fold
    | split | (with_reducible apply Keeps.upd; dsimp only) | dsimp only | intro

theorem execQStatus_keeps {w td : Bool} {t : State} (ctx : Nat) (s : State)
    (hz : execQStatus ctx s = .next t) : Keeps w td s t := by
  unfold execQStatus at hz
  injection hz with hz
  subst hz
  repeat' first
    | with_reducible first
      | exact Keeps.refl _ _ _ | assumption | apply runAdmin_keeps | apply fail_keeps | apply Keeps.ite
      | refine Keeps.foldl (fun _ _ _ => ?_) _ ?_ | refine Keeps.foldl_fst (fun _ _ _ => ?_) _ ?_
      | refine Keeps.foldl_snd (fun _ _ _ => ?_) _ ?_ | apply KC.emitted | apply KC.fold
    | split | (with_reducible apply Keeps.upd; dsimp only) | dsimp only | intro

theorem execQJournal_keeps {w td : Bool} {t : State} (ctx : Nat) (s : State)
    (hz : execQJournal ctx s = .next t) : Keeps w td s t := by
  unfold execQJournal at hz
  injection hz with hz
  subst hz
  repeat' first
    | with_reducible first
      | exact Keeps.refl _ _ _ | assumption | apply runAdmin_keeps | apply fail_keeps | apply Keeps.ite
    | split | dsimp only | intro

theorem execMaintEnter_keeps {w td : Bool} {t : State} (ctx : Nat) (s : State)
    (hz : execMaintEnter ctx s = .next t) : Keeps w td s t := by
  unfold execMaintEnter at hz
  injection hz with hz
  subst hz
  repeat' first
    | with_reducible first
      | exact Keeps.refl _ _ _ | apply setJob_keeps | apply consumeToken_keeps | apply stageDone_keeps
      | apply Keeps.ite | apply KC.fold
    | split | (with_reducible apply Keeps.upd; dsimp only) | dsimp only | intro

theorem execMaintExit_keeps {w td : Bool} {t : State} (ctx : Nat) (s : State)
    (hz : execMaintExit ctx s = .next t) : Keeps w td s t := by
  unfold execMaintExit at hz
  injection hz with hz
  subst hz
  repeat' first
    | with_reducible first
      | exact Keeps.refl _ _ _ | assumption | apply runAdmin_keeps | apply fail_keeps
      | apply leaveMaintenance_keeps | apply Keeps.ite
    | split | dsimp only | intro

theorem execZeroize_keeps {td : Bool} {t : State} (ctx : Nat) (s : State)
    (hz : execZeroize ctx s = .next t) : Keeps true td s t := by
  unfold execZeroize at hz
  injection hz with hz
  subst hz
  repeat' first
    | with_reducible first
      | exact Keeps.refl _ _ _ | apply stageDone_keeps | apply zeroizeNow_keeps | apply Keeps.ite | apply KC.fold
    | split | (with_reducible apply Keeps.upd; dsimp only) | dsimp only | intro

theorem execPartCreate_keeps {w td : Bool} {t : State} (ctx : Nat) (s : State)
    (hz : execPartCreate ctx s = .next t) : Keeps w td s t := by
  unfold execPartCreate at hz
  injection hz with hz
  subst hz
  repeat' first
    | with_reducible first
      | exact Keeps.refl _ _ _ | assumption | apply runDraw_keeps | apply partCreate_keeps
    | dsimp only | intro

theorem execPartDelete_keeps {w td : Bool} {t : State} (ctx : Nat) (s : State)
    (hz : execPartDelete ctx s = .next t) : Keeps w td s t := by
  unfold execPartDelete at hz
  injection hz with hz
  subst hz
  repeat' first
    | with_reducible first
      | exact Keeps.refl _ _ _ | assumption | apply consumeToken_keeps | apply runAdmin_keeps | apply fail_keeps
      | apply partDelete_keeps | apply Keeps.ite
    | split | dsimp only | intro

theorem execOfficerEnrol_keeps {w td : Bool} {t : State} (ctx : Nat) (s : State)
    (hz : execOfficerEnrol ctx s = .next t) : Keeps w td s t := by
  unfold execOfficerEnrol at hz
  injection hz with hz
  subst hz
  repeat' first
    | with_reducible first
      | exact Keeps.refl _ _ _ | apply runAdmin_keeps | apply enrolOne_keeps
    | dsimp only | intro

theorem execOfficerRemove_keeps {w td : Bool} {t : State} (ctx : Nat) (s : State)
    (hz : execOfficerRemove ctx s = .next t) : Keeps w td s t := by
  unfold execOfficerRemove at hz
  injection hz with hz
  subst hz
  repeat' first
    | with_reducible first
      | exact Keeps.refl _ _ _ | apply runAdmin_keeps | apply officerRemove_keeps
    | dsimp only | intro

theorem execClientEnrol_keeps {w td : Bool} {t : State} (ctx : Nat) (s : State)
    (hz : execClientEnrol ctx s = .next t) : Keeps w td s t := by
  unfold execClientEnrol at hz
  injection hz with hz
  subst hz
  repeat' first
    | with_reducible first
      | exact Keeps.refl _ _ _ | apply runAdmin_keeps | apply enrolOne_keeps
    | dsimp only | intro

theorem execClientRemove_keeps {w td : Bool} {t : State} (ctx : Nat) (s : State)
    (hz : execClientRemove ctx s = .next t) : Keeps w td s t := by
  unfold execClientRemove at hz
  injection hz with hz
  subst hz
  repeat' first
    | with_reducible first
      | exact Keeps.refl _ _ _ | apply runAdmin_keeps | apply clientRemove_keeps
    | dsimp only | intro

theorem execRegBackup_keeps {w td : Bool} {t : State} (ctx : Nat) (s : State)
    (hz : execRegBackup ctx s = .next t) : Keeps w td s t := by
  unfold execRegBackup at hz
  injection hz with hz
  subst hz
  repeat' first
    | with_reducible first
      | exact Keeps.refl _ _ _ | apply runAdmin_keeps | apply regBackup_keeps
    | dsimp only | intro

theorem execRegRestore_keeps {w td : Bool} {t : State} (ctx : Nat) (s : State)
    (hz : execRegRestore ctx s = .next t) : Keeps w td s t := by
  unfold execRegRestore at hz
  injection hz with hz
  subst hz
  repeat' first
    | with_reducible first
      | exact Keeps.refl _ _ _ | apply runAdmin_keeps | apply regRestore_keeps
    | dsimp only | intro

theorem execProposalDeadlineExpiry_keeps {w td : Bool} {t : State} (pslot : Nat) (s : State)
    (hz : execProposalDeadlineExpiry pslot s = .next t) : Keeps w td s t := by
  unfold execProposalDeadlineExpiry at hz
  injection hz with hz
  subst hz
  repeat' first
    | with_reducible first
      | exact Keeps.refl _ _ _ | apply closeProp_keeps | apply Keeps.ite | apply KC.fold
    | split | (with_reducible apply Keeps.upd; dsimp only) | dsimp only | intro

theorem execTokenExpiry_keeps {w td : Bool} {t : State} (pslot : Nat) (s : State)
    (hz : execTokenExpiry pslot s = .next t) : Keeps w td s t := by
  unfold execTokenExpiry at hz
  injection hz with hz
  subst hz
  repeat' first
    | with_reducible first
      | exact Keeps.refl _ _ _ | apply closeProp_keeps | apply Keeps.ite | apply KC.fold
    | split | (with_reducible apply Keeps.upd; dsimp only) | dsimp only | intro

theorem execStagedRegisterWrite_keeps {w td : Bool} {t : State} (off : Nat) (v : Word) (s : State)
    (hz : execStagedRegisterWrite off v s = .next t) : Keeps w td s t := by
  unfold execStagedRegisterWrite at hz
  injection hz with hz
  subst hz
  repeat' first
    | with_reducible first
      | exact Keeps.refl _ _ _ | apply stagedWrite_keeps
    | dsimp only | intro

theorem quoCmtGo_keeps {w td : Bool} {z : State} (s : State)
    (hz : Keeps w td z s) : Keeps w td z (quoCmtGo s) := by
  unfold quoCmtGo
  repeat' first
    | with_reducible first
      | exact hz | apply KC.fold
    | (with_reducible apply Keeps.upd; dsimp only) | dsimp only | intro

theorem execQuoCmtGo_keeps {w td : Bool} {t : State} (s : State)
    (hz : execQuoCmtGo s = .next t) : Keeps w td s t := by
  unfold execQuoCmtGo at hz
  injection hz with hz
  subst hz
  repeat' first
    | with_reducible first
      | exact Keeps.refl _ _ _ | apply quoCmtGo_keeps
    | dsimp only | intro

end Sys2Proof.Machine
end

