-- ==== Sys2Proof/Laws/KeepsEth.lean ====
section
/-! SUPPORT. `Keeps` of the operations of Machine/Eth.lean. -/

namespace Sys2Proof.Machine

theorem sendLldp_keeps {w td : Bool} {z : State} (p : Nat) (s : State)
    (hz : Keeps w td z s) : Keeps w td z (sendLldp p s) := by
  unfold sendLldp
  repeat' first
    | with_reducible first
      | exact hz | apply ethFrame_keeps | apply Keeps.ite
    | split | dsimp only | intro

theorem linkUp_keeps {w td : Bool} {z : State} (p mode : Nat) (s : State)
    (hz : Keeps w td z s) : Keeps w td z (linkUp p mode s) := by
  unfold linkUp
  repeat' first
    | with_reducible first
      | exact hz | assumption | apply setEth_keeps | apply ethFrame_keeps | apply announcePort_keeps
      | apply sendLldp_keeps | apply Keeps.ite | refine Keeps.foldl (fun _ _ _ => ?_) _ ?_
      | refine Keeps.foldl_fst (fun _ _ _ => ?_) _ ?_ | refine Keeps.foldl_snd (fun _ _ _ => ?_) _ ?_
      | apply KC.fold
    | split | (with_reducible apply Keeps.upd; dsimp only) | dsimp only | intro

theorem linkDown_keeps {w td : Bool} {z : State} (p : Nat) (s : State)
    (hz : Keeps w td z s) : Keeps w td z (linkDown p s) := by
  unfold linkDown
  repeat' first
    | with_reducible first
      | exact hz | apply setEth_keeps | apply Keeps.ite | apply KC.fold
    | split | (with_reducible apply Keeps.upd; dsimp only) | dsimp only | intro

theorem ethCfgWrite_keeps {w td : Bool} {z : State} (p v : Nat) (s : State)
    (hz : Keeps w td z s) : Keeps w td z (ethCfgWrite p v s) := by
  unfold ethCfgWrite
  repeat' first
    | with_reducible first
      | exact hz | apply setRw_keeps | apply setEth_keeps | apply linkDown_keeps | apply Keeps.ite | apply KC.fold
    | split | (with_reducible apply Keeps.upd; dsimp only) | dsimp only | intro

theorem markDuplicate_keeps {w td : Bool} {z : State} (p ip : Nat) (s : State)
    (hz : Keeps w td z s) : Keeps w td z (markDuplicate p ip s) := by
  unfold markDuplicate
  repeat' first
    | with_reducible first
      | exact hz | apply setEth_keeps | apply KC.fold
    | (with_reducible apply Keeps.upd; dsimp only) | dsimp only | intro

theorem resolutionRetry_keeps {w td : Bool} {z : State} (p ip : Nat) (s : State)
    (hz : Keeps w td z s) : Keeps w td z (resolutionRetry p ip s) := by
  unfold resolutionRetry
  repeat' first
    | with_reducible first
      | exact hz | apply bump_keeps | apply setEth_keeps | apply solicit_keeps | apply resolved_keeps
      | apply Keeps.ite | apply KC.fold
    | split | (with_reducible apply Keeps.upd; dsimp only) | dsimp only | intro

theorem neighbourExpiry_keeps {w td : Bool} {z : State} (p ip : Nat) (s : State)
    (hz : Keeps w td z s) : Keeps w td z (neighbourExpiry p ip s) := by
  unfold neighbourExpiry
  repeat' first
    | with_reducible first
      | exact hz | apply setEth_keeps | apply resolved_keeps | apply Keeps.ite | apply KC.fold
    | split | (with_reducible apply Keeps.upd; dsimp only) | dsimp only | intro

theorem echo_keeps {w td : Bool} {z : State} (p src dst : Nat) (payload : List Byte) (s : State)
    (hz : Keeps w td z s) : Keeps w td z (echo p src dst payload s) := by
  unfold echo
  repeat' first
    | with_reducible first
      | exact hz | apply bump_keeps | apply setEth_keeps | apply sendFrame_keeps | apply Keeps.ite | apply KC.fold
    | split | (with_reducible apply Keeps.upd; dsimp only) | dsimp only | intro

theorem pauseEnds_keeps {w td : Bool} {z : State} (p prio : Nat) (s : State)
    (hz : Keeps w td z s) : Keeps w td z (pauseEnds p prio s) := by
  unfold pauseEnds
  repeat' first
    | with_reducible first
      | exact hz | assumption | apply setEth_keeps | apply leave_keeps | refine Keeps.foldl (fun _ _ _ => ?_) _ ?_
      | refine Keeps.foldl_fst (fun _ _ _ => ?_) _ ?_ | refine Keeps.foldl_snd (fun _ _ _ => ?_) _ ?_
      | apply KC.fold
    | (with_reducible apply Keeps.upd; dsimp only) | dsimp only | intro

theorem pauseReceived_keeps {w td : Bool} {z : State} (p prio quanta : Nat) (s : State)
    (hz : Keeps w td z s) : Keeps w td z (pauseReceived p prio quanta s) := by
  unfold pauseReceived
  repeat' first
    | with_reducible first
      | exact hz | apply bump_keeps | apply setEth_keeps | apply countRx_keeps | apply pauseEnds_keeps
      | apply Keeps.ite | apply KC.fold
    | split | (with_reducible apply Keeps.upd; dsimp only) | dsimp only | intro

theorem pauseSend_keeps {w td : Bool} {z : State} (p fillPct : Nat) (s : State)
    (hz : Keeps w td z s) : Keeps w td z (pauseSend p fillPct s) := by
  unfold pauseSend
  repeat' first
    | with_reducible first
      | exact hz | apply bump_keeps | apply setEth_keeps | apply ethFrame_keeps | apply Keeps.ite | apply KC.fold
    | split | (with_reducible apply Keeps.upd; dsimp only) | dsimp only | intro

theorem msecKey_keeps {w td : Bool} {z : State} (p : Nat) (handle : Word) (s : State)
    (hz : Keeps w td z s) : Keeps w td z (msecKey p handle s) := by
  unfold msecKey
  repeat' first
    | with_reducible first
      | exact hz | assumption | apply setEth_keeps | apply KC.fold
    | split | (with_reducible apply Keeps.upd; dsimp only) | dsimp only | intro

theorem msecTxAn_keeps {w td : Bool} {z : State} (p an : Nat) (s : State)
    (hz : Keeps w td z s) : Keeps w td z (msecTxAn p an s) := by
  unfold msecTxAn
  repeat' first
    | with_reducible first
      | exact hz | apply setRw_keeps | apply setEth_keeps | apply KC.fold
    | (with_reducible apply Keeps.upd; dsimp only) | dsimp only | intro

theorem execLinkUp_keeps {w td : Bool} {t : State} (port mode : Nat) (s : State)
    (hz : execLinkUp port mode s = .next t) : Keeps w td s t := by
  unfold execLinkUp at hz
  injection hz with hz
  subst hz
  repeat' first
    | with_reducible first
      | exact Keeps.refl _ _ _ | apply linkUp_keeps
    | dsimp only | intro

theorem execLinkDown_keeps {w td : Bool} {t : State} (port : Nat) (s : State)
    (hz : execLinkDown port s = .next t) : Keeps w td s t := by
  unfold execLinkDown at hz
  injection hz with hz
  subst hz
  repeat' first
    | with_reducible first
      | exact Keeps.refl _ _ _ | apply linkDown_keeps
    | dsimp only | intro

theorem execLldpTimer_keeps {w td : Bool} {t : State} (port : Nat) (s : State)
    (hz : execLldpTimer port s = .next t) : Keeps w td s t := by
  unfold execLldpTimer at hz
  injection hz with hz
  subst hz
  repeat' first
    | with_reducible first
      | exact Keeps.refl _ _ _ | apply sendLldp_keeps
    | dsimp only | intro

theorem execLldpReceive_keeps {w td : Bool} {t : State} (port : Nat) (hdr : LinkHdr) (s : State)
    (hz : execLldpReceive port hdr s = .next t) : Keeps w td s t := by
  unfold execLldpReceive at hz
  injection hz with hz
  subst hz
  repeat' first
    | with_reducible first
      | exact Keeps.refl _ _ _ | apply countRx_keeps | apply linkCounts_keeps | apply Keeps.ite
    | split | dsimp only | intro

theorem execArpRequest_keeps {w td : Bool} {t : State} (port ip : Nat) (hdr : LinkHdr) (s : State)
    (hz : execArpRequest port ip hdr s = .next t) : Keeps w td s t := by
  unfold execArpRequest at hz
  injection hz with hz
  subst hz
  repeat' first
    | with_reducible first
      | exact Keeps.refl _ _ _ | apply ethFrame_keeps | apply receive_keeps | apply Keeps.ite
    | split | dsimp only | intro

theorem execNeighbourSolicitation_keeps {w td : Bool} {t : State} (port ip : Nat) (dad : Bool) (hdr : LinkHdr) (s : State)
    (hz : execNeighbourSolicitation port ip dad hdr s = .next t) : Keeps w td s t := by
  unfold execNeighbourSolicitation at hz
  injection hz with hz
  subst hz
  repeat' first
    | with_reducible first
      | exact Keeps.refl _ _ _ | apply ethFrame_keeps | apply receive_keeps | apply markDuplicate_keeps
      | apply Keeps.ite
    | split | dsimp only | intro

theorem execNeighbourResolutionRetry_keeps {w td : Bool} {t : State} (port ip : Nat) (s : State)
    (hz : execNeighbourResolutionRetry port ip s = .next t) : Keeps w td s t := by
  unfold execNeighbourResolutionRetry at hz
  injection hz with hz
  subst hz
  repeat' first
    | with_reducible first
      | exact Keeps.refl _ _ _ | apply resolutionRetry_keeps
    | dsimp only | intro

theorem execNeighbourExpiry_keeps {w td : Bool} {t : State} (port ip : Nat) (s : State)
    (hz : execNeighbourExpiry port ip s = .next t) : Keeps w td s t := by
  unfold execNeighbourExpiry at hz
  injection hz with hz
  subst hz
  repeat' first
    | with_reducible first
      | exact Keeps.refl _ _ _ | apply neighbourExpiry_keeps
    | dsimp only | intro

theorem execArpReply_keeps {w td : Bool} {t : State} (port ip mac : Nat) (hdr : LinkHdr) (s : State)
    (hz : execArpReply port ip mac hdr s = .next t) : Keeps w td s t := by
  unfold execArpReply at hz
  injection hz with hz
  subst hz
  repeat' first
    | with_reducible first
      | exact Keeps.refl _ _ _ | apply resolved_keeps | apply receive_keeps | apply Keeps.ite
    | split | dsimp only | intro

theorem execNeighbourAdvertisement_keeps {w td : Bool} {t : State} (port ip mac : Nat) (hdr : LinkHdr) (s : State)
    (hz : execNeighbourAdvertisement port ip mac hdr s = .next t) : Keeps w td s t := by
  unfold execNeighbourAdvertisement at hz
  injection hz with hz
  subst hz
  repeat' first
    | with_reducible first
      | exact Keeps.refl _ _ _ | apply resolved_keeps | apply receive_keeps | apply markDuplicate_keeps
      | apply Keeps.ite
    | split | dsimp only | intro

theorem execDuplicateAddressDetectionEnd_keeps {w td : Bool} {t : State} (port : Nat) (s : State)
    (hz : execDuplicateAddressDetectionEnd port s = .next t) : Keeps w td s t := by
  unfold execDuplicateAddressDetectionEnd at hz
  injection hz with hz
  subst hz
  repeat' first
    | with_reducible first
      | exact Keeps.refl _ _ _ | apply setEth_keeps | apply Keeps.ite | apply KC.fold
    | split | (with_reducible apply Keeps.upd; dsimp only) | dsimp only | intro

theorem execIcmpEcho_keeps {w td : Bool} {t : State} (port src dst : Nat) (payload : List Byte) (hdr : LinkHdr) (s : State)
    (hz : execIcmpEcho port src dst payload hdr s = .next t) : Keeps w td s t := by
  unfold execIcmpEcho at hz
  injection hz with hz
  subst hz
  repeat' first
    | with_reducible first
      | exact Keeps.refl _ _ _ | apply bump_keeps | apply receive_keeps | apply echo_keeps | apply Keeps.ite
    | split | dsimp only | intro

theorem execPfcPauseReceive_keeps {w td : Bool} {t : State} (port prio quanta : Nat) (s : State)
    (hz : execPfcPauseReceive port prio quanta s = .next t) : Keeps w td s t := by
  unfold execPfcPauseReceive at hz
  injection hz with hz
  subst hz
  repeat' first
    | with_reducible first
      | exact Keeps.refl _ _ _ | apply pauseReceived_keeps
    | dsimp only | intro

theorem execPfcPauseExpiry_keeps {w td : Bool} {t : State} (port prio : Nat) (s : State)
    (hz : execPfcPauseExpiry port prio s = .next t) : Keeps w td s t := by
  unfold execPfcPauseExpiry at hz
  injection hz with hz
  subst hz
  repeat' first
    | with_reducible first
      | exact Keeps.refl _ _ _ | apply pauseEnds_keeps
    | dsimp only | intro

theorem execPfcPauseSend_keeps {w td : Bool} {t : State} (port fillPct : Nat) (s : State)
    (hz : execPfcPauseSend port fillPct s = .next t) : Keeps w td s t := by
  unfold execPfcPauseSend at hz
  injection hz with hz
  subst hz
  repeat' first
    | with_reducible first
      | exact Keeps.refl _ _ _ | apply pauseSend_keeps
    | dsimp only | intro

theorem execEthCfgWrite_keeps {w td : Bool} {t : State} (port : Nat) (v : Word) (s : State)
    (hz : execEthCfgWrite port v s = .next t) : Keeps w td s t := by
  unfold execEthCfgWrite at hz
  injection hz with hz
  subst hz
  repeat' first
    | with_reducible first
      | exact Keeps.refl _ _ _ | apply ethCfgWrite_keeps | apply Keeps.ite
    | split | dsimp only | intro

theorem execEthMsecKey_keeps {w td : Bool} {t : State} (port : Nat) (handle : Word) (s : State)
    (hz : execEthMsecKey port handle s = .next t) : Keeps w td s t := by
  unfold execEthMsecKey at hz
  injection hz with hz
  subst hz
  repeat' first
    | with_reducible first
      | exact Keeps.refl _ _ _ | apply msecKey_keeps | apply Keeps.ite
    | split | dsimp only | intro

theorem execEthMsecTxAn_keeps {w td : Bool} {t : State} (port an : Nat) (s : State)
    (hz : execEthMsecTxAn port an s = .next t) : Keeps w td s t := by
  unfold execEthMsecTxAn at hz
  injection hz with hz
  subst hz
  repeat' first
    | with_reducible first
      | exact Keeps.refl _ _ _ | apply msecTxAn_keeps | apply Keeps.ite
    | split | dsimp only | intro

end Sys2Proof.Machine
end

