-- ==== Sys2Proof/Laws/KeepsQueues.lean ====
section
/-! SUPPORT. `Keeps` of the operations of Machine/Queues.lean. -/

namespace Sys2Proof.Machine

theorem mirrorQueue_keeps {w td : Bool} {z : State} (q : Queue) (s : State)
    (hz : Keeps w td z s) : Keeps w td z (mirrorQueue q s) := by
  unfold mirrorQueue
  repeat' first
    | with_reducible first
      | exact hz | apply mirror_keeps
    | dsimp only | intro

theorem replayRing_keeps {w td : Bool} {z : State} (j : Job) (s : State)
    (hz : Keeps w td z s) : Keeps w td z (replayRing j s).1 := by
  unfold replayRing
  repeat' first
    | with_reducible first
      | exact hz | apply fail_keeps | apply KC.fold
    | split | (with_reducible apply Keeps.upd; dsimp only) | dsimp only | intro

theorem createQueue_keeps {w td : Bool} {z : State} (j : Job) (s : State)
    (hz : Keeps w td z s) : Keeps w td z (createQueue j s).1 := by
  unfold createQueue
  repeat' first
    | with_reducible first
      | exact hz | apply setQueue_keeps | apply fail_keeps | apply mirrorQueue_keeps | apply replayRing_keeps
      | apply Keeps.ite | apply KC.fold
    | split | (with_reducible apply Keeps.upd; dsimp only) | dsimp only | intro

theorem resizeQueue_keeps {w td : Bool} {z : State} (j : Job) (s : State)
    (hz : Keeps w td z s) : Keeps w td z (resizeQueue j s).1 := by
  unfold resizeQueue
  repeat' first
    | with_reducible first
      | exact hz | apply setQueue_keeps | apply fail_keeps | apply mirrorQueue_keeps | apply replayRing_keeps
      | apply Keeps.ite | apply KC.fold
    | split | (with_reducible apply Keeps.upd; dsimp only) | dsimp only | intro

theorem tearQueue_keeps {w td : Bool} {z : State} (op kind ctx : Nat) (s : State)
    (hz : Keeps w td z s) : Keeps w td z (tearQueue op kind ctx s) := by
  unfold tearQueue
  repeat' first
    | with_reducible first
      | exact hz | assumption | apply setJob_keeps | apply setQueue_keeps | apply setSess_keeps
      | apply stageDone_keeps | apply asAdmin_keeps | apply Keeps.ite | apply KC.fold
    | split | (with_reducible apply Keeps.upd; dsimp only) | dsimp only | intro

theorem queryQueue_keeps {w td : Bool} {z : State} (j : Job) (s : State)
    (hz : Keeps w td z s) : Keeps w td z (queryQueue j s).1 := by
  unfold queryQueue
  repeat' first
    | with_reducible first
      | exact hz | apply fail_keeps | apply KC.emitted | apply KC.fold
    | split | (with_reducible apply Keeps.upd; dsimp only) | dsimp only | intro

theorem execCreateQueue_keeps {w td : Bool} {t : State} (ctx : Nat) (s : State)
    (hz : execCreateQueue ctx s = .next t) : Keeps w td s t := by
  unfold execCreateQueue at hz
  injection hz with hz
  subst hz
  repeat' first
    | with_reducible first
      | exact Keeps.refl _ _ _ | apply runAdmin_keeps | apply createQueue_keeps
    | dsimp only | intro

theorem execResizeQueue_keeps {w td : Bool} {t : State} (ctx : Nat) (s : State)
    (hz : execResizeQueue ctx s = .next t) : Keeps w td s t := by
  unfold execResizeQueue at hz
  injection hz with hz
  subst hz
  repeat' first
    | with_reducible first
      | exact Keeps.refl _ _ _ | apply runAdmin_keeps | apply resizeQueue_keeps
    | dsimp only | intro

theorem execResetQueue_keeps {w td : Bool} {t : State} (ctx : Nat) (s : State)
    (hz : execResetQueue ctx s = .next t) : Keeps w td s t := by
  unfold execResetQueue at hz
  injection hz with hz
  subst hz
  repeat' first
    | with_reducible first
      | exact Keeps.refl _ _ _ | apply tearQueue_keeps
    | dsimp only | intro

theorem execDestroyQueue_keeps {w td : Bool} {t : State} (ctx : Nat) (s : State)
    (hz : execDestroyQueue ctx s = .next t) : Keeps w td s t := by
  unfold execDestroyQueue at hz
  injection hz with hz
  subst hz
  repeat' first
    | with_reducible first
      | exact Keeps.refl _ _ _ | apply tearQueue_keeps
    | dsimp only | intro

theorem execQueryQueue_keeps {w td : Bool} {t : State} (ctx : Nat) (s : State)
    (hz : execQueryQueue ctx s = .next t) : Keeps w td s t := by
  unfold execQueryQueue at hz
  injection hz with hz
  subst hz
  repeat' first
    | with_reducible first
      | exact Keeps.refl _ _ _ | apply runAdmin_keeps | apply queryQueue_keeps
    | dsimp only | intro

end Sys2Proof.Machine
end

