-- ==== Sys2Proof/Laws/KeepsTolyr.lean ====
section
/-! SUPPORT. `Keeps` of the operations of Machine/Tolyr.lean. -/

namespace Sys2Proof.Machine

theorem hearSession_keeps {w td : Bool} {z : State} (i : Nat) (x : Sess) (e : W32) (seq src dst : Nat) (s : State)
    (hz : Keeps w td z s) : Keeps w td z (hearSession i x e seq src dst s) := by
  unfold hearSession
  repeat' first
    | with_reducible first
      | exact hz | apply evcAdd_keeps | apply setSess_keeps | apply mirrorSession_keeps | apply Keeps.ite
    | split | dsimp only | intro

theorem sessionFrame_keeps {w td : Bool} {z : State} (i : Nat) (x : Sess) (src dst : Nat) (f : List Byte) (s : State)
    (hz : Keeps w td z s) : Keeps w td z (sessionFrame i x src dst f s) := by
  unfold sessionFrame
  repeat' first
    | with_reducible first
      | exact hz | apply bump_keeps | apply evcAdd_keeps | apply endSession_keeps | apply hearSession_keeps
      | apply Keeps.ite | apply KC.fold
    | split | (with_reducible apply Keeps.upd; dsimp only) | dsimp only | intro

theorem helloFragment_keeps {w td : Bool} {z : State} (p src : Nat) (f : List Byte) (s : State)
    (hz : Keeps w td z s) : Keeps w td z (helloFragment p src f s) := by
  unfold helloFragment
  repeat' first
    | with_reducible first
      | exact hz | assumption | apply setEth_keeps | apply Keeps.ite | apply KC.fold
    | split | (with_reducible apply Keeps.upd; dsimp only) | dsimp only | intro

theorem dropAssembly_keeps {w td : Bool} {z : State} (p src key : Nat) (s : State)
    (hz : Keeps w td z s) : Keeps w td z (dropAssembly p src key s) := by
  unfold dropAssembly
  repeat' first
    | with_reducible first
      | exact hz | assumption | apply setEth_keeps | apply KC.fold
    | (with_reducible apply Keeps.upd; dsimp only) | dsimp only | intro

theorem tolFrame_keeps {w td : Bool} {z : State} (p : Nat) (relayed : Bool) (src dst : Nat) (f : List Byte) (s : State)
    (hz : Keeps w td z s) : Keeps w td z (tolFrame p relayed src dst f s) := by
  unfold tolFrame
  repeat' first
    | with_reducible first
      | exact hz | assumption | apply ropeSend_keeps | apply setEth_keeps | apply sessionFrame_keeps
      | apply helloFragment_keeps | apply Keeps.ite | apply KC.fold
    | split | (with_reducible apply Keeps.upd; dsimp only) | dsimp only | intro

theorem datagram_keeps {w td : Bool} {z : State} (p : Nat) (d : Datagram) (s : State)
    (hz : Keeps w td z s) : Keeps w td z (datagram p d s) := by
  unfold datagram
  repeat' first
    | with_reducible first
      | exact hz | apply bump_keeps | apply receive_keeps | apply tolFrame_keeps | apply Keeps.ite
    | split | dsimp only | intro

theorem acceptDrawn_keeps {w td : Bool} {z : State} (p : Nat) (h : Handshake) (b : List Byte) (s : State)
    (hz : Keeps w td z s) : Keeps w td z (acceptDrawn p h b s) := by
  unfold acceptDrawn
  repeat' first
    | with_reducible first
      | exact hz | assumption | apply ropeSend_keeps | apply setEth_keeps | apply sendAccept_keeps
      | apply Keeps.ite | apply KC.fold
    | split | (with_reducible apply Keeps.upd; dsimp only) | dsimp only | intro

theorem acceptGrant_keeps {w td : Bool} {z : State} (sid : Nat) (b : List Byte) (s : State)
    (hz : Keeps w td z s) : Keeps w td z (acceptGrant sid b s) := by
  unfold acceptGrant
  repeat' first
    | with_reducible first
      | exact hz | assumption | apply acceptDrawn_keeps | apply KC.fold
    | split | (with_reducible apply Keeps.upd; dsimp only) | dsimp only | intro

theorem clearClose_keeps {w td : Bool} {z : State} (p src loc sid reason status : Nat) (s : State)
    (hz : Keeps w td z s) : Keeps w td z (clearClose p src loc sid reason status s) := by
  unfold clearClose
  repeat' first
    | with_reducible first
      | exact hz | apply toHost_keeps
    | dsimp only | intro

theorem beginHandshake_keeps {w td : Bool} {z : State} (p src loc tag : Nat) (m : List Byte) (c : Cred) (s : State)
    (hz : Keeps w td z s) : Keeps w td z (beginHandshake p src loc tag m c s) := by
  unfold beginHandshake
  repeat' first
    | with_reducible first
      | exact hz | apply setEth_keeps | apply grantInternal_keeps | apply requestDraw_keeps
      | apply acceptDrawn_keeps | apply Keeps.ite | apply KC.fold
    | split | (with_reducible apply Keeps.upd; dsimp only) | dsimp only | intro

theorem helloChecks_keeps {w td : Bool} {z : State} (p src loc tag : Nat) (m : List Byte) (s : State)
    (hz : Keeps w td z s) : Keeps w td z (helloChecks p src loc tag m s) := by
  unfold helloChecks
  repeat' first
    | with_reducible first
      | exact hz | apply bump_keeps | apply clearClose_keeps | apply beginHandshake_keeps | apply Keeps.ite
      | apply KC.fold
    | split | (with_reducible apply Keeps.upd; dsimp only) | dsimp only | intro

theorem hello_keeps {w td : Bool} {z : State} (p src dst ver tag : Nat) (m : List Byte) (s : State)
    (hz : Keeps w td z s) : Keeps w td z (hello p src dst ver tag m s) := by
  unfold hello
  repeat' first
    | with_reducible first
      | exact hz | assumption | apply bump_keeps | apply ropeSend_keeps | apply toHost_keeps
      | apply sendAccept_keeps | apply clearClose_keeps | apply helloChecks_keeps | apply Keeps.ite
      | refine Keeps.foldl (fun _ _ _ => ?_) _ ?_ | refine Keeps.foldl_fst (fun _ _ _ => ?_) _ ?_
      | refine Keeps.foldl_snd (fun _ _ _ => ?_) _ ?_ | apply KC.fold
    | split | (with_reducible apply Keeps.upd; dsimp only) | dsimp only | intro

theorem openSession_keeps {w td : Bool} {z : State} (p : Nat) (h : Handshake) (m : List Byte) (s : State)
    (hz : Keeps w td z s) : Keeps w td z (openSession p h m s) := by
  unfold openSession
  repeat' first
    | with_reducible first
      | exact hz | assumption | apply bump_keeps | apply evcAdd_keeps | apply setQueue_keeps | apply setSess_keeps
      | apply sendAck_keeps | apply mirrorSession_keeps | apply mirrorQueue_keeps | apply hello_keeps
      | apply Keeps.ite | apply KC.fold
    | split | (with_reducible apply Keeps.upd; dsimp only) | dsimp only | intro

theorem hello3_keeps {w td : Bool} {z : State} (p src dst sid : Nat) (m : List Byte) (s : State)
    (hz : Keeps w td z s) : Keeps w td z (hello3 p src dst sid m s) := by
  unfold hello3
  repeat' first
    | with_reducible first
      | exact hz | assumption | apply bump_keeps | apply ropeSend_keeps | apply setEth_keeps
      | apply sendRecord_keeps | apply clearClose_keeps | apply openSession_keeps | apply Keeps.ite | apply KC.fold
    | split | (with_reducible apply Keeps.upd; dsimp only) | dsimp only | intro

theorem helloArrives_keeps {w td : Bool} {z : State} (p src dst key : Nat) (m : List Byte) (hdr : LinkHdr) (act : List Byte → State → State) (s : State)
    (hact : ∀ (y0 : List Byte) (y1 : State), Keeps w td z y1 → Keeps w td z (act y0 y1))
    (hz : Keeps w td z s) : Keeps w td z (helloArrives p src dst key m hdr act s) := by
  unfold helloArrives
  repeat' first
    | with_reducible first
      | exact hz | assumption | apply receive_keeps | apply dropAssembly_keeps | apply hact | apply Keeps.ite
    | split | dsimp only | intro

theorem mirrorEpoch_keeps {w td : Bool} {z : State} (i : Nat) (x : Sess) (s : State)
    (hz : Keeps w td z s) : Keeps w td z (mirrorEpoch i x s) := by
  unfold mirrorEpoch
  repeat' first
    | with_reducible first
      | exact hz | apply ropeSend_keeps | apply Keeps.ite | apply KC.fold
    | split | (with_reducible apply Keeps.upd; dsimp only) | dsimp only | intro

theorem sendUpdate_keeps {w td : Bool} {z : State} (i : Nat) (response : Bool) (s : State)
    (hz : Keeps w td z s) : Keeps w td z (sendUpdate i response s) := by
  unfold sendUpdate
  repeat' first
    | with_reducible first
      | exact hz | apply setSess_keeps | apply settleSess_keeps | apply mirrorEpoch_keeps | apply KC.fold
    | split | (with_reducible apply Keeps.upd; dsimp only) | dsimp only | intro

theorem startUpdate_keeps {w td : Bool} {z : State} (i : Nat) (x : Sess) (s : State)
    (hz : Keeps w td z s) : Keeps w td z (startUpdate i x s) := by
  unfold startUpdate
  repeat' first
    | with_reducible first
      | exact hz | apply setSess_keeps | apply endSession_keeps | apply sendUpdate_keeps | apply Keeps.ite
      | apply KC.fold
    | split | (with_reducible apply Keeps.upd; dsimp only) | dsimp only | intro

theorem updateReceived_keeps {w td : Bool} {z : State} (i : Nat) (x : Sess) (e : W32) (s : State)
    (hz : Keeps w td z s) : Keeps w td z (updateReceived i x e s) := by
  unfold updateReceived
  repeat' first
    | with_reducible first
      | exact hz | assumption | apply setSess_keeps | apply endSession_keeps | apply countUpdate_keeps
      | apply sendUpdate_keeps | apply Keeps.ite | apply KC.fold
    | split | (with_reducible apply Keeps.upd; dsimp only) | dsimp only | intro

theorem mirrorUnits_keeps {w td : Bool} {z : State} (q : Queue) (f : RxFrame) (s : State)
    (hz : Keeps w td z s) : Keeps w td z (mirrorUnits q f s).1 := by
  unfold mirrorUnits
  repeat' first
    | with_reducible first
      | exact hz | assumption | apply ropeSend_keeps | apply Keeps.ite | refine Keeps.foldl (fun _ _ _ => ?_) _ ?_
      | refine Keeps.foldl_fst (fun _ _ _ => ?_) _ ?_ | refine Keeps.foldl_snd (fun _ _ _ => ?_) _ ?_
    | split | dsimp only | intro

theorem writeUnits_keeps {td : Bool} {z : State} (q : Queue) (port : Nat) (f : RxFrame) (s : State)
    (hz : Keeps true td z s) : Keeps true td z (writeUnits q port f s) := by
  unfold writeUnits
  repeat' first
    | with_reducible first
      | exact hz | apply writeRing_keeps
    | dsimp only | intro

theorem movePidx_keeps {w td : Bool} {z : State} (slot : Nat) (q : Queue) (p : W32) (full : Bool) (s : State)
    (hz : Keeps w td z s) : Keeps w td z (movePidx slot q p full s) := by
  unfold movePidx
  repeat' first
    | with_reducible first
      | exact hz | apply setQueue_keeps | apply Keeps.ite | apply KC.fold
    | split | (with_reducible apply Keeps.upd; dsimp only) | dsimp only | intro

theorem ackApplied_keeps {w td : Bool} {z : State} (i : Nat) (sent : Bool) (s : State)
    (hz : Keeps w td z s) : Keeps w td z (ackApplied i sent s) := by
  unfold ackApplied
  repeat' first
    | with_reducible first
      | exact hz | assumption | apply setSess_keeps | apply sendAck_keeps | apply Keeps.ite | apply KC.fold
    | split | (with_reducible apply Keeps.upd; dsimp only) | dsimp only | intro

theorem applyRing_keeps {td : Bool} {z : State} (i port : Nat) (f : RxFrame) (s : State)
    (hz : Keeps true td z s) : Keeps true td z (applyRing i port f s) := by
  unfold applyRing
  repeat' first
    | with_reducible first
      | exact hz | assumption | apply bump_keeps | apply mirrorSession_keeps | apply endSession_keeps
      | apply mirrorUnits_keeps | apply writeUnits_keeps | apply movePidx_keeps | apply ackApplied_keeps
      | apply Keeps.ite | apply KC.fold
    | split | (with_reducible apply Keeps.upd; dsimp only) | dsimp only | intro

theorem deliverFrame_keeps {td : Bool} {z : State} (i : Nat) (x : Sess) (f : RxFrame) (s : State)
    (hz : Keeps true td z s) : Keeps true td z (deliverFrame i x f s) := by
  unfold deliverFrame
  repeat' first
    | with_reducible first
      | exact hz | assumption | apply setSess_keeps | apply mirrorSession_keeps | apply updateReceived_keeps
      | apply ackApplied_keeps | apply applyRing_keeps | apply Keeps.ite | apply KC.fold
    | split | (with_reducible apply Keeps.upd; dsimp only) | dsimp only | intro

theorem deliverHeld_keeps {td : Bool} {z : State} (i : Nat) : ∀ (n : Nat) (s : State),
    Keeps true td z s → Keeps true td z (deliverHeld i n s)
  | 0, _, h => h
  | n + 1, s, h => by
    simp only [deliverHeld]
    split
    · exact h
    · split
      · exact deliverHeld_keeps i n _ (deliverFrame_keeps _ _ _ _ (setSess_keeps _ _ _ h))
      · exact h

theorem reliable_keeps {td : Bool} {z : State} (i : Nat) (f : RxFrame) (s : State)
    (hz : Keeps true td z s) : Keeps true td z (reliable i f s) := by
  unfold reliable
  repeat' first
    | with_reducible first
      | exact hz | assumption | apply setSess_keeps | apply sendAck_keeps | apply deliverFrame_keeps
      | apply deliverHeld_keeps | apply Keeps.ite | apply KC.fold
    | split | (with_reducible apply Keeps.upd; dsimp only) | dsimp only | intro

theorem frameAcked_keeps {w td : Bool} {z : State} (i delayUs : Nat) (s : State) (f : TxFrame)
    (hz : Keeps w td z s) : Keeps w td z (frameAcked i delayUs s f) := by
  unfold frameAcked
  repeat' first
    | with_reducible first
      | exact hz | apply setQueue_keeps | apply setSess_keeps | apply Keeps.ite | apply KC.fold
    | split | (with_reducible apply Keeps.upd; dsimp only) | dsimp only | intro

theorem tolAck_keeps {w td : Bool} {z : State} (i : Nat) (cum : W32) (window delayUs : Nat) (s : State)
    (hz : Keeps w td z s) : Keeps w td z (tolAck i cum window delayUs s) := by
  unfold tolAck
  repeat' first
    | with_reducible first
      | exact hz | assumption | apply setSess_keeps | apply drainBlocked_keeps | apply mirrorSession_keeps
      | apply frameAcked_keeps | apply Keeps.ite | refine Keeps.foldl (fun _ _ _ => ?_) _ ?_ | apply KC.fold
    | split | (with_reducible apply Keeps.upd; dsimp only) | dsimp only | intro

theorem retransmit_keeps {w td : Bool} {z : State} (i : Nat) (dseq : W32) (s : State)
    (hz : Keeps w td z s) : Keeps w td z (retransmit i dseq s) := by
  unfold retransmit
  repeat' first
    | with_reducible first
      | exact hz | assumption | apply bump_keeps | apply evcAdd_keeps | apply setSess_keeps
      | apply sendRecord_keeps | apply endSession_keeps | apply Keeps.ite | apply KC.fold
    | split | (with_reducible apply Keeps.upd; dsimp only) | dsimp only | intro

theorem graceEnds_keeps {w td : Bool} {z : State} (i : Nat) (s : State)
    (hz : Keeps w td z s) : Keeps w td z (graceEnds i s) := by
  unfold graceEnds
  repeat' first
    | with_reducible first
      | exact hz | apply setSess_keeps | apply KC.fold
    | split | (with_reducible apply Keeps.upd; dsimp only) | dsimp only | intro

theorem seqExhausted_keeps {w td : Bool} {z : State} (i : Nat) (s : State)
    (hz : Keeps w td z s) : Keeps w td z (seqExhausted i s) := by
  unfold seqExhausted
  repeat' first
    | with_reducible first
      | exact hz | apply setSess_keeps | apply endSession_keeps | apply Keeps.ite | apply KC.fold
    | split | (with_reducible apply Keeps.upd; dsimp only) | dsimp only | intro

theorem sclose_keeps {w td : Bool} {z : State} (sid : Nat) (s : State)
    (hz : Keeps w td z s) : Keeps w td z (sclose sid s) := by
  unfold sclose
  repeat' first
    | with_reducible first
      | exact hz | apply endSession_keeps | apply KC.fold
    | split | (with_reducible apply Keeps.upd; dsimp only) | dsimp only | intro

theorem execUdpDatagramReceive_keeps {w td : Bool} {t : State} (port : Nat) (d : Datagram) (s : State)
    (hz : execUdpDatagramReceive port d s = .next t) : Keeps w td s t := by
  unfold execUdpDatagramReceive at hz
  injection hz with hz
  subst hz
  repeat' first
    | with_reducible first
      | exact Keeps.refl _ _ _ | apply datagram_keeps | apply Keeps.ite
    | split | dsimp only | intro

theorem execHello_keeps {w td : Bool} {t : State} (port src dst ver tag : Nat) (msg : List Byte) (hdr : LinkHdr) (s : State)
    (hz : execHello port src dst ver tag msg hdr s = .next t) : Keeps w td s t := by
  unfold execHello at hz
  injection hz with hz
  subst hz
  repeat' first
    | with_reducible first
      | exact Keeps.refl _ _ _ | apply hello_keeps | apply helloArrives_keeps | apply Keeps.ite
    | split | dsimp only | intro

theorem execHelloStep3_keeps {w td : Bool} {t : State} (port src dst sid : Nat) (msg : List Byte) (hdr : LinkHdr) (s : State)
    (hz : execHelloStep3 port src dst sid msg hdr s = .next t) : Keeps w td s t := by
  unfold execHelloStep3 at hz
  injection hz with hz
  subst hz
  repeat' first
    | with_reducible first
      | exact Keeps.refl _ _ _ | apply hello3_keeps | apply helloArrives_keeps | apply Keeps.ite
    | split | dsimp only | intro

theorem execHandshakeTimeout_keeps {w td : Bool} {t : State} (port tag : Nat) (s : State)
    (hz : execHandshakeTimeout port tag s = .next t) : Keeps w td s t := by
  unfold execHandshakeTimeout at hz
  injection hz with hz
  subst hz
  repeat' first
    | with_reducible first
      | exact Keeps.refl _ _ _ | assumption | apply setEth_keeps | apply Keeps.ite | apply KC.fold
    | split | (with_reducible apply Keeps.upd; dsimp only) | dsimp only | intro

theorem execKeyUpdate_keeps {td : Bool} {t : State} (sess : Nat) (dseq epoch : W32) (response : Bool) (s : State)
    (hz : execKeyUpdate sess dseq epoch response s = .next t) : Keeps true td s t := by
  unfold execKeyUpdate at hz
  injection hz with hz
  subst hz
  repeat' first
    | with_reducible first
      | exact Keeps.refl _ _ _ | apply reliable_keeps
    | dsimp only | intro

theorem execKeyUpdateStart_keeps {w td : Bool} {t : State} (sess : Nat) (s : State)
    (hz : execKeyUpdateStart sess s = .next t) : Keeps w td s t := by
  unfold execKeyUpdateStart at hz
  injection hz with hz
  subst hz
  repeat' first
    | with_reducible first
      | exact Keeps.refl _ _ _ | apply startUpdate_keeps | apply Keeps.ite | apply KC.fold
    | split | (with_reducible apply Keeps.upd; dsimp only) | dsimp only | intro

theorem execEpochGraceExpiry_keeps {w td : Bool} {t : State} (sess : Nat) (s : State)
    (hz : execEpochGraceExpiry sess s = .next t) : Keeps w td s t := by
  unfold execEpochGraceExpiry at hz
  injection hz with hz
  subst hz
  repeat' first
    | with_reducible first
      | exact Keeps.refl _ _ _ | apply graceEnds_keeps
    | dsimp only | intro

theorem execSeqExhausted_keeps {w td : Bool} {t : State} (sess : Nat) (s : State)
    (hz : execSeqExhausted sess s = .next t) : Keeps w td s t := by
  unfold execSeqExhausted at hz
  injection hz with hz
  subst hz
  repeat' first
    | with_reducible first
      | exact Keeps.refl _ _ _ | apply seqExhausted_keeps
    | dsimp only | intro

theorem execRingWrite_keeps {td : Bool} {t : State} (sess : Nat) (dseq : W32) (qnum units : Nat) (first newPidx : W32) (data : List Byte) (s : State)
    (hz : execRingWrite sess dseq qnum units first newPidx data s = .next t) : Keeps true td s t := by
  unfold execRingWrite at hz
  injection hz with hz
  subst hz
  repeat' first
    | with_reducible first
      | exact Keeps.refl _ _ _ | apply reliable_keeps
    | dsimp only | intro

theorem execTolyrAck_keeps {w td : Bool} {t : State} (sess : Nat) (cum : W32) (window delayUs : Nat) (_ranges : List (W32 × W32)) (s : State)
    (hz : execTolyrAck sess cum window delayUs _ranges s = .next t) : Keeps w td s t := by
  unfold execTolyrAck at hz
  injection hz with hz
  subst hz
  repeat' first
    | with_reducible first
      | exact Keeps.refl _ _ _ | apply tolAck_keeps
    | dsimp only | intro

theorem execRetransmitTimeout_keeps {w td : Bool} {t : State} (sess : Nat) (dseq : W32) (s : State)
    (hz : execRetransmitTimeout sess dseq s = .next t) : Keeps w td s t := by
  unfold execRetransmitTimeout at hz
  injection hz with hz
  subst hz
  repeat' first
    | with_reducible first
      | exact Keeps.refl _ _ _ | apply retransmit_keeps
    | dsimp only | intro

theorem execPing_keeps {w td : Bool} {t : State} (sess : Nat) (id : Word) (reply : Bool) (s : State)
    (hz : execPing sess id reply s = .next t) : Keeps w td s t := by
  unfold execPing at hz
  injection hz with hz
  subst hz
  repeat' first
    | with_reducible first
      | exact Keeps.refl _ _ _ | apply setSess_keeps | apply sendRecord_keeps | apply Keeps.ite | apply KC.fold
    | split | (with_reducible apply Keeps.upd; dsimp only) | dsimp only | intro

theorem execIdlePing_keeps {w td : Bool} {t : State} (sess : Nat) (s : State)
    (hz : execIdlePing sess s = .next t) : Keeps w td s t := by
  unfold execIdlePing at hz
  injection hz with hz
  subst hz
  repeat' first
    | with_reducible first
      | exact Keeps.refl _ _ _ | apply useBytes_keeps | apply sendRecord_keeps | apply Keeps.ite | apply KC.fold
    | split | (with_reducible apply Keeps.upd; dsimp only) | dsimp only | intro

theorem execIdleClose_keeps {w td : Bool} {t : State} (sess : Nat) (s : State)
    (hz : execIdleClose sess s = .next t) : Keeps w td s t := by
  unfold execIdleClose at hz
  injection hz with hz
  subst hz
  repeat' first
    | with_reducible first
      | exact Keeps.refl _ _ _ | apply endSession_keeps | apply Keeps.ite | apply KC.fold
    | split | (with_reducible apply Keeps.upd; dsimp only) | dsimp only | intro

theorem execClose_keeps {w td : Bool} {t : State} (sess : Nat) (s : State)
    (hz : execClose sess s = .next t) : Keeps w td s t := by
  unfold execClose at hz
  injection hz with hz
  subst hz
  repeat' first
    | with_reducible first
      | exact Keeps.refl _ _ _ | apply endSession_keeps
    | dsimp only | intro

theorem execPairMoveRepeat_keeps {w td : Bool} {t : State} (sess : Nat) (s : State)
    (hz : execPairMoveRepeat sess s = .next t) : Keeps w td s t := by
  unfold execPairMoveRepeat at hz
  injection hz with hz
  subst hz
  repeat' first
    | with_reducible first
      | exact Keeps.refl _ _ _ | apply sendPairMove_keeps | apply KC.fold
    | split | (with_reducible apply Keeps.upd; dsimp only) | dsimp only | intro

theorem execTolSclose_keeps {w td : Bool} {t : State} (sid : Nat) (s : State)
    (hz : execTolSclose sid s = .next t) : Keeps w td s t := by
  unfold execTolSclose at hz
  injection hz with hz
  subst hz
  repeat' first
    | with_reducible first
      | exact Keeps.refl _ _ _ | apply sclose_keeps
    | dsimp only | intro

end Sys2Proof.Machine
end

