-- ==== Sys2Proof/Laws/KeepsRope.lean ====
section
/-! SUPPORT. `Keeps` of the operations of Machine/Rope.lean. -/

namespace Sys2Proof.Machine

theorem heardOn_keeps {w td : Bool} {z : State} (p : Nat) (s : State)
    (hz : Keeps w td z s) : Keeps w td z (heardOn p s) := by
  unfold heardOn
  repeat' first
    | with_reducible first
      | exact hz | apply setRope_keeps | apply Keeps.ite | apply KC.fold
    | split | (with_reducible apply Keeps.upd; dsimp only) | dsimp only | intro

theorem ropeArrives_keeps {w td : Bool} {z : State} (h : RopeHdr) (cls : Nat) (b : RopeBody) (s : State)
    (hz : Keeps w td z s) : Keeps w td z (ropeArrives h cls b s).2 := by
  unfold ropeArrives
  repeat' first
    | with_reducible first
      | exact hz | apply bump_keeps | apply evcAdd_keeps | apply Keeps.ite
    | split | dsimp only | intro

theorem ropeReceive_keeps {w td : Bool} {z : State} (h : RopeHdr) (cls seq : Nat) (b : RopeBody) (s : State)
    (hz : Keeps w td z s) : Keeps w td z (ropeReceive h cls seq b s).2 := by
  unfold ropeReceive
  repeat' first
    | with_reducible first
      | exact hz | apply bump_keeps | apply heardOn_keeps | apply ropeArrives_keeps | apply Keeps.ite
    | split | dsimp only | intro

theorem ackRope_keeps {w td : Bool} {z : State} (cls : Nat) (s : State)
    (hz : Keeps w td z s) : Keeps w td z (ackRope cls s) := by
  unfold ackRope
  repeat' first
    | with_reducible first
      | exact hz | apply ropeSend_keeps | apply Keeps.ite
    | split | dsimp only | intro

theorem inOrder_keeps {w td : Bool} {z : State} (h : RopeHdr) (cls seq : Nat) (b : RopeBody) (f : State → State) (s : State)
    (hf : ∀ (y0 : State), Keeps w td z y0 → Keeps w td z (f y0))
    (hz : Keeps w td z s) : Keeps w td z (inOrder h cls seq b f s) := by
  unfold inOrder
  repeat' first
    | with_reducible first
      | exact hz | assumption | apply ropeReceive_keeps | apply ackRope_keeps | apply hf | apply Keeps.ite
      | apply KC.fold
    | split | (with_reducible apply Keeps.upd; dsimp only) | dsimp only | intro

theorem mirrorFrame_keeps {w td : Bool} {z : State} (h : RopeHdr) (cls seq : Nat) (b : RopeBody) (f : State → State) (s : State)
    (hf : ∀ (y0 : State), Keeps w td z y0 → Keeps w td z (f y0))
    (hz : Keeps w td z s) : Keeps w td z (mirrorFrame h cls seq b f s) := by
  unfold mirrorFrame
  repeat' first
    | with_reducible first
      | exact hz | assumption | apply bump_keeps | apply inOrder_keeps | apply hf
    | dsimp only | intro

theorem bulkStep_keeps {w td : Bool} {z : State} (s : State)
    (hz : Keeps w td z s) : Keeps w td z (bulkStep s) := by
  unfold bulkStep
  repeat' first
    | with_reducible first
      | exact hz | assumption | apply ropeSend_keeps | apply KC.fold
    | split | (with_reducible apply Keeps.upd; dsimp only) | dsimp only | intro

theorem bulkAgain_keeps {w td : Bool} {z : State} (s : State) (b : RopeBody)
    (hz : Keeps w td z s) : Keeps w td z (bulkAgain s b) := by
  unfold bulkAgain
  repeat' first
    | with_reducible first
      | exact hz | apply ropeSend_keeps | apply Keeps.ite | apply KC.fold
    | split | (with_reducible apply Keeps.upd; dsimp only) | dsimp only | intro

theorem bulkAcked_keeps {w td : Bool} {z : State} (l : List RopeTx) (s : State)
    (hz : Keeps w td z s) : Keeps w td z (bulkAcked l s) := by
  unfold bulkAcked
  repeat' first
    | with_reducible first
      | exact hz | assumption | apply bulkStep_keeps | apply bulkAgain_keeps | apply Keeps.ite
      | refine Keeps.foldl (fun _ _ _ => ?_) _ ?_ | refine Keeps.foldl_fst (fun _ _ _ => ?_) _ ?_
      | refine Keeps.foldl_snd (fun _ _ _ => ?_) _ ?_
    | split | dsimp only | intro

theorem takeAcks_keeps {w td : Bool} {z : State} (a : Nat × Nat × Nat) (s : State)
    (hz : Keeps w td z s) : Keeps w td z (takeAcks a s) := by
  unfold takeAcks
  repeat' first
    | with_reducible first
      | exact hz | assumption | apply evcAdd_keeps | apply settleAll_keeps | apply bulkAcked_keeps
      | apply Keeps.ite | apply KC.fold
    | split | (with_reducible apply Keeps.upd; dsimp only) | dsimp only | intro

theorem startCatchUp_keeps {w td : Bool} {z : State} (before s : State)
    (hz : Keeps w td z s) : Keeps w td z (startCatchUp before s) := by
  unfold startCatchUp
  repeat' first
    | with_reducible first
      | exact hz | assumption | apply bump_keeps | apply evcAdd_keeps | refine Keeps.foldl (fun _ _ _ => ?_) _ ?_
      | apply KC.fold
    | (with_reducible apply Keeps.upd; dsimp only) | dsimp only | intro

theorem declare_keeps {td : Bool} {z : State} (cause : Nat) (s : State)
    (hz : Keeps true td z s) : Keeps true td z (declare cause s) := by
  unfold declare
  repeat' first
    | with_reducible first
      | exact hz | assumption | apply takeAddresses_keeps | apply takeSessions_keeps | apply recordTake_keeps
      | apply leavePair_keeps | apply voidProps_keeps | apply startCatchUp_keeps | apply KC.fold
    | (with_reducible apply Keeps.upd; dsimp only) | dsimp only | intro

theorem selfFence_keeps {td : Bool} {z : State} (s : State)
    (hz : Keeps true td z s) : Keeps true td z (selfFence s) := by
  unfold selfFence
  repeat' first
    | with_reducible first
      | exact hz | assumption | apply pairState_keeps | apply endJobs_keeps | apply linkDown_keeps
      | refine Keeps.foldl (fun _ _ _ => ?_) _ ?_ | refine Keeps.foldl_fst (fun _ _ _ => ?_) _ ?_
      | refine Keeps.foldl_snd (fun _ _ _ => ?_) _ ?_ | apply KC.fold
    | (with_reducible apply Keeps.upd; dsimp only) | dsimp only | intro

theorem breakJoin_keeps {td : Bool} {z : State} (s : State)
    (hz : Keeps true td z s) : Keeps true td z (breakJoin s) := by
  unfold breakJoin
  repeat' first
    | with_reducible first
      | exact hz | apply lostRegistry_keeps | apply journal_keeps | apply leavePair_keeps | apply selfFence_keeps
      | apply Keeps.ite | apply KC.fold
    | split | (with_reducible apply Keeps.upd; dsimp only) | dsimp only | intro

theorem joinEnds_keeps {w td : Bool} {z : State} (s : State)
    (hz : Keeps w td z s) : Keeps w td z (joinEnds s) := by
  unfold joinEnds
  repeat' first
    | with_reducible first
      | exact hz | apply pairState_keeps | apply KC.fold
    | (with_reducible apply Keeps.upd; dsimp only) | dsimp only | intro

theorem abandonJoin_keeps {td : Bool} {z : State} (s : State)
    (hz : Keeps true td z s) : Keeps true td z (abandonJoin s) := by
  unfold abandonJoin
  repeat' first
    | with_reducible first
      | exact hz | apply breakJoin_keeps | apply joinEnds_keeps | apply Keeps.ite
    | split | dsimp only | intro

theorem judge_keeps {td : Bool} {z : State} (s : State)
    (hz : Keeps true td z s) : Keeps true td z (judge s) := by
  unfold judge
  repeat' first
    | with_reducible first
      | exact hz | apply declare_keeps | apply selfFence_keeps | apply abandonJoin_keeps | apply Keeps.ite
    | split | dsimp only | intro

theorem portLost_keeps {td : Bool} {z : State} (p : Nat) (s : State)
    (hz : Keeps true td z s) : Keeps true td z (portLost p s) := by
  unfold portLost
  repeat' first
    | with_reducible first
      | exact hz | apply setRope_keeps | apply collect_keeps | apply abandonJoin_keeps | apply Keeps.ite
      | apply KC.fold
    | split | (with_reducible apply Keeps.upd; dsimp only) | dsimp only | intro

theorem portSilence_keeps {td : Bool} {z : State} (p : Nat) (s : State)
    (hz : Keeps true td z s) : Keeps true td z (portSilence p s) := by
  unfold portSilence
  repeat' first
    | with_reducible first
      | exact hz | apply setRope_keeps | apply judge_keeps | apply Keeps.ite | apply KC.fold
    | split | (with_reducible apply Keeps.upd; dsimp only) | dsimp only | intro

theorem liveStop_keeps {td : Bool} {z : State} (s : State)
    (hz : Keeps true td z s) : Keeps true td z (liveStop s) := by
  unfold liveStop
  repeat' first
    | with_reducible first
      | exact hz | apply collect_keeps | apply judge_keeps | apply Keeps.ite | apply KC.fold
    | split | (with_reducible apply Keeps.upd; dsimp only) | dsimp only | intro

theorem fenceReceived_keeps {td : Bool} {z : State} (reason : Nat) (s : State)
    (hz : Keeps true td z s) : Keeps true td z (fenceReceived reason s) := by
  unfold fenceReceived
  repeat' first
    | with_reducible first
      | exact hz | apply leadStays_keeps | apply secondLeaves_keeps | apply declare_keeps | apply breakJoin_keeps
      | apply Keeps.ite
    | split | dsimp only | intro

theorem countMissed_keeps {w td : Bool} {z : State} (s : State) (p : Nat)
    (hz : Keeps w td z s) : Keeps w td z (countMissed s p) := by
  unfold countMissed
  repeat' first
    | with_reducible first
      | exact hz | apply bump_keeps | apply setRope_keeps | apply Keeps.ite | apply KC.fold
    | split | (with_reducible apply Keeps.upd; dsimp only) | dsimp only | intro

theorem heartbeat_keeps {w td : Bool} {z : State} (s : State)
    (hz : Keeps w td z s) : Keeps w td z (heartbeat s) := by
  unfold heartbeat
  repeat' first
    | with_reducible first
      | exact hz | assumption | apply ropeSend_keeps | apply countMissed_keeps
      | refine Keeps.foldl (fun _ _ _ => ?_) _ ?_
    | dsimp only | intro

theorem holdAddresses_keeps {w td : Bool} {z : State} (s : State)
    (hz : Keeps w td z s) : Keeps w td z (holdAddresses s) := by
  unfold holdAddresses
  repeat' first
    | with_reducible first
      | exact hz | apply announceAll_keeps | apply KC.fold
    | (with_reducible apply Keeps.upd; dsimp only) | dsimp only | intro

theorem addressReport_keeps {w td : Bool} {z : State} (holds : Bool) (s : State)
    (hz : Keeps w td z s) : Keeps w td z (addressReport holds s) := by
  unfold addressReport
  repeat' first
    | with_reducible first
      | exact hz | apply holdAddresses_keeps | apply Keeps.ite
    | split | dsimp only | intro

theorem heartbeatReceived_keeps {w td : Bool} {z : State} (h : RopeHdr) (seq : Nat) (b : RopeBody) (a : Nat × Nat × Nat) (holds : Bool) (rtt : Nat) (s : State)
    (hz : Keeps w td z s) : Keeps w td z (heartbeatReceived h seq b a holds rtt s) := by
  unfold heartbeatReceived
  repeat' first
    | with_reducible first
      | exact hz | apply bump_keeps | apply setRope_keeps | apply ropeReceive_keeps | apply ackRope_keeps
      | apply takeAcks_keeps | apply addressReport_keeps | apply Keeps.ite | apply KC.fold
    | split | (with_reducible apply Keeps.upd; dsimp only) | dsimp only | intro

theorem resend_keeps {w td : Bool} {z : State} (cls seq : Nat) (s : State)
    (hz : Keeps w td z s) : Keeps w td z (resend cls seq s) := by
  unfold resend
  repeat' first
    | with_reducible first
      | exact hz | assumption | apply bump_keeps | apply ropeEmit_keeps | apply Keeps.ite
      | refine Keeps.foldl (fun _ _ _ => ?_) _ ?_ | refine Keeps.foldl_fst (fun _ _ _ => ?_) _ ?_
      | refine Keeps.foldl_snd (fun _ _ _ => ?_) _ ?_ | apply KC.fold
    | split | (with_reducible apply Keeps.upd; dsimp only) | dsimp only | intro

theorem forwardResult_keeps {w td : Bool} {z : State} (id : Nat) (r : Res) (nonce : Option (List Byte)) (s : State)
    (hz : Keeps w td z s) : Keeps w td z (forwardResult id r nonce s) := by
  unfold forwardResult
  repeat' first
    | with_reducible first
      | exact hz | assumption | apply endJob_keeps | apply endStreamOf_keeps | apply Keeps.ite | apply KC.fold
    | split | (with_reducible apply Keeps.upd; dsimp only) | dsimp only | intro

theorem forwardReceived_keeps {w td : Bool} {z : State} (m : FwdMsg) (s : State)
    (hz : Keeps w td z s) : Keeps w td z (forwardReceived m s) := by
  unfold forwardReceived
  repeat' first
    | with_reducible first
      | exact hz | apply forwardResult_keeps | apply KC.fold
    | split | (with_reducible apply Keeps.upd; dsimp only) | dsimp only | intro

theorem handoverReceived_keeps {td : Bool} {z : State} (kind : Nat) (slots : List Nat) (addrs : Tab (List Nat)) (s : State)
    (hz : Keeps true td z s) : Keeps true td z (handoverReceived kind slots addrs s) := by
  unfold handoverReceived
  repeat' first
    | with_reducible first
      | exact hz | assumption | apply pairState_keeps | apply setEth_keeps | apply handOut_keeps
      | apply takeAddresses_keeps | apply takeSessions_keeps | apply recordTake_keeps | apply holdAddresses_keeps
      | apply Keeps.ite | refine Keeps.foldl (fun _ _ _ => ?_) _ ?_ | refine Keeps.foldl_fst (fun _ _ _ => ?_) _ ?_
      | refine Keeps.foldl_snd (fun _ _ _ => ?_) _ ?_ | apply KC.fold
    | split | (with_reducible apply Keeps.upd; dsimp only) | dsimp only | intro

theorem relayReceived_keeps {w td : Bool} {z : State} (p src : Nat) (d : List Byte) (s : State)
    (hz : Keeps w td z s) : Keeps w td z (relayReceived p src d s) := by
  unfold relayReceived
  repeat' first
    | with_reducible first
      | exact hz | apply sendFrame_keeps | apply tolFrame_keeps | apply Keeps.ite
    | split | dsimp only | intro

theorem execRopeLinkUp_keeps {w td : Bool} {t : State} (port : Nat) (s : State)
    (hz : execRopeLinkUp port s = .next t) : Keeps w td s t := by
  unfold execRopeLinkUp at hz
  injection hz with hz
  subst hz
  repeat' first
    | with_reducible first
      | exact Keeps.refl _ _ _ | apply pairState_keeps | apply setRope_keeps | apply Keeps.ite | apply KC.fold
    | split | (with_reducible apply Keeps.upd; dsimp only) | dsimp only | intro

theorem execRopePortLost_keeps {td : Bool} {t : State} (port : Nat) (s : State)
    (hz : execRopePortLost port s = .next t) : Keeps true td s t := by
  unfold execRopePortLost at hz
  injection hz with hz
  subst hz
  repeat' first
    | with_reducible first
      | exact Keeps.refl _ _ _ | apply portLost_keeps | apply Keeps.ite
    | split | dsimp only | intro

theorem execRefclkEthLoss_keeps {td : Bool} {t : State} (n : Nat) (s : State)
    (hz : execRefclkEthLoss n s = .next t) : Keeps true td s t := by
  unfold execRefclkEthLoss at hz
  injection hz with hz
  subst hz
  repeat' first
    | with_reducible first
      | exact Keeps.refl _ _ _ | apply linkDown_keeps | apply portLost_keeps | apply Keeps.ite | apply KC.fold
    | split | (with_reducible apply Keeps.upd; dsimp only) | dsimp only | intro

theorem execHeartbeatTimer_keeps {w td : Bool} {t : State} (s : State)
    (hz : execHeartbeatTimer s = .next t) : Keeps w td s t := by
  unfold execHeartbeatTimer at hz
  injection hz with hz
  subst hz
  repeat' first
    | with_reducible first
      | exact Keeps.refl _ _ _ | apply heartbeat_keeps
    | dsimp only | intro

theorem execHeartbeat_keeps {w td : Bool} {t : State} (hd : RopeHdr) (seq mode state pitch : Nat) (acked : Nat × Nat × Nat) (trust holds : Bool) (rttNs : Nat) (s : State)
    (hz : execHeartbeat hd seq mode state pitch acked trust holds rttNs s = .next t) : Keeps w td s t := by
  unfold execHeartbeat at hz
  injection hz with hz
  subst hz
  repeat' first
    | with_reducible first
      | exact Keeps.refl _ _ _ | apply heartbeat_keeps | apply heartbeatReceived_keeps
    | dsimp only | intro

theorem execRopeAck_keeps {w td : Bool} {t : State} (hd : RopeHdr) (seq : Nat) (acked : Nat × Nat × Nat) (s : State)
    (hz : execRopeAck hd seq acked s = .next t) : Keeps w td s t := by
  unfold execRopeAck at hz
  injection hz with hz
  subst hz
  repeat' first
    | with_reducible first
      | exact Keeps.refl _ _ _ | apply ropeReceive_keeps | apply takeAcks_keeps | apply Keeps.ite | apply KC.fold
    | split | (with_reducible apply Keeps.upd; dsimp only) | dsimp only | intro

theorem execRopeResendTimeout_keeps {w td : Bool} {t : State} (cls seq : Nat) (s : State)
    (hz : execRopeResendTimeout cls seq s = .next t) : Keeps w td s t := by
  unfold execRopeResendTimeout at hz
  injection hz with hz
  subst hz
  repeat' first
    | with_reducible first
      | exact Keeps.refl _ _ _ | apply resend_keeps
    | dsimp only | intro

theorem execPortSilence_keeps {td : Bool} {t : State} (port : Nat) (s : State)
    (hz : execPortSilence port s = .next t) : Keeps true td s t := by
  unfold execPortSilence at hz
  injection hz with hz
  subst hz
  repeat' first
    | with_reducible first
      | exact Keeps.refl _ _ _ | apply portSilence_keeps
    | dsimp only | intro

theorem execLiveLineStop_keeps {td : Bool} {t : State} (s : State)
    (hz : execLiveLineStop s = .next t) : Keeps true td s t := by
  unfold execLiveLineStop at hz
  injection hz with hz
  subst hz
  repeat' first
    | with_reducible first
      | exact Keeps.refl _ _ _ | apply liveStop_keeps
    | dsimp only | intro

theorem execLiveLineStart_keeps {w td : Bool} {t : State} (s : State)
    (hz : execLiveLineStart s = .next t) : Keeps w td s t := by
  unfold execLiveLineStart at hz
  injection hz with hz
  subst hz
  repeat' first
    | with_reducible first
      | exact Keeps.refl _ _ _ | apply Keeps.ite | apply KC.fold
    | split | (with_reducible apply Keeps.upd; dsimp only) | dsimp only | intro

theorem execFence_keeps {td : Bool} {t : State} (hd : RopeHdr) (seq reason : Nat) (s : State)
    (hz : execFence hd seq reason s = .next t) : Keeps true td s t := by
  unfold execFence at hz
  injection hz with hz
  subst hz
  repeat' first
    | with_reducible first
      | exact Keeps.refl _ _ _ | apply inOrder_keeps | apply fenceReceived_keeps
    | dsimp only | intro

theorem execAddressAnnounceRepeat_keeps {w td : Bool} {t : State} (s : State)
    (hz : execAddressAnnounceRepeat s = .next t) : Keeps w td s t := by
  unfold execAddressAnnounceRepeat at hz
  injection hz with hz
  subst hz
  repeat' first
    | with_reducible first
      | exact Keeps.refl _ _ _ | apply announceAll_keeps | apply Keeps.ite | apply KC.fold
    | split | (with_reducible apply Keeps.upd; dsimp only) | dsimp only | intro

theorem execForward_keeps {w td : Bool} {t : State} (hd : RopeHdr) (seq : Nat) (m : FwdMsg) (s : State)
    (hz : execForward hd seq m s = .next t) : Keeps w td s t := by
  unfold execForward at hz
  injection hz with hz
  subst hz
  repeat' first
    | with_reducible first
      | exact Keeps.refl _ _ _ | apply inOrder_keeps | apply forwardReceived_keeps
    | dsimp only | intro

theorem lastHandover_keeps {td : Bool} {z : State} (h : RopeHdr) (seq kind : Nat) (sessions : List Nat) (addrs : Tab (List Nat)) (s : State)
    (hz : Keeps true td z s) : Keeps true td z (lastHandover h seq kind sessions addrs s) := by
  unfold lastHandover
  repeat' first
    | with_reducible first
      | exact hz | apply bump_keeps | apply ropeArrives_keeps | apply handoverReceived_keeps | apply Keeps.ite
      | apply KC.fold
    | split | (with_reducible apply Keeps.upd; dsimp only) | dsimp only | intro

theorem execHandover_keeps {td : Bool} {t : State} (hd : RopeHdr) (seq kind : Nat) (sessions : List Nat) (addrs : Tab (List Nat)) (s : State)
    (hz : execHandover hd seq kind sessions addrs s = .next t) : Keeps true td s t := by
  unfold execHandover at hz
  injection hz with hz
  subst hz
  repeat' first
    | with_reducible first
      | exact Keeps.refl _ _ _ | apply inOrder_keeps | apply handoverReceived_keeps | apply lastHandover_keeps
      | apply Keeps.ite
    | split | dsimp only | intro

theorem execRelay_keeps {w td : Bool} {t : State} (hd : RopeHdr) (seq port src : Nat) (datagram : List Byte) (s : State)
    (hz : execRelay hd seq port src datagram s = .next t) : Keeps w td s t := by
  unfold execRelay at hz
  injection hz with hz
  subst hz
  repeat' first
    | with_reducible first
      | exact Keeps.refl _ _ _ | apply datagram_keeps | apply inOrder_keeps | apply relayReceived_keeps
    | dsimp only | intro

end Sys2Proof.Machine
end

