-- ==== Sys2Proof/Laws/KeepsJoin.lean ====
section
/-! SUPPORT. `Keeps` of the operations of Machine/Join.lean. -/

namespace Sys2Proof.Machine

theorem sendJoin_keeps {w td : Bool} {z : State} (b : RopeBody) (s : State)
    (hz : Keeps w td z s) : Keeps w td z (sendJoin b s) := by
  unfold sendJoin
  repeat' first
    | with_reducible first
      | exact hz | assumption | apply bump_keeps | apply evcAdd_keeps | apply emit_keeps
      | refine Keeps.foldl (fun _ _ _ => ?_) _ ?_ | refine Keeps.foldl_fst (fun _ _ _ => ?_) _ ?_
      | refine Keeps.foldl_snd (fun _ _ _ => ?_) _ ?_
    | dsimp only | intro

theorem sendAttest_keeps {w td : Bool} {z : State} (s : State)
    (hz : Keeps w td z s) : Keeps w td z (sendAttest s) := by
  unfold sendAttest
  repeat' first
    | with_reducible first
      | exact hz | apply sendJoin_keeps | apply Keeps.ite | apply KC.fold
    | split | (with_reducible apply Keeps.upd; dsimp only) | dsimp only | intro

theorem joinDrawn_keeps {w td : Bool} {z : State} (b : List Byte) (s : State)
    (hz : Keeps w td z s) : Keeps w td z (joinDrawn b s) := by
  unfold joinDrawn
  repeat' first
    | with_reducible first
      | exact hz | apply sendJoin_keeps | apply sendAttest_keeps | apply Keeps.ite | apply KC.fold
    | split | (with_reducible apply Keeps.upd; dsimp only) | dsimp only | intro

theorem startJoin_keeps {w td : Bool} {z : State} (s : State)
    (hz : Keeps w td z s) : Keeps w td z (startJoin s) := by
  unfold startJoin
  repeat' first
    | with_reducible first
      | exact hz | apply pairState_keeps | apply grantInternal_keeps | apply requestDraw_keeps
      | apply joinDrawn_keeps | apply Keeps.ite | apply KC.fold
    | split | (with_reducible apply Keeps.upd; dsimp only) | dsimp only | intro

theorem joinHello_keeps {w td : Bool} {z : State} (devId : Word) (role dir : Nat) (nonce : List Byte) (s : State)
    (hz : Keeps w td z s) : Keeps w td z (joinHello devId role dir nonce s) := by
  unfold joinHello
  repeat' first
    | with_reducible first
      | exact hz | apply sendAttest_keeps | apply startJoin_keeps | apply Keeps.ite | apply KC.fold
    | split | (with_reducible apply Keeps.upd; dsimp only) | dsimp only | intro

theorem sendKey_keeps {w td : Bool} {z : State} (peerKem : List Byte) (s : State)
    (hz : Keeps w td z s) : Keeps w td z (sendKey peerKem s) := by
  unfold sendKey
  repeat' first
    | with_reducible first
      | exact hz | apply sendJoin_keeps | apply Keeps.ite | apply KC.fold
    | split | (with_reducible apply Keeps.upd; dsimp only) | dsimp only | intro

theorem pairKeys_keeps {w td : Bool} {z : State} (ss : List Byte) (s : State)
    (hz : Keeps w td z s) : Keeps w td z (pairKeys ss s) := by
  unfold pairKeys
  repeat' first
    | with_reducible first
      | exact hz | apply Keeps.ite | apply KC.fold
    | split | (with_reducible apply Keeps.upd; dsimp only) | dsimp only | intro

theorem joinAttest_keeps {w td : Bool} {z : State} (a : Attest) (s : State)
    (hz : Keeps w td z s) : Keeps w td z (joinAttest a s) := by
  unfold joinAttest
  repeat' first
    | with_reducible first
      | exact hz | apply pairState_keeps | apply sendKey_keeps | apply Keeps.ite | apply KC.fold
    | split | (with_reducible apply Keeps.upd; dsimp only) | dsimp only | intro

theorem bulkHead_keeps {w td : Bool} {z : State} (s : State)
    (hz : Keeps w td z s) : Keeps w td z (bulkHead s) := by
  unfold bulkHead
  repeat' first
    | with_reducible first
      | exact hz | assumption | apply ropeSend_keeps | apply toldQuorum_keeps | apply journal_keeps
      | refine Keeps.foldl (fun _ _ _ => ?_) _ ?_ | refine Keeps.foldl_fst (fun _ _ _ => ?_) _ ?_
      | refine Keeps.foldl_snd (fun _ _ _ => ?_) _ ?_ | apply KC.fold
    | split | (with_reducible apply Keeps.upd; dsimp only) | dsimp only | intro

theorem targetClears_keeps {w td : Bool} {z : State} (s : State)
    (hz : Keeps w td z s) : Keeps w td z (targetClears s) := by
  unfold targetClears
  repeat' first
    | with_reducible first
      | exact hz | assumption | apply endSessions_keeps | apply lostRegistry_keeps | apply journal_keeps
      | apply KC.fold
    | (with_reducible apply Keeps.upd; dsimp only) | dsimp only | intro

theorem keysSet_keeps {w td : Bool} {z : State} (ss : List Byte) (s0 : State)
    (hz : Keeps w td z s0) : Keeps w td z (keysSet ss s0) := by
  unfold keysSet
  repeat' first
    | with_reducible first
      | exact hz | apply pairState_keeps | apply bulkStep_keeps | apply pairKeys_keeps | apply bulkHead_keeps
      | apply targetClears_keeps | apply Keeps.ite | apply KC.fold
    | split | (with_reducible apply Keeps.upd; dsimp only) | dsimp only | intro

theorem joinKey_keeps {w td : Bool} {z : State} (kem point : List Byte) (s : State)
    (hz : Keeps w td z s) : Keeps w td z (joinKey kem point s) := by
  unfold joinKey
  repeat' first
    | with_reducible first
      | exact hz | apply sendKey_keeps | apply keysSet_keeps | apply Keeps.ite
    | split | dsimp only | intro

theorem joinReceive_keeps {w td : Bool} {z : State} (h : RopeHdr) (b : RopeBody) (f : State → State) (s : State)
    (hf : ∀ (y0 : State), Keeps w td z y0 → Keeps w td z (f y0))
    (hz : Keeps w td z s) : Keeps w td z (joinReceive h b f s) := by
  unfold joinReceive
  repeat' first
    | with_reducible first
      | exact hz | assumption | apply ropeArrives_keeps | apply hf | apply Keeps.ite
    | split | dsimp only | intro

theorem bulkEnd_keeps {td : Bool} {z : State} (s : State)
    (hz : Keeps true td z s) : Keeps true td z (bulkEnd s) := by
  unfold bulkEnd
  repeat' first
    | with_reducible first
      | exact hz | apply pairState_keeps | apply mirror_keeps | apply handoverReceived_keeps | apply Keeps.ite
      | apply KC.fold
    | split | (with_reducible apply Keeps.upd; dsimp only) | dsimp only | intro

theorem joinWaitEnds_keeps {w td : Bool} {z : State} (s : State)
    (hz : Keeps w td z s) : Keeps w td z (joinWaitEnds s) := by
  unfold joinWaitEnds
  repeat' first
    | with_reducible first
      | exact hz | apply holdAddresses_keeps | apply Keeps.ite
    | split | dsimp only | intro

theorem leaveStartup_keeps {w td : Bool} {z : State} (s : State)
    (hz : Keeps w td z s) : Keeps w td z (leaveStartup s) := by
  unfold leaveStartup
  repeat' first
    | with_reducible first
      | exact hz | apply startJoin_keeps | apply Keeps.ite | apply KC.fold
    | split | (with_reducible apply Keeps.upd; dsimp only) | dsimp only | intro

theorem ctlReady_keeps {w td : Bool} {z : State} (s : State)
    (hz : Keeps w td z s) : Keeps w td z (ctlReady s) := by
  unfold ctlReady
  repeat' first
    | with_reducible first
      | exact hz | apply leaveStartup_keeps | apply Keeps.ite | apply KC.fold
    | split | (with_reducible apply Keeps.upd; dsimp only) | dsimp only | intro

theorem execJoinStart_keeps {w td : Bool} {t : State} (s : State)
    (hz : execJoinStart s = .next t) : Keeps w td s t := by
  unfold execJoinStart at hz
  injection hz with hz
  subst hz
  repeat' first
    | with_reducible first
      | exact Keeps.refl _ _ _ | apply startJoin_keeps
    | dsimp only | intro

theorem execJoinHello_keeps {w td : Bool} {t : State} (hd : RopeHdr) (devId : Word) (role dir : Nat) (nonce : List Byte) (s : State)
    (hz : execJoinHello hd devId role dir nonce s = .next t) : Keeps w td s t := by
  unfold execJoinHello at hz
  injection hz with hz
  subst hz
  repeat' first
    | with_reducible first
      | exact Keeps.refl _ _ _ | apply joinHello_keeps | apply joinReceive_keeps
    | dsimp only | intro

theorem execJoinAttest_keeps {w td : Bool} {t : State} (hd : RopeHdr) (att : Attest) (s : State)
    (hz : execJoinAttest hd att s = .next t) : Keeps w td s t := by
  unfold execJoinAttest at hz
  injection hz with hz
  subst hz
  repeat' first
    | with_reducible first
      | exact Keeps.refl _ _ _ | apply joinAttest_keeps | apply joinReceive_keeps
    | dsimp only | intro

theorem execJoinKey_keeps {w td : Bool} {t : State} (hd : RopeHdr) (kem point : List Byte) (s : State)
    (hz : execJoinKey hd kem point s = .next t) : Keeps w td s t := by
  unfold execJoinKey at hz
  injection hz with hz
  subst hz
  repeat' first
    | with_reducible first
      | exact Keeps.refl _ _ _ | apply joinKey_keeps | apply joinReceive_keeps
    | dsimp only | intro

theorem execBulkCopyEnd_keeps {td : Bool} {t : State} (s : State)
    (hz : execBulkCopyEnd s = .next t) : Keeps true td s t := by
  unfold execBulkCopyEnd at hz
  injection hz with hz
  subst hz
  repeat' first
    | with_reducible first
      | exact Keeps.refl _ _ _ | apply bulkEnd_keeps
    | dsimp only | intro

theorem execJoinWaitExpiry_keeps {w td : Bool} {t : State} (s : State)
    (hz : execJoinWaitExpiry s = .next t) : Keeps w td s t := by
  unfold execJoinWaitExpiry at hz
  injection hz with hz
  subst hz
  repeat' first
    | with_reducible first
      | exact Keeps.refl _ _ _ | apply joinWaitEnds_keeps
    | dsimp only | intro

theorem execWorldCtlReady_keeps {w td : Bool} {t : State} (s : State)
    (hz : execWorldCtlReady s = .next t) : Keeps w td s t := by
  unfold execWorldCtlReady at hz
  injection hz with hz
  subst hz
  repeat' first
    | with_reducible first
      | exact Keeps.refl _ _ _ | apply ctlReady_keeps
    | dsimp only | intro

end Sys2Proof.Machine
end

