-- ==== Sys2Proof/Laws/KeepsLife.lean ====
section
/-! SUPPORT. `Keeps` of the operations of Machine/Life.lean. -/

namespace Sys2Proof.Machine

theorem endTransition_keeps {w td : Bool} {z : State} (t : Transition) (s : State)
    (hz : Keeps w td z s) : Keeps w td z (endTransition t s) := by
  unfold endTransition
  repeat' first
    | with_reducible first
      | exact hz | assumption | apply stageOwn_keeps | apply Keeps.ite | apply KC.emitted | apply KC.fold
    | split | (with_reducible apply Keeps.upd; dsimp only) | dsimp only | intro

theorem stepDone_keeps {w td : Bool} {z : State} (t : Transition) (s : State)
    (hz : Keeps w td z s) : Keeps w td z (stepDone t s) := by
  unfold stepDone
  repeat' first
    | with_reducible first
      | exact hz | apply transitionRecord_keeps | apply endTransition_keeps | apply Keeps.ite | apply KC.fold
    | split | (with_reducible apply Keeps.upd; dsimp only) | dsimp only | intro

theorem beforeProgramming_keeps {td : Bool} {z : State} (new : Nat) (s : State)
    (hz : Keeps true td z s) : Keeps true td z (beforeProgramming new s) := by
  unfold beforeProgramming
  repeat' first
    | with_reducible first
      | exact hz | apply sendFence_keeps | apply avalanche_keeps | apply lockdownMode_keeps | apply KC.fold
    | split | (with_reducible apply Keeps.upd; dsimp only) | dsimp only | intro

theorem commitTransition_keeps {td : Bool} {z : State} (ctx : Nat) (j : Job) (s : State)
    (hz : Keeps true td z s) : Keeps true td z (commitTransition ctx j s) := by
  unfold commitTransition
  repeat' first
    | with_reducible first
      | exact hz | apply useBytes_keeps | apply setJob_keeps | apply consumeToken_keeps | apply stageDone_keeps
      | apply beforeProgramming_keeps | apply Keeps.ite | apply KC.fold
    | split | (with_reducible apply Keeps.upd; dsimp only) | dsimp only | intro

theorem lcTransition_keeps {td : Bool} {z : State} (ctx : Nat) (j : Job) (s : State)
    (hz : Keeps true td z s) : Keeps true td z (lcTransition ctx j s) := by
  unfold lcTransition
  repeat' first
    | with_reducible first
      | exact hz | apply stageDone_keeps | apply commitTransition_keeps | apply Keeps.ite | apply KC.fold
    | split | (with_reducible apply Keeps.upd; dsimp only) | dsimp only | intro

theorem execLcTransition_keeps {td : Bool} {t : State} (ctx : Nat) (s : State)
    (hz : execLcTransition ctx s = .next t) : Keeps true td s t := by
  unfold execLcTransition at hz
  injection hz with hz
  subst hz
  repeat' first
    | with_reducible first
      | exact Keeps.refl _ _ _ | apply lcTransition_keeps | apply KC.fold
    | split | (with_reducible apply Keeps.upd; dsimp only) | dsimp only | intro

theorem execLcChallenge_keeps {w td : Bool} {t : State} (ctx : Nat) (s : State)
    (hz : execLcChallenge ctx s = .next t) : Keeps w td s t := by
  unfold execLcChallenge at hz
  injection hz with hz
  subst hz
  repeat' first
    | with_reducible first
      | exact Keeps.refl _ _ _ | assumption | apply runDraw_keeps | apply Keeps.ite | apply KC.emitted
      | apply KC.fold
    | split | (with_reducible apply Keeps.upd; dsimp only) | dsimp only | intro

theorem execLcChallengeExpiry_keeps {w td : Bool} {t : State} (s : State)
    (hz : execLcChallengeExpiry s = .next t) : Keeps w td s t := by
  unfold execLcChallengeExpiry at hz
  injection hz with hz
  subst hz
  repeat' first
    | with_reducible first
      | exact Keeps.refl _ _ _ | apply Keeps.ite | apply KC.fold
    | split | (with_reducible apply Keeps.upd; dsimp only) | dsimp only | intro

theorem execAntifuseStepComplete_keeps {w td : Bool} {t : State} (s : State)
    (hz : execAntifuseStepComplete s = .next t) : Keeps w td s t := by
  unfold execAntifuseStepComplete at hz
  injection hz with hz
  subst hz
  repeat' first
    | with_reducible first
      | exact Keeps.refl _ _ _ | apply stepDone_keeps | apply Keeps.ite | apply KC.fold
    | split | (with_reducible apply Keeps.upd; dsimp only) | dsimp only | intro

theorem execHoldupRestored_keeps {w td : Bool} {t : State} (s : State)
    (hz : execHoldupRestored s = .next t) : Keeps w td s t := by
  unfold execHoldupRestored at hz
  injection hz with hz
  subst hz
  repeat' first
    | with_reducible first
      | exact Keeps.refl _ _ _ | assumption | apply Keeps.ite | apply KC.fold
    | split | (with_reducible apply Keeps.upd; dsimp only) | dsimp only | intro

theorem lcTrim_keeps {w td : Bool} {z : State} (index : Nat) (v : W32) (s : State)
    (hz : Keeps w td z s) : Keeps w td z (lcTrim index v s) := by
  unfold lcTrim
  repeat' first
    | with_reducible first
      | exact hz | apply Keeps.ite | apply KC.fold
    | split | (with_reducible apply Keeps.upd; dsimp only) | dsimp only | intro

theorem execLcTrim_keeps {w td : Bool} {t : State} (index : Nat) (v : W32) (s : State)
    (hz : execLcTrim index v s = .next t) : Keeps w td s t := by
  unfold execLcTrim at hz
  injection hz with hz
  subst hz
  repeat' first
    | with_reducible first
      | exact Keeps.refl _ _ _ | apply lcTrim_keeps
    | dsimp only | intro

end Sys2Proof.Machine
end

