-- ==== Sys2Proof/Laws/KeepsPower.lean ====
section
/-! SUPPORT. `Keeps` of the operations of Machine/Power.lean. -/

namespace Sys2Proof.Machine

theorem disableUnit_keeps {w td : Bool} {z : State} (u : Nat) (s : State)
    (hz : Keeps w td z s) : Keeps w td z (disableUnit u s) := by
  unfold disableUnit
  repeat' first
    | with_reducible first
      | exact hz | apply setUnit_keeps | apply Keeps.ite | apply KC.fold
    | split | (with_reducible apply Keeps.upd; dsimp only) | dsimp only | intro

theorem enableUnit_keeps {w td : Bool} {z : State} (u : Nat) (s : State)
    (hz : Keeps w td z s) : Keeps w td z (enableUnit u s) := by
  unfold enableUnit
  repeat' first
    | with_reducible first
      | exact hz | apply setUnit_keeps | apply Keeps.ite | apply KC.fold
    | split | (with_reducible apply Keeps.upd; dsimp only) | dsimp only | intro

theorem drainEnd_keeps {w td : Bool} {z : State} (u : Nat) (s : State)
    (hz : Keeps w td z s) : Keeps w td z (drainEnd u s) := by
  unfold drainEnd
  repeat' first
    | with_reducible first
      | exact hz | apply setUnit_keeps | apply Keeps.ite | apply KC.fold
    | split | (with_reducible apply Keeps.upd; dsimp only) | dsimp only | intro

theorem scrubEnd_keeps {td : Bool} {z : State} (u : Nat) (s : State)
    (hz : Keeps true td z s) : Keeps true td z (scrubEnd u s) := by
  unfold scrubEnd
  repeat' first
    | with_reducible first
      | exact hz | apply setUnit_keeps | apply Keeps.ite | apply KC.wrote | apply KC.cleared | apply KC.filtered
      | apply KC.fold
    | split | (with_reducible apply Keeps.upd; dsimp only) | dsimp only | intro

theorem enablesDue_keeps {w td : Bool} {z : State} (b : Nat) (s : State)
    (hz : Keeps w td z s) : Keeps w td z (enablesDue b s) := by
  unfold enablesDue
  repeat' first
    | with_reducible first
      | exact hz | apply Keeps.ite | apply KC.fold
    | split | (with_reducible apply Keeps.upd; dsimp only) | dsimp only | intro

theorem applyReq_keeps {w td : Bool} {z : State} (d req : Nat) (base : Bool) (s : State)
    (hz : Keeps w td z s) : Keeps w td z (applyReq d req base s) := by
  unfold applyReq
  repeat' first
    | with_reducible first
      | exact hz | apply setDom_keeps | apply Keeps.ite | apply KC.fold
    | split | (with_reducible apply Keeps.upd; dsimp only) | dsimp only | intro

theorem reqSummit_keeps {w td : Bool} {z : State} (d req : Nat) (s : State)
    (hz : Keeps w td z s) : Keeps w td z (reqSummit d req s) := by
  unfold reqSummit
  repeat' first
    | with_reducible first
      | exact hz | apply setDom_keeps | apply applyReq_keeps | apply KC.fold
    | (with_reducible apply Keeps.upd; dsimp only) | dsimp only | intro

theorem reqBase_keeps {w td : Bool} {z : State} (d req : Nat) (s : State)
    (hz : Keeps w td z s) : Keeps w td z (reqBase d req s) := by
  unfold reqBase
  repeat' first
    | with_reducible first
      | exact hz | apply setDom_keeps | apply applyReq_keeps | apply Keeps.ite | apply KC.fold
    | split | (with_reducible apply Keeps.upd; dsimp only) | dsimp only | intro

theorem reqCancel_keeps {w td : Bool} {z : State} (d : Nat) (s : State)
    (hz : Keeps w td z s) : Keeps w td z (reqCancel d s) := by
  unfold reqCancel
  repeat' first
    | with_reducible first
      | exact hz | apply setDom_keeps | apply KC.fold
    | (with_reducible apply Keeps.upd; dsimp only) | dsimp only | intro

theorem setOwner_keeps {w td : Bool} {z : State} (d : Nat) (base : Bool) (s : State)
    (hz : Keeps w td z s) : Keeps w td z (setOwner d base s) := by
  unfold setOwner
  repeat' first
    | with_reducible first
      | exact hz | apply setDom_keeps | apply Keeps.ite | apply KC.fold
    | split | (with_reducible apply Keeps.upd; dsimp only) | dsimp only | intro

theorem setLease_keeps {w td : Bool} {z : State} (d v : Nat) (s : State)
    (hz : Keeps w td z s) : Keeps w td z (setLease d v s) := by
  unfold setLease
  repeat' first
    | with_reducible first
      | exact hz | apply setDom_keeps | apply Keeps.ite | apply KC.fold
    | split | (with_reducible apply Keeps.upd; dsimp only) | dsimp only | intro

theorem startCpuB_keeps {w td : Bool} {z : State} (d : Nat) (s : State)
    (hz : Keeps w td z s) : Keeps w td z (startCpuB d s) := by
  unfold startCpuB
  repeat' first
    | with_reducible first
      | exact hz | assumption | apply setCore_keeps | apply Keeps.ite | refine Keeps.foldl (fun _ _ _ => ?_) _ ?_
    | split | dsimp only | intro

theorem domainDue_keeps {w td : Bool} {z : State} (s : State) (d : Nat)
    (hz : Keeps w td z s) : Keeps w td z (domainDue s d) := by
  unfold domainDue
  repeat' first
    | with_reducible first
      | exact hz | apply setDom_keeps | apply applyReq_keeps | apply startCpuB_keeps | apply Keeps.ite
      | apply KC.fold
    | split | (with_reducible apply Keeps.upd; dsimp only) | dsimp only | intro

theorem domainsDue_keeps {w td : Bool} {z : State} (s : State)
    (hz : Keeps w td z s) : Keeps w td z (domainsDue s) := by
  unfold domainsDue
  repeat' first
    | with_reducible first
      | exact hz | assumption | apply domainDue_keeps | refine Keeps.foldl (fun _ _ _ => ?_) _ ?_
    | dsimp only | intro

theorem scrubClears_keeps {td : Bool} {z : State} (d : Nat) (s : State)
    (hz : Keeps true td z s) : Keeps true td z (scrubClears d s) := by
  unfold scrubClears
  repeat' first
    | with_reducible first
      | exact hz | assumption | apply raise_keeps | apply setUnit_keeps | apply setEth_keeps
      | apply evictLine_keeps | apply setCore_keeps | apply Keeps.ite | refine Keeps.foldl (fun _ _ _ => ?_) _ ?_
      | refine Keeps.foldl_fst (fun _ _ _ => ?_) _ ?_ | refine Keeps.foldl_snd (fun _ _ _ => ?_) _ ?_
      | apply KC.wrote | apply KC.cleared | apply KC.filtered | apply KC.fold
    | split | (with_reducible apply Keeps.upd; dsimp only) | dsimp only | intro

theorem unitsOff_keeps {w td : Bool} {z : State} (d : Nat) (s : State)
    (hz : Keeps w td z s) : Keeps w td z (unitsOff d s) := by
  unfold unitsOff
  repeat' first
    | with_reducible first
      | exact hz | assumption | apply setUnit_keeps | apply Keeps.ite | refine Keeps.foldl (fun _ _ _ => ?_) _ ?_
      | apply KC.fold
    | split | (with_reducible apply Keeps.upd; dsimp only) | dsimp only | intro

theorem domainScrubbed_keeps {td : Bool} {z : State} (d : Nat) (s : State)
    (hz : Keeps true td z s) : Keeps true td z (domainScrubbed d s) := by
  unfold domainScrubbed
  repeat' first
    | with_reducible first
      | exact hz | apply setDom_keeps | apply autoOff_keeps | apply scrubClears_keeps | apply unitsOff_keeps
      | apply Keeps.ite | apply KC.fold
    | split | (with_reducible apply Keeps.upd; dsimp only) | dsimp only | intro

theorem powerGood_keeps {w td : Bool} {z : State} (d : Nat) (s : State)
    (hz : Keeps w td z s) : Keeps w td z (powerGood d s) := by
  unfold powerGood
  repeat' first
    | with_reducible first
      | exact hz | apply setDom_keeps | apply startCpuB_keeps | apply Keeps.ite | apply KC.fold
    | split | (with_reducible apply Keeps.upd; dsimp only) | dsimp only | intro

theorem selfTested_keeps {td : Bool} {z : State} (d : Nat) (bad : List Nat) (s : State)
    (hz : Keeps true td z s) : Keeps true td z (selfTested d bad s) := by
  unfold selfTested
  repeat' first
    | with_reducible first
      | exact hz | assumption | apply setUnit_keeps | apply setDom_keeps | apply unitFault_keeps | apply Keeps.ite
      | refine Keeps.foldl (fun _ _ _ => ?_) _ ?_ | refine Keeps.foldl_fst (fun _ _ _ => ?_) _ ?_
      | refine Keeps.foldl_snd (fun _ _ _ => ?_) _ ?_ | apply KC.fold
    | split | (with_reducible apply Keeps.upd; dsimp only) | dsimp only | intro

theorem execLaneDisable_keeps {w td : Bool} {t : State} (n : Nat) (s : State)
    (hz : execLaneDisable n s = .next t) : Keeps w td s t := by
  unfold execLaneDisable at hz
  injection hz with hz
  subst hz
  repeat' first
    | with_reducible first
      | exact Keeps.refl _ _ _ | apply disableUnit_keeps | apply Keeps.ite
    | split | dsimp only | intro

theorem execLaneEnable_keeps {w td : Bool} {t : State} (n : Nat) (s : State)
    (hz : execLaneEnable n s = .next t) : Keeps w td s t := by
  unfold execLaneEnable at hz
  injection hz with hz
  subst hz
  repeat' first
    | with_reducible first
      | exact Keeps.refl _ _ _ | apply enableUnit_keeps | apply Keeps.ite
    | split | dsimp only | intro

theorem execHashCoreDisable_keeps {w td : Bool} {t : State} (n : Nat) (s : State)
    (hz : execHashCoreDisable n s = .next t) : Keeps w td s t := by
  unfold execHashCoreDisable at hz
  injection hz with hz
  subst hz
  repeat' first
    | with_reducible first
      | exact Keeps.refl _ _ _ | apply disableUnit_keeps | apply Keeps.ite
    | split | dsimp only | intro

theorem execHashCoreEnable_keeps {w td : Bool} {t : State} (n : Nat) (s : State)
    (hz : execHashCoreEnable n s = .next t) : Keeps w td s t := by
  unfold execHashCoreEnable at hz
  injection hz with hz
  subst hz
  repeat' first
    | with_reducible first
      | exact Keeps.refl _ _ _ | apply enableUnit_keeps | apply Keeps.ite
    | split | dsimp only | intro

theorem execPkeCoreDisable_keeps {w td : Bool} {t : State} (n : Nat) (s : State)
    (hz : execPkeCoreDisable n s = .next t) : Keeps w td s t := by
  unfold execPkeCoreDisable at hz
  injection hz with hz
  subst hz
  repeat' first
    | with_reducible first
      | exact Keeps.refl _ _ _ | apply disableUnit_keeps | apply Keeps.ite
    | split | dsimp only | intro

theorem execPkeCoreEnable_keeps {w td : Bool} {t : State} (n : Nat) (s : State)
    (hz : execPkeCoreEnable n s = .next t) : Keeps w td s t := by
  unfold execPkeCoreEnable at hz
  injection hz with hz
  subst hz
  repeat' first
    | with_reducible first
      | exact Keeps.refl _ _ _ | apply enableUnit_keeps | apply Keeps.ite
    | split | dsimp only | intro

theorem execLatSliceDisable_keeps {w td : Bool} {t : State} (n : Nat) (s : State)
    (hz : execLatSliceDisable n s = .next t) : Keeps w td s t := by
  unfold execLatSliceDisable at hz
  injection hz with hz
  subst hz
  repeat' first
    | with_reducible first
      | exact Keeps.refl _ _ _ | apply disableUnit_keeps | apply Keeps.ite
    | split | dsimp only | intro

theorem execLatSliceEnable_keeps {w td : Bool} {t : State} (n : Nat) (s : State)
    (hz : execLatSliceEnable n s = .next t) : Keeps w td s t := by
  unfold execLatSliceEnable at hz
  injection hz with hz
  subst hz
  repeat' first
    | with_reducible first
      | exact Keeps.refl _ _ _ | apply enableUnit_keeps | apply Keeps.ite
    | split | dsimp only | intro

theorem execKeSlotDisable_keeps {w td : Bool} {t : State} (n : Nat) (s : State)
    (hz : execKeSlotDisable n s = .next t) : Keeps w td s t := by
  unfold execKeSlotDisable at hz
  injection hz with hz
  subst hz
  repeat' first
    | with_reducible first
      | exact Keeps.refl _ _ _ | apply disableUnit_keeps | apply Keeps.ite
    | split | dsimp only | intro

theorem execKeSlotEnable_keeps {w td : Bool} {t : State} (n : Nat) (s : State)
    (hz : execKeSlotEnable n s = .next t) : Keeps w td s t := by
  unfold execKeSlotEnable at hz
  injection hz with hz
  subst hz
  repeat' first
    | with_reducible first
      | exact Keeps.refl _ _ _ | apply enableUnit_keeps | apply Keeps.ite
    | split | dsimp only | intro

theorem execUnitDrainEnd_keeps {w td : Bool} {t : State} (unit : Nat) (s : State)
    (hz : execUnitDrainEnd unit s = .next t) : Keeps w td s t := by
  unfold execUnitDrainEnd at hz
  injection hz with hz
  subst hz
  repeat' first
    | with_reducible first
      | exact Keeps.refl _ _ _ | apply drainEnd_keeps
    | dsimp only | intro

theorem execUnitScrubEnd_keeps {td : Bool} {t : State} (unit : Nat) (s : State)
    (hz : execUnitScrubEnd unit s = .next t) : Keeps true td s t := by
  unfold execUnitScrubEnd at hz
  injection hz with hz
  subst hz
  repeat' first
    | with_reducible first
      | exact Keeps.refl _ _ _ | apply scrubEnd_keeps
    | dsimp only | intro

theorem execPwrReqSummit_keeps {w td : Bool} {t : State} (dom req : Nat) (s : State)
    (hz : execPwrReqSummit dom req s = .next t) : Keeps w td s t := by
  unfold execPwrReqSummit at hz
  injection hz with hz
  subst hz
  repeat' first
    | with_reducible first
      | exact Keeps.refl _ _ _ | apply reqSummit_keeps
    | dsimp only | intro

theorem execPwrReqBase_keeps {w td : Bool} {t : State} (dom req : Nat) (s : State)
    (hz : execPwrReqBase dom req s = .next t) : Keeps w td s t := by
  unfold execPwrReqBase at hz
  injection hz with hz
  subst hz
  repeat' first
    | with_reducible first
      | exact Keeps.refl _ _ _ | apply reqBase_keeps
    | dsimp only | intro

theorem execPwrCancel_keeps {w td : Bool} {t : State} (dom : Nat) (s : State)
    (hz : execPwrCancel dom s = .next t) : Keeps w td s t := by
  unfold execPwrCancel at hz
  injection hz with hz
  subst hz
  repeat' first
    | with_reducible first
      | exact Keeps.refl _ _ _ | apply reqCancel_keeps
    | dsimp only | intro

theorem execPwrOwnerWrite_keeps {w td : Bool} {t : State} (dom : Nat) (base : Bool) (s : State)
    (hz : execPwrOwnerWrite dom base s = .next t) : Keeps w td s t := by
  unfold execPwrOwnerWrite at hz
  injection hz with hz
  subst hz
  repeat' first
    | with_reducible first
      | exact Keeps.refl _ _ _ | apply setOwner_keeps
    | dsimp only | intro

theorem execPwrLeaseWrite_keeps {w td : Bool} {t : State} (dom lease : Nat) (s : State)
    (hz : execPwrLeaseWrite dom lease s = .next t) : Keeps w td s t := by
  unfold execPwrLeaseWrite at hz
  injection hz with hz
  subst hz
  repeat' first
    | with_reducible first
      | exact Keeps.refl _ _ _ | apply setLease_keeps
    | dsimp only | intro

theorem execDomainDrainEnd_keeps {w td : Bool} {t : State} (dom : Nat) (s : State)
    (hz : execDomainDrainEnd dom s = .next t) : Keeps w td s t := by
  unfold execDomainDrainEnd at hz
  injection hz with hz
  subst hz
  repeat' first
    | with_reducible first
      | exact Keeps.refl _ _ _ | apply setDom_keeps | apply Keeps.ite | apply KC.fold
    | split | (with_reducible apply Keeps.upd; dsimp only) | dsimp only | intro

theorem execDomainScrubEnd_keeps {td : Bool} {t : State} (dom : Nat) (s : State)
    (hz : execDomainScrubEnd dom s = .next t) : Keeps true td s t := by
  unfold execDomainScrubEnd at hz
  injection hz with hz
  subst hz
  repeat' first
    | with_reducible first
      | exact Keeps.refl _ _ _ | apply domainScrubbed_keeps
    | dsimp only | intro

theorem execDomainPowerGood_keeps {w td : Bool} {t : State} (dom : Nat) (s : State)
    (hz : execDomainPowerGood dom s = .next t) : Keeps w td s t := by
  unfold execDomainPowerGood at hz
  injection hz with hz
  subst hz
  repeat' first
    | with_reducible first
      | exact Keeps.refl _ _ _ | apply powerGood_keeps
    | dsimp only | intro

theorem execDomainSelfTestEnd_keeps {td : Bool} {t : State} (dom : Nat) (bad : List Nat) (s : State)
    (hz : execDomainSelfTestEnd dom bad s = .next t) : Keeps true td s t := by
  unfold execDomainSelfTestEnd at hz
  injection hz with hz
  subst hz
  repeat' first
    | with_reducible first
      | exact Keeps.refl _ _ _ | apply selfTested_keeps
    | dsimp only | intro

end Sys2Proof.Machine
end

