-- ==== Sys2Proof/Laws/KeepsTenant.lean ====
section
/-! SUPPORT. `Keeps` of the operations of Machine/Tenant.lean. -/

namespace Sys2Proof.Machine

theorem KC.inboxPut {td : Bool} {z : State} {p : List Instr} {o : List OutEv} {f e : Nat} {c v : Tab Nat} (t : TenantFn) :
    ∀ (n i : Nat) (b : List Byte) {m : List Host.Cell}, KC true td z p m o f e c v → KC true td z p (inboxPut t m n i b) o f e c v
  | 0, _, _, _, h => h
  | n + 1, i, b, _, h => by
    simp only [Machine.inboxPut]
    split
    · exact h
    · exact KC.inboxPut t n _ _ (KC.wrote _ _ h)

theorem setFn_keeps {w td : Bool} {z : State} (n : Nat) (t : TenantFn) (s : State)
    (hz : Keeps w td z s) : Keeps w td z (setFn n t s) := by
  unfold setFn
  repeat' first
    | with_reducible first
      | exact hz | apply KC.fold
    | (with_reducible apply Keeps.upd; dsimp only) | dsimp only | intro

theorem endCall_keeps {w td : Bool} {z : State} (c : Call) (s : State)
    (hz : Keeps w td z s) : Keeps w td z (endCall c s) := by
  unfold endCall
  repeat' first
    | with_reducible first
      | exact hz | apply setFn_keeps | apply Keeps.ite | apply KC.fold
    | split | (with_reducible apply Keeps.upd; dsimp only) | dsimp only | intro

theorem placeCall_keeps {td : Bool} {z : State} (ctx n : Nat) (t : TenantFn) (q : Queue) (j : Job) (s : State)
    (hz : Keeps true td z s) : Keeps true td z (placeCall ctx n t q j s) := by
  unfold placeCall
  repeat' first
    | with_reducible first
      | exact hz | apply raise_keeps | apply setJob_keeps | apply engineBursts_keeps | apply setFn_keeps
      | apply Keeps.ite | apply KC.inboxPut | apply KC.wrote | apply KC.cleared | apply KC.filtered | apply KC.fold
    | split | (with_reducible apply Keeps.upd; dsimp only) | dsimp only | intro

theorem execTenantFunctionCall_keeps {td : Bool} {t : State} (ctx : Nat) (s : State)
    (hz : execTenantFunctionCall ctx s = .next t) : Keeps true td s t := by
  unfold execTenantFunctionCall at hz
  injection hz with hz
  subst hz
  repeat' first
    | with_reducible first
      | exact Keeps.refl _ _ _ | assumption | apply placeCall_keeps | apply Keeps.ite | apply KC.fold
    | split | (with_reducible apply Keeps.upd; dsimp only) | dsimp only | intro

theorem rejectDone_keeps {w td : Bool} {z : State} (s : State)
    (hz : Keeps w td z s) : Keeps w td z (rejectDone s) := by
  unfold rejectDone
  repeat' first
    | with_reducible first
      | exact hz | apply KC.fold
    | (with_reducible apply Keeps.upd; dsimp only) | dsimp only | intro

theorem deferDone_keeps {w td : Bool} {z : State} (core tf : Nat) (unit : W32) (s : State)
    (hz : Keeps w td z s) : Keeps w td z (deferDone core tf unit s) := by
  unfold deferDone
  repeat' first
    | with_reducible first
      | exact hz | apply KC.fold
    | (with_reducible apply Keeps.upd; dsimp only) | dsimp only | intro

theorem tfDone_keeps {w td : Bool} {z : State} (core tf : Nat) (unit : W32) (s : State)
    (hz : Keeps w td z s) : Keeps w td z (tfDone core tf unit s) := by
  unfold tfDone
  repeat' first
    | with_reducible first
      | exact hz | assumption | apply engineBursts_keeps | apply stageDone_keeps | apply endCall_keeps
      | apply rejectDone_keeps | apply deferDone_keeps | apply Keeps.ite | apply KC.fold
    | split | (with_reducible apply Keeps.upd; dsimp only) | dsimp only | intro

theorem execWorldTfDone_keeps {w td : Bool} {t : State} (core tf : Nat) (unit : W32) (s : State)
    (hz : execWorldTfDone core tf unit s = .next t) : Keeps w td s t := by
  unfold execWorldTfDone at hz
  injection hz with hz
  subst hz
  repeat' first
    | with_reducible first
      | exact Keeps.refl _ _ _ | apply tfDone_keeps
    | dsimp only | intro

theorem execTenantFunctionTimeout_keeps {w td : Bool} {t : State} (ctx : Nat) (s : State)
    (hz : execTenantFunctionTimeout ctx s = .next t) : Keeps w td s t := by
  unfold execTenantFunctionTimeout at hz
  injection hz with hz
  subst hz
  repeat' first
    | with_reducible first
      | exact Keeps.refl _ _ _ | assumption | apply refuseJob_keeps | apply endCall_keeps | apply KC.fold
    | split | (with_reducible apply Keeps.upd; dsimp only) | dsimp only | intro

theorem ipidxWrite_keeps {w td : Bool} {z : State} (core : Option Nat) (slot : Nat) (p : W32) (s : State)
    (hz : Keeps w td z s) : Keeps w td z (ipidxWrite core slot p s) := by
  unfold ipidxWrite
  repeat' first
    | with_reducible first
      | exact hz | assumption | apply setQueue_keeps | apply Keeps.ite | apply KC.fold
    | split | (with_reducible apply Keeps.upd; dsimp only) | dsimp only | intro

theorem execQmIpidx_keeps {w td : Bool} {t : State} (core : Option Nat) (slot : Nat) (newPidx : W32) (s : State)
    (hz : execQmIpidx core slot newPidx s = .next t) : Keeps w td s t := by
  unfold execQmIpidx at hz
  injection hz with hz
  subst hz
  repeat' first
    | with_reducible first
      | exact Keeps.refl _ _ _ | apply ipidxWrite_keeps
    | dsimp only | intro

theorem iqEnd_keeps {w td : Bool} {z : State} (status slot : Nat) (s : State)
    (hz : Keeps w td z s) : Keeps w td z (iqEnd status slot s) := by
  unfold iqEnd
  repeat' first
    | with_reducible first
      | exact hz | apply KC.fold
    | (with_reducible apply Keeps.upd; dsimp only) | dsimp only | intro

theorem iqCreate_keeps {w td : Bool} {z : State} (lg tf : Nat) (s : State)
    (hz : Keeps w td z s) : Keeps w td z (iqCreate lg tf s) := by
  unfold iqCreate
  repeat' first
    | with_reducible first
      | exact hz | apply setQueue_keeps | apply iqEnd_keeps | apply Keeps.ite | apply KC.fold
    | split | (with_reducible apply Keeps.upd; dsimp only) | dsimp only | intro

theorem iqTear_keeps {w td : Bool} {z : State} (kind slot : Nat) (s : State)
    (hz : Keeps w td z s) : Keeps w td z (iqTear kind slot s) := by
  unfold iqTear
  repeat' first
    | with_reducible first
      | exact hz | assumption | apply setQueue_keeps | apply iqEnd_keeps | apply Keeps.ite | apply KC.fold
    | split | (with_reducible apply Keeps.upd; dsimp only) | dsimp only | intro

theorem execWorldIqCreate_keeps {w td : Bool} {t : State} (sizeLog2 tf : Nat) (s : State)
    (hz : execWorldIqCreate sizeLog2 tf s = .next t) : Keeps w td s t := by
  unfold execWorldIqCreate at hz
  injection hz with hz
  subst hz
  repeat' first
    | with_reducible first
      | exact Keeps.refl _ _ _ | apply iqCreate_keeps
    | dsimp only | intro

theorem execWorldIqReset_keeps {w td : Bool} {t : State} (slot : Nat) (s : State)
    (hz : execWorldIqReset slot s = .next t) : Keeps w td s t := by
  unfold execWorldIqReset at hz
  injection hz with hz
  subst hz
  repeat' first
    | with_reducible first
      | exact Keeps.refl _ _ _ | apply iqTear_keeps
    | dsimp only | intro

theorem execWorldIqDestroy_keeps {w td : Bool} {t : State} (slot : Nat) (s : State)
    (hz : execWorldIqDestroy slot s = .next t) : Keeps w td s t := by
  unfold execWorldIqDestroy at hz
  injection hz with hz
  subst hz
  repeat' first
    | with_reducible first
      | exact Keeps.refl _ _ _ | apply iqTear_keeps
    | dsimp only | intro

end Sys2Proof.Machine
end

