-- ==== Sys2Proof/Laws/KeepsRegs.lean ====
section
/-! SUPPORT. `Keeps` of the operations of Machine/Regs.lean. -/

namespace Sys2Proof.Machine

theorem writeEnables_keeps {w td : Bool} {z : State} (u n : Nat) (h : Half) (v : Word) (s : State)
    (hz : Keeps w td z s) : Keeps w td z (writeEnables u n h v s) := by
  unfold writeEnables
  repeat' first
    | with_reducible first
      | exact hz | assumption | apply disableUnit_keeps | apply enableUnit_keeps | apply Keeps.ite
      | refine Keeps.foldl (fun _ _ _ => ?_) _ ?_ | refine Keeps.foldl_fst (fun _ _ _ => ?_) _ ?_
      | refine Keeps.foldl_snd (fun _ _ _ => ?_) _ ?_
    | split | dsimp only | intro

theorem ctxwaitWrite_keeps {w td : Bool} {z : State} (v : Nat) (s : State)
    (hz : Keeps w td z s) : Keeps w td z (ctxwaitWrite v s) := by
  unfold ctxwaitWrite
  repeat' first
    | with_reducible first
      | exact hz | apply setRw_keeps
    | dsimp only | intro

theorem pcapWrite_keeps {w td : Bool} {z : State} (v : Nat) (s : State)
    (hz : Keeps w td z s) : Keeps w td z (pcapWrite v s) := by
  unfold pcapWrite
  repeat' first
    | with_reducible first
      | exact hz | apply KC.fold
    | (with_reducible apply Keeps.upd; dsimp only) | dsimp only | intro

theorem addrWrite_keeps {w td : Bool} {z : State} (p : Nat) (high : Bool) (h : Half) (v : Word) (s : State)
    (hz : Keeps w td z s) : Keeps w td z (addrWrite p high h v s) := by
  unfold addrWrite
  repeat' first
    | with_reducible first
      | exact hz | apply setEth_keeps | apply KC.fold
    | (with_reducible apply Keeps.upd; dsimp only) | dsimp only | intro

theorem msecCtlWrite_keeps {w td : Bool} {z : State} (p : Nat) (h : Half) (v : Word) (s : State)
    (hz : Keeps w td z s) : Keeps w td z (msecCtlWrite p h v s) := by
  unfold msecCtlWrite
  repeat' first
    | with_reducible first
      | exact hz | apply setRw_keeps | apply setEth_keeps | apply msecTxAn_keeps | apply KC.fold
    | (with_reducible apply Keeps.upd; dsimp only) | dsimp only | intro

theorem ethWrite_keeps {w td : Bool} {z : State} (p o : Nat) (h : Half) (v : Word) (s : State)
    (hz : Keeps w td z s) : Keeps w td z (ethWrite p o h v s) := by
  unfold ethWrite
  repeat' first
    | with_reducible first
      | exact hz | apply ethCfgWrite_keeps | apply msecKey_keeps | apply addrWrite_keeps | apply msecCtlWrite_keeps
      | apply KC.fold
    | split | (with_reducible apply Keeps.upd; dsimp only) | dsimp only | intro

theorem katCtlWrite_keeps {w td : Bool} {z : State} (h : Half) (v : Word) (s : State)
    (hz : Keeps w td z s) : Keeps w td z (katCtlWrite h v s) := by
  unfold katCtlWrite
  repeat' first
    | with_reducible first
      | exact hz | apply entKatStart_keeps | apply Keeps.ite | apply KC.fold
    | split | (with_reducible apply Keeps.upd; dsimp only) | dsimp only | intro

theorem entWrite_keeps {w td : Bool} {z : State} (o : Nat) (h : Half) (v : Word) (s : State)
    (hz : Keeps w td z s) : Keeps w td z (entWrite o h v s) := by
  unfold entWrite
  repeat' first
    | with_reducible first
      | exact hz | apply entKatIn_keeps | apply katCtlWrite_keeps | apply KC.fold
    | split | (with_reducible apply Keeps.upd; dsimp only) | dsimp only | intro

theorem quorumWrite_keeps {w td : Bool} {z : State} (o : Nat) (h : Half) (v : Word) (s : State)
    (hz : Keeps w td z s) : Keeps w td z (quorumWrite o h v s) := by
  unfold quorumWrite
  repeat' first
    | with_reducible first
      | exact hz | apply quoCmtGo_keeps | apply Keeps.ite | apply KC.fold
    | split | (with_reducible apply Keeps.upd; dsimp only) | dsimp only | intro

theorem bootCommit_keeps {w td : Bool} {z : State} (s : State)
    (hz : Keeps w td z s) : Keeps w td z (bootCommit s) := by
  unfold bootCommit
  repeat' first
    | with_reducible first
      | exact hz | assumption | apply Keeps.ite | apply KC.fold
    | split | (with_reducible apply Keeps.upd; dsimp only) | dsimp only | intro

theorem acuWrite_keeps {w td : Bool} {z : State} (o : Nat) (h : Half) (v : Word) (s : State)
    (hz : Keeps w td z s) : Keeps w td z (acuWrite o h v s) := by
  unfold acuWrite
  repeat' first
    | with_reducible first
      | exact hz | apply setAcuRec_keeps | apply bootCommit_keeps | apply Keeps.ite | apply KC.fold
    | split | (with_reducible apply Keeps.upd; dsimp only) | dsimp only | intro

theorem irqCfgWrite_keeps {w td : Bool} {z : State} (h : Half) (v : Word) (s : State)
    (hz : Keeps w td z s) : Keeps w td z (irqCfgWrite h v s) := by
  unfold irqCfgWrite
  repeat' first
    | with_reducible first
      | exact hz | apply Keeps.ite | apply KC.fold
    | split | (with_reducible apply Keeps.upd; dsimp only) | dsimp only | intro

theorem iqCmdWrite_keeps {w td : Bool} {z : State} (h : Half) (v : Word) (s : State)
    (hz : Keeps w td z s) : Keeps w td z (iqCmdWrite h v s) := by
  unfold iqCmdWrite
  repeat' first
    | with_reducible first
      | exact hz | apply setRw_keeps | apply iqCreate_keeps | apply iqTear_keeps | apply Keeps.ite | apply KC.fold
    | split | (with_reducible apply Keeps.upd; dsimp only) | dsimp only | intro

theorem worldWrite_keeps {td : Bool} {z : State} (c : Writer) (o : Nat) (h : Half) (v : Word) (s : State)
    (hz : Keeps true td z s) : Keeps true td z (worldWrite c o h v s) := by
  unfold worldWrite
  repeat' first
    | with_reducible first
      | exact hz | apply setRw_keeps | apply irqDone_keeps | apply swdogKick_keeps | apply bwdogKick_keeps
      | apply worldRestartWrite_keeps | apply tfDone_keeps | apply ctlReady_keeps | apply irqCfgWrite_keeps
      | apply iqCmdWrite_keeps | apply Keeps.ite | apply KC.fold
    | split | (with_reducible apply Keeps.upd; dsimp only) | dsimp only | intro

theorem tamperWrite_keeps {w td : Bool} {z : State} (o : Nat) (h : Half) (v : Word) (s : State)
    (hz : Keeps w td z s) : Keeps w td z (tamperWrite o h v s) := by
  unfold tamperWrite
  repeat' first
    | with_reducible first
      | exact hz | apply KC.fold
    | split | (with_reducible apply Keeps.upd; dsimp only) | dsimp only | intro

theorem faultWrite_keeps {w td : Bool} {z : State} (o : Nat) (h : Half) (v : Word) (s : State)
    (hz : Keeps w td z s) : Keeps w td z (faultWrite o h v s) := by
  unfold faultWrite
  repeat' first
    | with_reducible first
      | exact hz | apply KC.fold
    | split | (with_reducible apply Keeps.upd; dsimp only) | dsimp only | intro

theorem evcClear_keeps {w td : Bool} {z : State} (s : State)
    (hz : Keeps w td z s) : Keeps w td z (evcClear s) := by
  unfold evcClear
  repeat' first
    | with_reducible first
      | exact hz | refine KC.noEvents (v := s.evc.vals) ?_ | apply KC.eventDel
      | refine KC.eventSet _ (Nat.mod_lt _ (by decide)) ?_ | apply KC.fold
    | (with_reducible apply Keeps.upd; dsimp only) | dsimp only | intro

theorem evcSet_keeps {w td : Bool} {z : State} (n v : Nat) (s : State)
    (hz : Keeps w td z s) : Keeps w td z (evcSet n v s) := by
  unfold evcSet
  repeat' first
    | with_reducible first
      | exact hz | apply Keeps.ite | refine KC.noEvents (v := s.evc.vals) ?_ | apply KC.eventDel
      | refine KC.eventSet _ (Nat.mod_lt _ (by decide)) ?_ | apply KC.fold
    | split | (with_reducible apply Keeps.upd; dsimp only) | dsimp only | intro

theorem evcWrite_keeps {w td : Bool} {z : State} (o : Nat) (h : Half) (v : Word) (s : State)
    (hz : Keeps w td z s) : Keeps w td z (evcWrite o h v s) := by
  unfold evcWrite
  repeat' first
    | with_reducible first
      | exact hz | apply setRw_keeps | apply evcClear_keeps | apply evcSet_keeps | apply Keeps.ite | apply KC.fold
    | split | (with_reducible apply Keeps.upd; dsimp only) | dsimp only | intro

theorem dctlWrite_keeps {w td : Bool} {z : State} (world : Nat) (h : Half) (v : Word) (s : State)
    (hz : Keeps w td z s) : Keeps w td z (dctlWrite world h v s) := by
  unfold dctlWrite
  repeat' first
    | with_reducible first
      | exact hz | apply reqSummit_keeps | apply reqBase_keeps | apply reqCancel_keeps | apply setOwner_keeps
      | apply Keeps.ite
    | split | dsimp only | intro

theorem clkWrite_keeps {w td : Bool} {z : State} (world o : Nat) (h : Half) (v : Word) (s : State)
    (hz : Keeps w td z s) : Keeps w td z (clkWrite world o h v s) := by
  unfold clkWrite
  repeat' first
    | with_reducible first
      | exact hz | apply setDom_keeps | apply setLease_keeps | apply dctlWrite_keeps | apply Keeps.ite
      | apply KC.fold
    | split | (with_reducible apply Keeps.upd; dsimp only) | dsimp only | intro

theorem blockWrite_keeps {td : Bool} {z : State} (c : Writer) (b o : Nat) (h : Half) (v : Word) (s : State)
    (hz : Keeps true td z s) : Keeps true td z (blockWrite c b o h v s) := by
  unfold blockWrite
  repeat' first
    | with_reducible first
      | exact hz | apply lcTrim_keeps | apply ipidxWrite_keeps | apply sclose_keeps | apply writeEnables_keeps
      | apply pcapWrite_keeps | apply ethWrite_keeps | apply entWrite_keeps | apply quorumWrite_keeps
      | apply acuWrite_keeps | apply worldWrite_keeps | apply tamperWrite_keeps | apply faultWrite_keeps
      | apply evcWrite_keeps | apply clkWrite_keeps | apply Keeps.ite | apply KC.fold
    | split | (with_reducible apply Keeps.upd; dsimp only) | dsimp only | intro

theorem bankSelected_keeps {w td : Bool} {z : State} (off : Nat) (s : State)
    (hz : Keeps w td z s) : Keeps w td z (bankSelected off s) := by
  unfold bankSelected
  repeat' first
    | with_reducible first
      | exact hz | apply Keeps.ite | apply KC.fold
    | split | (with_reducible apply Keeps.upd; dsimp only) | dsimp only | intro

theorem csrWrite_keeps {td : Bool} {z : State} (c : Writer) (off : Nat) (h : Half) (v : Word) (s : State)
    (hz : Keeps true td z s) : Keeps true td z (csrWrite c off h v s) := by
  unfold csrWrite
  repeat' first
    | with_reducible first
      | exact hz | apply setRw_keeps | apply stagedWrite_keeps | apply fault64_keeps | apply blockWrite_keeps
      | apply bankSelected_keeps | apply Keeps.ite | apply KC.fold
    | split | (with_reducible apply Keeps.upd; dsimp only) | dsimp only | intro

theorem execRegisterWrite_keeps {td : Bool} {t : State} (off : Nat) (half : Half) (v : Word) (s : State)
    (hz : execRegisterWrite off half v s = .next t) : Keeps true td s t := by
  unfold execRegisterWrite at hz
  injection hz with hz
  subst hz
  repeat' first
    | with_reducible first
      | exact Keeps.refl _ _ _ | apply emit_keeps | apply csrWrite_keeps | apply Keeps.ite
    | split | dsimp only | intro

theorem execPitchCtxwaitWrite_keeps {w td : Bool} {t : State} (v : Word) (s : State)
    (hz : execPitchCtxwaitWrite v s = .next t) : Keeps w td s t := by
  unfold execPitchCtxwaitWrite at hz
  injection hz with hz
  subst hz
  repeat' first
    | with_reducible first
      | exact Keeps.refl _ _ _ | apply ctxwaitWrite_keeps
    | dsimp only | intro

theorem execPitchPcapWrite_keeps {w td : Bool} {t : State} (v : Word) (s : State)
    (hz : execPitchPcapWrite v s = .next t) : Keeps w td s t := by
  unfold execPitchPcapWrite at hz
  injection hz with hz
  subst hz
  repeat' first
    | with_reducible first
      | exact Keeps.refl _ _ _ | apply pcapWrite_keeps
    | dsimp only | intro

theorem execEvcCtlClear_keeps {w td : Bool} {t : State} (s : State)
    (hz : execEvcCtlClear s = .next t) : Keeps w td s t := by
  unfold execEvcCtlClear at hz
  injection hz with hz
  subst hz
  repeat' first
    | with_reducible first
      | exact Keeps.refl _ _ _ | apply evcClear_keeps
    | dsimp only | intro

theorem execEvcValWrite_keeps {w td : Bool} {t : State} (n : Nat) (v : Word) (s : State)
    (hz : execEvcValWrite n v s = .next t) : Keeps w td s t := by
  unfold execEvcValWrite at hz
  injection hz with hz
  subst hz
  repeat' first
    | with_reducible first
      | exact Keeps.refl _ _ _ | apply evcSet_keeps
    | dsimp only | intro

theorem execEventCounterOverflow_keeps {w td : Bool} {t : State} (n : Nat) (s : State)
    (hz : execEventCounterOverflow n s = .next t) : Keeps w td s t := by
  unfold execEventCounterOverflow at hz
  injection hz with hz
  subst hz
  repeat' first
    | with_reducible first
      | exact Keeps.refl _ _ _ | apply raise_keeps | apply Keeps.ite | apply KC.fold
    | split | (with_reducible apply Keeps.upd; dsimp only) | dsimp only | intro

theorem execAcuBootcmt_keeps {w td : Bool} {t : State} (s : State)
    (hz : execAcuBootcmt s = .next t) : Keeps w td s t := by
  unfold execAcuBootcmt at hz
  injection hz with hz
  subst hz
  repeat' first
    | with_reducible first
      | exact Keeps.refl _ _ _ | apply bootCommit_keeps
    | dsimp only | intro

end Sys2Proof.Machine
end

