-- ==== Sys2Proof/Laws/KeepsAcu.lean ====
section
/-! SUPPORT. `Keeps` of the operations of Machine/Acu.lean. -/

namespace Sys2Proof.Machine

theorem emitBytes_keeps {w td : Bool} {z : State} (b : List Byte) (s : State)
    (hz : Keeps w td z s) : Keeps w td z (emitBytes b s) := by
  unfold emitBytes
  repeat' first
    | with_reducible first
      | exact hz | assumption | apply emit_keeps | refine Keeps.foldl (fun _ _ _ => ?_) _ ?_
      | refine Keeps.foldl_fst (fun _ _ _ => ?_) _ ?_ | refine Keeps.foldl_snd (fun _ _ _ => ?_) _ ?_
    | dsimp only | intro

theorem memRead_keeps {w td : Bool} {z : State} (a : Access) (s : State)
    (hz : Keeps w td z s) : Keeps w td z (memRead a s) := by
  unfold memRead
  repeat' first
    | with_reducible first
      | exact hz | assumption | apply emit_keeps | apply useBytes_keeps | apply emitBytes_keeps | apply Keeps.ite
      | refine Keeps.foldl (fun _ _ _ => ?_) _ ?_ | refine Keeps.foldl_fst (fun _ _ _ => ?_) _ ?_
      | refine Keeps.foldl_snd (fun _ _ _ => ?_) _ ?_
    | split | dsimp only | intro

theorem memWrite_keeps {td : Bool} {z : State} (a : Access) (s : State)
    (hz : Keeps true td z s) : Keeps true td z (memWrite a s) := by
  unfold memWrite
  repeat' first
    | with_reducible first
      | exact hz | apply storeSpan_keeps
    | dsimp only | intro

theorem cachedAccess_keeps {td : Bool} {z : State} (c mtype : Nat) (a : Access) (s : State)
    (hz : Keeps true td z s) : Keeps true td z (cachedAccess c mtype a s) := by
  unfold cachedAccess
  repeat' first
    | with_reducible first
      | exact hz | assumption | apply useBytes_keeps | apply evictLine_keeps | apply emitBytes_keeps
      | apply memWrite_keeps | apply Keeps.ite | apply KC.fold
    | split | (with_reducible apply Keeps.upd; dsimp only) | dsimp only | intro

theorem perform_keeps {td : Bool} {z : State} (n mtype : Nat) (a : Access) (s : State)
    (hz : Keeps true td z s) : Keeps true td z (perform n mtype a s) := by
  unfold perform
  repeat' first
    | with_reducible first
      | exact hz | apply csrRead_keeps | apply csrWrite_keeps | apply memRead_keeps | apply memWrite_keeps
      | apply cachedAccess_keeps | apply Keeps.ite | apply KC.fold
    | split | (with_reducible apply Keeps.upd; dsimp only) | dsimp only | intro

theorem deny_keeps {td : Bool} {z : State} (n reg : Nat) (a : Access) (s : State)
    (hz : Keeps true td z s) : Keeps true td z (deny n reg a s) := by
  unfold deny
  repeat' first
    | with_reducible first
      | exact hz | apply emit_keeps | apply collect_keeps | apply recordDenial_keeps | apply denyJob_keeps
      | apply excep_keeps | apply Keeps.ite | apply KC.fold
    | split | (with_reducible apply Keeps.upd; dsimp only) | dsimp only | intro

theorem checked_keeps {td : Bool} {z : State} (n : Nat) (a : Access) (s : State)
    (hz : Keeps true td z s) : Keeps true td z (checked n a s) := by
  unfold checked
  repeat' first
    | with_reducible first
      | exact hz | apply perform_keeps | apply deny_keeps | apply KC.fold
    | split | (with_reducible apply Keeps.upd; dsimp only) | dsimp only | intro

theorem fabric_keeps {td : Bool} {z : State} (a : Access) (s : State)
    (hz : Keeps true td z s) : Keeps true td z (fabric a s) := by
  unfold fabric
  repeat' first
    | with_reducible first
      | exact hz | apply emit_keeps | apply checked_keeps | apply Keeps.ite | apply KC.fold
    | split | (with_reducible apply Keeps.upd; dsimp only) | dsimp only | intro

theorem admitAgain_keeps {td : Bool} {z : State} (s : State)
    (hz : Keeps true td z s) : Keeps true td z (admitAgain s) := by
  unfold admitAgain
  repeat' first
    | with_reducible first
      | exact hz | assumption | apply fabric_keeps | refine Keeps.foldl (fun _ _ _ => ?_) _ ?_
      | refine Keeps.foldl_fst (fun _ _ _ => ?_) _ ?_ | refine Keeps.foldl_snd (fun _ _ _ => ?_) _ ?_
      | apply KC.fold
    | (with_reducible apply Keeps.upd; dsimp only) | dsimp only | intro

theorem flushLines_keeps {td : Bool} {z : State} (acus : List Nat) (s : State)
    (hz : Keeps true td z s) : Keeps true td z (flushLines acus s) := by
  unfold flushLines
  repeat' first
    | with_reducible first
      | exact hz | assumption | apply evictLine_keeps | refine Keeps.foldl (fun _ _ _ => ?_) _ ?_
    | dsimp only | intro

theorem epochSwitch_keeps {td : Bool} {z : State} (s : State)
    (hz : Keeps true td z s) : Keeps true td z (epochSwitch s) := by
  unfold epochSwitch
  repeat' first
    | with_reducible first
      | exact hz | assumption | apply applyImage_keeps | apply endCommit_keeps | apply admitAgain_keeps
      | apply flushLines_keeps | refine Keeps.foldl (fun _ _ _ => ?_) _ ?_ | apply KC.fold
    | split | (with_reducible apply Keeps.upd; dsimp only) | dsimp only | intro

theorem haltCore_keeps {w td : Bool} {z : State} (c : Nat) (s : State)
    (hz : Keeps w td z s) : Keeps w td z (haltCore c s) := by
  unfold haltCore
  repeat' first
    | with_reducible first
      | exact hz | apply setCore_keeps | apply Keeps.ite | apply KC.fold
    | split | (with_reducible apply Keeps.upd; dsimp only) | dsimp only | intro

theorem dbgAccess_keeps {td : Bool} {z : State} (a : Access) (halt : Option Nat) (s : State)
    (hz : Keeps true td z s) : Keeps true td z (dbgAccess a halt s) := by
  unfold dbgAccess
  repeat' first
    | with_reducible first
      | exact hz | apply loadIr_keeps | apply fabric_keeps | apply haltCore_keeps | apply Keeps.ite | apply KC.fold
    | split | (with_reducible apply Keeps.upd; dsimp only) | dsimp only | intro

theorem execFabricAccess_keeps {td : Bool} {t : State} (acc : Access) (s : State)
    (hz : execFabricAccess acc s = .next t) : Keeps true td s t := by
  unfold execFabricAccess at hz
  injection hz with hz
  subst hz
  repeat' first
    | with_reducible first
      | exact Keeps.refl _ _ _ | apply fabric_keeps | apply Keeps.ite
    | split | dsimp only | intro

theorem execAcuEpochSwitch_keeps {td : Bool} {t : State} (s : State)
    (hz : execAcuEpochSwitch s = .next t) : Keeps true td s t := by
  unfold execAcuEpochSwitch at hz
  injection hz with hz
  subst hz
  repeat' first
    | with_reducible first
      | exact Keeps.refl _ _ _ | apply epochSwitch_keeps
    | dsimp only | intro

theorem execDbgAccess_keeps {td : Bool} {t : State} (acc : Access) (halt : Option Nat) (s : State)
    (hz : execDbgAccess acc halt s = .next t) : Keeps true td s t := by
  unfold execDbgAccess at hz
  injection hz with hz
  subst hz
  repeat' first
    | with_reducible first
      | exact Keeps.refl _ _ _ | apply loadIr_keeps | apply actBypass_keeps | apply dbgAccess_keeps
      | apply Keeps.ite
    | split | dsimp only | intro

end Sys2Proof.Machine
end

