-- ==== Sys2Proof/Laws/KeepsCard.lean ====
section
/-! SUPPORT. `Keeps` of the operations of Machine/Card.lean. -/

namespace Sys2Proof.Machine

theorem applyReg_keeps {td : Bool} {z : State} (s : State) (e : Nat × Nat)
    (hz : Keeps true td z s) : Keeps true td z (applyReg s e) := by
  unfold applyReg
  repeat' first
    | with_reducible first
      | exact hz | apply setStaged_keeps | apply tamperCommitted_keeps | apply csrWrite_keeps | apply Keeps.ite
      | apply KC.fold
    | split | (with_reducible apply Keeps.upd; dsimp only) | dsimp only | intro

theorem loadFn_keeps {td : Bool} {z : State} (s : State) (x : List Byte)
    (hz : Keeps true td z s) : Keeps true td z (loadFn s x) := by
  unfold loadFn
  repeat' first
    | with_reducible first
      | exact hz | apply setFn_keeps | apply KC.wrote | apply KC.cleared | apply KC.filtered | apply KC.fold
    | (with_reducible apply Keeps.upd; dsimp only) | dsimp only | intro

theorem loadFw_keeps {td : Bool} {z : State} (b : List Byte) (s : State)
    (hz : Keeps true td z s) : Keeps true td z (loadFw b s) := by
  unfold loadFw
  repeat' first
    | with_reducible first
      | exact hz | apply storeMem_keeps | apply extendMeas_keeps | apply KC.wrote | apply KC.cleared
      | apply KC.filtered | apply KC.fold
    | (with_reducible apply Keeps.upd; dsimp only) | dsimp only | intro

theorem applyCard_keeps {td : Bool} {z : State} (b : List Byte) (s : State)
    (hz : Keeps true td z s) : Keeps true td z (applyCard b s) := by
  unfold applyCard
  repeat' first
    | with_reducible first
      | exact hz | assumption | apply extendMeas_keeps | apply bootCommit_keeps | apply applyReg_keeps
      | apply loadFn_keeps | apply loadFw_keeps | refine Keeps.foldl (fun _ _ _ => ?_) _ ?_
      | refine Keeps.foldl_fst (fun _ _ _ => ?_) _ ?_ | refine Keeps.foldl_snd (fun _ _ _ => ?_) _ ?_
      | apply KC.fold
    | (with_reducible apply Keeps.upd; dsimp only) | dsimp only | intro

end Sys2Proof.Machine
end

