-- ==== Sys2Proof/Laws/KeepsBoot.lean ====
section
/-! SUPPORT. `Keeps` of the operations of Machine/Boot.lean. -/

namespace Sys2Proof.Machine

theorem dieState_keeps {z : State} (s : State) (hz : Keeps true true z s) : Keeps true true z (dieState s) :=
  ⟨hz.pending, fun e => absurd e (by simp), fun e => Memory.wf_filter _ (hz.wf e), hz.out, hz.free, fun e => absurd e (by simp),
    fun _ _ hp => absurd hp (by simp [dieState, State.reset]), fun _ _ hp => absurd hp (by simp [dieState, State.reset])⟩

theorem dieReset_keeps {z : State} (cause : Nat) (s : State)
    (hz : Keeps true true z s) : Keeps true true z (dieReset cause s) := by
  unfold dieReset
  repeat' first
    | with_reducible first
      | exact hz | apply dieState_keeps | apply KC.fold
    | (with_reducible apply Keeps.upd; dsimp only) | dsimp only | intro

theorem decodeLife_keeps {w td : Bool} {z : State} (s : State)
    (hz : Keeps w td z s) : Keeps w td z (decodeLife s) := by
  unfold decodeLife
  repeat' first
    | with_reducible first
      | exact hz | apply Keeps.ite | apply KC.fold
    | split | (with_reducible apply Keeps.upd; dsimp only) | dsimp only | intro

theorem missingRecord_keeps {w td : Bool} {z : State} (s : State)
    (hz : Keeps w td z s) : Keeps w td z (missingRecord s) := by
  unfold missingRecord
  repeat' first
    | with_reducible first
      | exact hz | apply transitionRecord_keeps | apply Keeps.ite
    | split | dsimp only | intro

theorem resumeOverwrite_keeps {w td : Bool} {z : State} (s : State)
    (hz : Keeps w td z s) : Keeps w td z (resumeOverwrite s) := by
  unfold resumeOverwrite
  repeat' first
    | with_reducible first
      | exact hz | apply Keeps.ite | apply KC.fold
    | split | (with_reducible apply Keeps.upd; dsimp only) | dsimp only | intro

theorem startup_keeps {w td : Bool} {z : State} (s : State)
    (hz : Keeps w td z s) : Keeps w td z (startup s) := by
  unfold startup
  repeat' first
    | with_reducible first
      | exact hz | apply requestDraw_keeps | apply cairnStartup_keeps | apply decodeLife_keeps
      | apply missingRecord_keeps | apply resumeOverwrite_keeps | apply Keeps.ite | apply KC.fold
    | split | (with_reducible apply Keeps.upd; dsimp only) | dsimp only | intro

theorem mainLost_keeps {z : State} (s : State)
    (hz : Keeps true true z s) : Keeps true true z (mainLost s) := by
  unfold mainLost
  repeat' first
    | with_reducible first
      | exact hz | apply dieState_keeps | apply KC.fold
    | (with_reducible apply Keeps.upd; dsimp only) | dsimp only | intro

theorem tornStep_keeps {w td : Bool} {z : State} (s : State)
    (hz : Keeps w td z s) : Keeps w td z (tornStep s) := by
  unfold tornStep
  repeat' first
    | with_reducible first
      | exact hz | apply useBytes_keeps | apply Keeps.ite | apply KC.fold
    | split | (with_reducible apply Keeps.upd; dsimp only) | dsimp only | intro

theorem bivouacLost_keeps {td : Bool} {z : State} (s : State)
    (hz : Keeps true td z s) : Keeps true td z (bivouacLost s) := by
  unfold bivouacLost
  repeat' first
    | with_reducible first
      | exact hz | assumption | apply checked_keeps | apply KC.fold
    | (with_reducible apply Keeps.upd; dsimp only) | dsimp only | intro

theorem bivouacFound_keeps {w td : Bool} {z : State} (bbramOk : Bool) (s : State)
    (hz : Keeps w td z s) : Keeps w td z (bivouacFound bbramOk s) := by
  unfold bivouacFound
  repeat' first
    | with_reducible first
      | exact hz | apply cairnPlace_keeps | apply Keeps.ite | apply KC.fold
    | split | (with_reducible apply Keeps.upd; dsimp only) | dsimp only | intro

theorem onDieEnd_keeps {w td : Bool} {z : State} (s : State)
    (hz : Keeps w td z s) : Keeps w td z (onDieEnd s) := by
  unfold onDieEnd
  repeat' first
    | with_reducible first
      | exact hz | apply alarmClear_keeps
    | dsimp only | intro

theorem guardLost_keeps {z : State} (s : State)
    (hz : Keeps true true z s) : Keeps true true z (guardLost s) := by
  unfold guardLost
  repeat' first
    | with_reducible first
      | exact hz | apply mainLost_keeps | apply tornStep_keeps | apply bivouacLost_keeps | apply onDieEnd_keeps
      | apply Keeps.ite | apply KC.fold
    | split | (with_reducible apply Keeps.upd; dsimp only) | dsimp only | intro

theorem setResult_keeps {w td : Bool} {z : State} (slot code : Nat) (s : State)
    (hz : Keeps w td z s) : Keeps w td z (setResult slot code s) := by
  unfold setResult
  repeat' first
    | with_reducible first
      | exact hz | apply Keeps.ite | apply KC.fold
    | split | (with_reducible apply Keeps.upd; dsimp only) | dsimp only | intro

theorem slotFailed_keeps {w td : Bool} {z : State} (s : State)
    (hz : Keeps w td z s) : Keeps w td z (slotFailed s) := by
  unfold slotFailed
  repeat' first
    | with_reducible first
      | exact hz | apply cairnPlace_keeps | apply Keeps.ite | apply KC.fold
    | split | (with_reducible apply Keeps.upd; dsimp only) | dsimp only | intro

theorem deriveHierarchy_keeps {w td : Bool} {z : State} (s : State)
    (hz : Keeps w td z s) : Keeps w td z (deriveHierarchy s) := by
  unfold deriveHierarchy
  repeat' first
    | with_reducible first
      | exact hz | apply KC.fold
    | (with_reducible apply Keeps.upd; dsimp only) | dsimp only | intro

theorem bootTests_keeps {td : Bool} {z : State} (bad : List Nat) (s : State)
    (hz : Keeps true td z s) : Keeps true td z (bootTests bad s) := by
  unfold bootTests
  repeat' first
    | with_reducible first
      | exact hz | assumption | apply setUnit_keeps | apply unitFault_keeps | apply Keeps.ite
      | refine Keeps.foldl (fun _ _ _ => ?_) _ ?_ | refine Keeps.foldl_fst (fun _ _ _ => ?_) _ ?_
      | refine Keeps.foldl_snd (fun _ _ _ => ?_) _ ?_ | apply KC.fold
    | split | (with_reducible apply Keeps.upd; dsimp only) | dsimp only | intro

theorem raiseFloor_keeps {w td : Bool} {z : State} (svn : Nat) (s : State)
    (hz : Keeps w td z s) : Keeps w td z (raiseFloor svn s) := by
  unfold raiseFloor
  repeat' first
    | with_reducible first
      | exact hz | apply Keeps.ite | apply KC.fold
    | split | (with_reducible apply Keeps.upd; dsimp only) | dsimp only | intro

theorem releaseCores_keeps {w td : Bool} {z : State} (s : State)
    (hz : Keeps w td z s) : Keeps w td z (releaseCores s) := by
  unfold releaseCores
  repeat' first
    | with_reducible first
      | exact hz | assumption | apply setCore_keeps | refine Keeps.foldl (fun _ _ _ => ?_) _ ?_ | apply KC.fold
    | (with_reducible apply Keeps.upd; dsimp only) | dsimp only | intro

theorem bootCard_keeps {td : Bool} {z : State} (slot : Nat) (b : List Byte) (pufOk : Bool) (bad : List Nat) (s : State)
    (hz : Keeps true td z s) : Keeps true td z (bootCard slot b pufOk bad s) := by
  unfold bootCard
  repeat' first
    | with_reducible first
      | exact hz | apply f3Fault_keeps | apply applyCard_keeps | apply deriveHierarchy_keeps
      | apply bootTests_keeps | apply raiseFloor_keeps | apply releaseCores_keeps | apply Keeps.ite | apply KC.fold
    | split | (with_reducible apply Keeps.upd; dsimp only) | dsimp only | intro

theorem slotRead_keeps {td : Bool} {z : State} (readOk octal : Bool) (image : List Byte) (pufOk : Bool) (bad : List Nat) (s : State)
    (hz : Keeps true td z s) : Keeps true td z (slotRead readOk octal image pufOk bad s) := by
  unfold slotRead
  repeat' first
    | with_reducible first
      | exact hz | apply storeMem_keeps | apply setResult_keeps | apply slotFailed_keeps | apply bootCard_keeps
      | apply Keeps.ite | apply KC.fold
    | split | (with_reducible apply Keeps.upd; dsimp only) | dsimp only | intro

theorem execMainPowerUp_keeps {t : State} (s : State)
    (hz : execMainPowerUp s = .next t) : Keeps true true s t := by
  unfold execMainPowerUp at hz
  injection hz with hz
  subst hz
  repeat' first
    | with_reducible first
      | exact Keeps.refl _ _ _ | apply dieReset_keeps | apply startup_keeps | apply Keeps.ite | apply KC.fold
    | split | (with_reducible apply Keeps.upd; dsimp only) | dsimp only | intro

theorem execMainPowerLost_keeps {t : State} (s : State)
    (hz : execMainPowerLost s = .next t) : Keeps true true s t := by
  unfold execMainPowerLost at hz
  injection hz with hz
  subst hz
  repeat' first
    | with_reducible first
      | exact Keeps.refl _ _ _ | apply mainLost_keeps | apply Keeps.ite
    | split | dsimp only | intro

theorem execVddGuardAppear_keeps {w td : Bool} {t : State} (bbramOk : Bool) (s : State)
    (hz : execVddGuardAppear bbramOk s = .next t) : Keeps w td s t := by
  unfold execVddGuardAppear at hz
  injection hz with hz
  subst hz
  repeat' first
    | with_reducible first
      | exact Keeps.refl _ _ _ | apply bivouacFound_keeps | apply Keeps.ite | apply KC.fold
    | split | (with_reducible apply Keeps.upd; dsimp only) | dsimp only | intro

theorem execVddGuardDisappear_keeps {t : State} (s : State)
    (hz : execVddGuardDisappear s = .next t) : Keeps true true s t := by
  unfold execVddGuardDisappear at hz
  injection hz with hz
  subst hz
  repeat' first
    | with_reducible first
      | exact Keeps.refl _ _ _ | apply guardLost_keeps | apply Keeps.ite
    | split | dsimp only | intro

theorem execBackupCellConnect_keeps {w td : Bool} {t : State} (bbramOk : Bool) (s : State)
    (hz : execBackupCellConnect bbramOk s = .next t) : Keeps w td s t := by
  unfold execBackupCellConnect at hz
  injection hz with hz
  subst hz
  repeat' first
    | with_reducible first
      | exact Keeps.refl _ _ _ | apply bivouacFound_keeps | apply Keeps.ite | apply KC.fold
    | split | (with_reducible apply Keeps.upd; dsimp only) | dsimp only | intro

theorem execBackupCellRemove_keeps {td : Bool} {t : State} (s : State)
    (hz : execBackupCellRemove s = .next t) : Keeps true td s t := by
  unfold execBackupCellRemove at hz
  injection hz with hz
  subst hz
  repeat' first
    | with_reducible first
      | exact Keeps.refl _ _ _ | apply bivouacLost_keeps | apply Keeps.ite | apply KC.fold
    | split | (with_reducible apply Keeps.upd; dsimp only) | dsimp only | intro

theorem execSysResetNAssert_keeps {t : State} (s : State)
    (hz : execSysResetNAssert s = .next t) : Keeps true true s t := by
  unfold execSysResetNAssert at hz
  injection hz with hz
  subst hz
  repeat' first
    | with_reducible first
      | exact Keeps.refl _ _ _ | apply dieReset_keeps | apply startup_keeps | apply Keeps.ite
    | split | dsimp only | intro

theorem execSystemResetRelease_keeps {t : State} (s : State)
    (hz : execSystemResetRelease s = .next t) : Keeps true true s t := by
  unfold execSystemResetRelease at hz
  injection hz with hz
  subst hz
  repeat' first
    | with_reducible first
      | exact Keeps.refl _ _ _ | assumption | apply dieReset_keeps | apply startup_keeps | apply Keeps.ite
      | apply KC.fold
    | split | (with_reducible apply Keeps.upd; dsimp only) | dsimp only | intro

theorem execRouteCardSlotRead_keeps {td : Bool} {t : State} (readOk octal : Bool) (image : List Byte) (pufOk : Bool) (selfTestFails : List Nat) (s : State)
    (hz : execRouteCardSlotRead readOk octal image pufOk selfTestFails s = .next t) : Keeps true td s t := by
  unfold execRouteCardSlotRead at hz
  injection hz with hz
  subst hz
  repeat' first
    | with_reducible first
      | exact Keeps.refl _ _ _ | apply startup_keeps | apply slotRead_keeps | apply Keeps.ite
    | split | dsimp only | intro

theorem execHbmTemperatureHigh_keeps {w td : Bool} {t : State} (high : Bool) (s : State)
    (hz : execHbmTemperatureHigh high s = .next t) : Keeps w td s t := by
  unfold execHbmTemperatureHigh at hz
  injection hz with hz
  subst hz
  repeat' first
    | with_reducible first
      | exact Keeps.refl _ _ _ | apply Keeps.ite | apply KC.fold
    | split | (with_reducible apply Keeps.upd; dsimp only) | dsimp only | intro

theorem rcBegin_keeps {td : Bool} {z : State} (j : Job) (s : State)
    (hz : Keeps true td z s) : Keeps true td z (rcBegin j s).1 := by
  unfold rcBegin
  repeat' first
    | with_reducible first
      | exact hz | assumption | apply consumeToken_keeps | apply fail_keeps | apply Keeps.ite | apply KC.wrote
      | apply KC.cleared | apply KC.filtered | apply KC.fold
    | split | (with_reducible apply Keeps.upd; dsimp only) | dsimp only | intro

theorem rcData_keeps {td : Bool} {z : State} (j : Job) (s : State)
    (hz : Keeps true td z s) : Keeps true td z (rcData j s).1 := by
  unfold rcData
  repeat' first
    | with_reducible first
      | exact hz | apply fail_keeps | apply Keeps.ite | apply KC.wrote | apply KC.cleared | apply KC.filtered
      | apply KC.fold
    | split | (with_reducible apply Keeps.upd; dsimp only) | dsimp only | intro

theorem rcFinish_keeps {w td : Bool} {z : State} (j : Job) (s : State)
    (hz : Keeps w td z s) : Keeps w td z (rcFinish j s).1 := by
  unfold rcFinish
  repeat' first
    | with_reducible first
      | exact hz | apply fail_keeps | apply Keeps.ite | apply KC.fold
    | split | (with_reducible apply Keeps.upd; dsimp only) | dsimp only | intro

theorem execRcBegin_keeps {td : Bool} {t : State} (ctx : Nat) (s : State)
    (hz : execRcBegin ctx s = .next t) : Keeps true td s t := by
  unfold execRcBegin at hz
  injection hz with hz
  subst hz
  repeat' first
    | with_reducible first
      | exact Keeps.refl _ _ _ | apply runAdmin_keeps | apply rcBegin_keeps
    | dsimp only | intro

theorem execRcData_keeps {td : Bool} {t : State} (ctx : Nat) (s : State)
    (hz : execRcData ctx s = .next t) : Keeps true td s t := by
  unfold execRcData at hz
  injection hz with hz
  subst hz
  repeat' first
    | with_reducible first
      | exact Keeps.refl _ _ _ | apply runAdmin_keeps | apply rcData_keeps
    | dsimp only | intro

theorem execRcFinish_keeps {w td : Bool} {t : State} (ctx : Nat) (s : State)
    (hz : execRcFinish ctx s = .next t) : Keeps w td s t := by
  unfold execRcFinish at hz
  injection hz with hz
  subst hz
  repeat' first
    | with_reducible first
      | exact Keeps.refl _ _ _ | apply runAdmin_keeps | apply rcFinish_keeps
    | dsimp only | intro

end Sys2Proof.Machine
end

