-- ==== Sys2Proof/Laws/KeepsMirrorIn.lean ====
section
/-! SUPPORT. `Keeps` of the operations of Machine/MirrorIn.lean. -/

namespace Sys2Proof.Machine

theorem putMirrored_keeps {w td : Bool} {z : State} (slot : Nat) (o : KeyObj) (s : State)
    (hz : Keeps w td z s) : Keeps w td z (putMirrored slot o s) := by
  unfold putMirrored
  repeat' first
    | with_reducible first
      | exact hz | assumption | apply putObj_keeps | apply KC.fold
    | split | (with_reducible apply Keeps.upd; dsimp only) | dsimp only | intro

theorem noteTaken_keeps {w td : Bool} {z : State} (session qnum : Nat) (entry : W32) (f : Job → Job) (s : State)
    (hz : Keeps w td z s) : Keeps w td z (noteTaken session qnum entry f s) := by
  unfold noteTaken
  repeat' first
    | with_reducible first
      | exact hz | assumption | apply Keeps.ite | apply KC.fold
    | split | (with_reducible apply Keeps.upd; dsimp only) | dsimp only | intro

theorem stagingAsked_keeps {w td : Bool} {z : State} (session qnum sid blocks : Nat) (s : State)
    (hz : Keeps w td z s) : Keeps w td z (stagingAsked session qnum sid blocks s) := by
  unfold stagingAsked
  repeat' first
    | with_reducible first
      | exact hz | assumption | apply mirror_keeps | apply Keeps.ite | apply KC.fold
    | split | (with_reducible apply Keeps.upd; dsimp only) | dsimp only | intro

theorem stagingAnswered_keeps {w td : Bool} {z : State} (session qnum sid : Nat) (granted : Bool) (s : State)
    (hz : Keeps w td z s) : Keeps w td z (stagingAnswered session qnum sid granted s) := by
  unfold stagingAnswered
  repeat' first
    | with_reducible first
      | exact hz | apply bump_keeps | apply setJob_keeps | apply refuseJob_keeps | apply Keeps.ite | apply KC.fold
    | split | (with_reducible apply Keeps.upd; dsimp only) | dsimp only | intro

theorem partGone_keeps {w td : Bool} {z : State} (s : State) (part : Nat)
    (hz : Keeps w td z s) : Keeps w td z (partGone s part) := by
  unfold partGone
  repeat' first
    | with_reducible first
      | exact hz | assumption | apply endSessions_keeps | apply seedCleared_keeps | apply KC.fold
    | (with_reducible apply Keeps.upd; dsimp only) | dsimp only | intro

theorem mergeProp_keeps {w td : Bool} {z : State} (s : State) (p0 : Proposal)
    (hz : Keeps w td z s) : Keeps w td z (mergeProp s p0) := by
  unfold mergeProp
  repeat' first
    | with_reducible first
      | exact hz | apply setProp_keeps | apply Keeps.ite | apply KC.fold
    | split | (with_reducible apply Keeps.upd; dsimp only) | dsimp only | intro

theorem takeQuorum_keeps {w td : Bool} {z : State} (q : QuorumMirror) (s : State)
    (hz : Keeps w td z s) : Keeps w td z (takeQuorum q s) := by
  unfold takeQuorum
  repeat' first
    | with_reducible first
      | exact hz | assumption | apply raise_keeps | apply toldQuorum_keeps | apply setCreds_keeps
      | apply partGone_keeps | apply mergeProp_keeps | refine Keeps.foldl (fun _ _ _ => ?_) _ ?_ | apply KC.fold
    | (with_reducible apply Keeps.upd; dsimp only) | dsimp only | intro

theorem takeRoots_keeps {w td : Bool} {z : State} (r : Tab (List Byte)) (b : Tab Nat) (sd : Tab (List Byte)) (s : State)
    (hz : Keeps w td z s) : Keeps w td z (takeRoots r b sd s) := by
  unfold takeRoots
  repeat' first
    | with_reducible first
      | exact hz | apply KC.fold
    | (with_reducible apply Keeps.upd; dsimp only) | dsimp only | intro

theorem applyChange_keeps {w td : Bool} {z : State} (c : Change) (s : State)
    (hz : Keeps w td z s) : Keeps w td z (applyChange c s) := by
  unfold applyChange
  repeat' first
    | with_reducible first
      | exact hz | assumption | apply mirror_keeps | apply emptySlot_keeps | apply placeJournal_keeps
      | apply journal_keeps | apply refetched_keeps | apply putMirrored_keeps | apply noteTaken_keeps
      | apply stagingAsked_keeps | apply stagingAnswered_keeps | apply takeQuorum_keeps | apply takeRoots_keeps
      | apply Keeps.ite | refine Keeps.foldl (fun _ _ _ => ?_) _ ?_ | refine Keeps.foldl_fst (fun _ _ _ => ?_) _ ?_
      | refine Keeps.foldl_snd (fun _ _ _ => ?_) _ ?_ | apply KC.fold
    | split | (with_reducible apply Keeps.upd; dsimp only) | dsimp only | intro

theorem applyHead_keeps {w td : Bool} {z : State} (session qnum : Nat) (chead : W32) (streams : List Stream) (s : State)
    (hz : Keeps w td z s) : Keeps w td z (applyHead session qnum chead streams s) := by
  unfold applyHead
  repeat' first
    | with_reducible first
      | exact hz | assumption | apply KC.fold
    | split | (with_reducible apply Keeps.upd; dsimp only) | dsimp only | intro

theorem applyPidxs_keeps {w td : Bool} {z : State} (session : Nat) (l : List (Nat × W32)) (s : State)
    (hz : Keeps w td z s) : Keeps w td z (applyPidxs session l s) := by
  unfold applyPidxs
  repeat' first
    | with_reducible first
      | exact hz | assumption | apply Keeps.ite | apply KC.fold
    | split | (with_reducible apply Keeps.upd; dsimp only) | dsimp only | intro

theorem applySession_keeps {w td : Bool} {z : State} (p : SessPos) (s : State)
    (hz : Keeps w td z s) : Keeps w td z (applySession p s) := by
  unfold applySession
  repeat' first
    | with_reducible first
      | exact hz | assumption | apply applyPidxs_keeps | apply Keeps.ite | apply KC.fold
    | split | (with_reducible apply Keeps.upd; dsimp only) | dsimp only | intro

theorem applyUnits_keeps {w td : Bool} {z : State} (session qnum : Nat) (first : W32) (data : List Byte) (s : State)
    (hz : Keeps w td z s) : Keeps w td z (applyUnits session qnum first data s) := by
  unfold applyUnits
  repeat' first
    | with_reducible first
      | exact hz | apply KC.fold
    | split | (with_reducible apply Keeps.upd; dsimp only) | dsimp only | intro

theorem applyBulk_keeps {w td : Bool} {z : State} (r : BulkRec) (s : State)
    (hz : Keeps w td z s) : Keeps w td z (applyBulk r s) := by
  unfold applyBulk
  repeat' first
    | with_reducible first
      | exact hz | assumption | apply placeJournal_keeps | apply putMirrored_keeps | apply takeQuorum_keeps
      | apply takeRoots_keeps | apply Keeps.ite | refine Keeps.foldl (fun _ _ _ => ?_) _ ?_
      | refine Keeps.foldl_fst (fun _ _ _ => ?_) _ ?_ | refine Keeps.foldl_snd (fun _ _ _ => ?_) _ ?_
      | apply KC.fold
    | split | (with_reducible apply Keeps.upd; dsimp only) | dsimp only | intro

theorem execState_keeps {w td : Bool} {t : State} (hd : RopeHdr) (seq : Nat) (c : Change) (s : State)
    (hz : execState hd seq c s = .next t) : Keeps w td s t := by
  unfold execState at hz
  injection hz with hz
  subst hz
  repeat' first
    | with_reducible first
      | exact Keeps.refl _ _ _ | apply mirrorFrame_keeps | apply applyChange_keeps
    | dsimp only | intro

theorem execHead_keeps {w td : Bool} {t : State} (hd : RopeHdr) (seq session qnum : Nat) (chead : W32) (streams : List Stream) (s : State)
    (hz : execHead hd seq session qnum chead streams s = .next t) : Keeps w td s t := by
  unfold execHead at hz
  injection hz with hz
  subst hz
  repeat' first
    | with_reducible first
      | exact Keeps.refl _ _ _ | apply mirrorFrame_keeps | apply applyHead_keeps
    | dsimp only | intro

theorem execSession_keeps {w td : Bool} {t : State} (hd : RopeHdr) (seq : Nat) (pos : SessPos) (s : State)
    (hz : execSession hd seq pos s = .next t) : Keeps w td s t := by
  unfold execSession at hz
  injection hz with hz
  subst hz
  repeat' first
    | with_reducible first
      | exact Keeps.refl _ _ _ | apply mirrorFrame_keeps | apply applySession_keeps
    | dsimp only | intro

theorem execEntryUnits_keeps {w td : Bool} {t : State} (hd : RopeHdr) (seq session qnum : Nat) (first : W32) (data : List Byte) (s : State)
    (hz : execEntryUnits hd seq session qnum first data s = .next t) : Keeps w td s t := by
  unfold execEntryUnits at hz
  injection hz with hz
  subst hz
  repeat' first
    | with_reducible first
      | exact Keeps.refl _ _ _ | apply mirrorFrame_keeps | apply applyUnits_keeps
    | dsimp only | intro

theorem execBulk_keeps {w td : Bool} {t : State} (hd : RopeHdr) (seq : Nat) (r : BulkRec) (s : State)
    (hz : execBulk hd seq r s = .next t) : Keeps w td s t := by
  unfold execBulk at hz
  injection hz with hz
  subst hz
  repeat' first
    | with_reducible first
      | exact Keeps.refl _ _ _ | apply inOrder_keeps | apply applyBulk_keeps
    | dsimp only | intro

end Sys2Proof.Machine
end

