-- ==== Sys2Proof/Laws/KeepsFabric.lean ====
section
/-! SUPPORT. `Keeps` of the operations of Machine/Fabric.lean. -/

namespace Sys2Proof.Machine

theorem heardFabric_keeps {w td : Bool} {z : State} (h : FabHdr) (s : State)
    (hz : Keeps w td z s) : Keeps w td z (heardFabric h s) := by
  unfold heardFabric
  repeat' first
    | with_reducible first
      | exact hz | apply bump_keeps | apply evcAdd_keeps
    | dsimp only | intro

theorem announce_keeps {w td : Bool} {z : State} (s : State)
    (hz : Keeps w td z s) : Keeps w td z (announce s) := by
  unfold announce
  repeat' first
    | with_reducible first
      | exact hz | assumption | apply fabricSend_keeps | apply Keeps.ite
      | refine Keeps.foldl (fun _ _ _ => ?_) _ ?_ | refine Keeps.foldl_fst (fun _ _ _ => ?_) _ ?_
      | refine Keeps.foldl_snd (fun _ _ _ => ?_) _ ?_
    | split | dsimp only | intro

theorem learnRoute_keeps {w td : Bool} {z : State} (via port : Nat) (s : State) (e : Nat × Nat)
    (hz : Keeps w td z s) : Keeps w td z (learnRoute via port s e) := by
  unfold learnRoute
  repeat' first
    | with_reducible first
      | exact hz | apply Keeps.ite | apply KC.fold
    | split | (with_reducible apply Keeps.upd; dsimp only) | dsimp only | intro

theorem fabricReceive_keeps {w td : Bool} {z : State} (h : FabHdr) (b : RopeBody) (s : State)
    (hz : Keeps w td z s) : Keeps w td z (fabricReceive h b s).2 := by
  unfold fabricReceive
  repeat' first
    | with_reducible first
      | exact hz | apply bump_keeps | apply heardFabric_keeps | apply Keeps.ite | apply KC.fold
    | split | (with_reducible apply Keeps.upd; dsimp only) | dsimp only | intro

theorem announced_keeps {w td : Bool} {z : State} (h : FabHdr) (b : RopeBody) (fromSelf : Bool) (routes : List (Nat × Nat)) (s : State)
    (hz : Keeps w td z s) : Keeps w td z (announced h b fromSelf routes s) := by
  unfold announced
  repeat' first
    | with_reducible first
      | exact hz | assumption | apply collect_keeps | apply learnRoute_keeps | apply fabricReceive_keeps
      | apply Keeps.ite | refine Keeps.foldl (fun _ _ _ => ?_) _ ?_ | apply KC.fold
    | split | (with_reducible apply Keeps.upd; dsimp only) | dsimp only | intro

theorem applyReplica_keeps {w td : Bool} {z : State} (oper slot gen : Nat) (pack : Option (List Byte)) (s : State)
    (hz : Keeps w td z s) : Keeps w td z (applyReplica oper slot gen pack s) := by
  unfold applyReplica
  repeat' first
    | with_reducible first
      | exact hz | apply bump_keeps | apply mirror_keeps | apply emptySlot_keeps | apply putMirrored_keeps
      | apply Keeps.ite | apply KC.fold
    | split | (with_reducible apply Keeps.upd; dsimp only) | dsimp only | intro

theorem replicateIn_keeps {w td : Bool} {z : State} (h : FabHdr) (oper slot gen : Nat) (pack : Option (List Byte)) (s : State)
    (hz : Keeps w td z s) : Keeps w td z (replicateIn h oper slot gen pack s) := by
  unfold replicateIn
  repeat' first
    | with_reducible first
      | exact hz | apply fabricSend_keeps | apply fabricReceive_keeps | apply applyReplica_keeps | apply Keeps.ite
    | split | dsimp only | intro

theorem replAcked_keeps {w td : Bool} {z : State} (h : FabHdr) (slot gen : Nat) (s : State)
    (hz : Keeps w td z s) : Keeps w td z (replAcked h slot gen s) := by
  unfold replAcked
  repeat' first
    | with_reducible first
      | exact hz | assumption | apply fabricReceive_keeps | apply Keeps.ite | apply KC.fold
    | split | (with_reducible apply Keeps.upd; dsimp only) | dsimp only | intro

theorem replicateAgain_keeps {w td : Bool} {z : State} (member slot : Nat) (s : State)
    (hz : Keeps w td z s) : Keeps w td z (replicateAgain member slot s) := by
  unfold replicateAgain
  repeat' first
    | with_reducible first
      | exact hz | assumption | apply bump_keeps | apply replicateSend_keeps | apply Keeps.ite | apply KC.fold
    | split | (with_reducible apply Keeps.upd; dsimp only) | dsimp only | intro

theorem execAnnounceTimer_keeps {w td : Bool} {t : State} (s : State)
    (hz : execAnnounceTimer s = .next t) : Keeps w td s t := by
  unfold execAnnounceTimer at hz
  injection hz with hz
  subst hz
  repeat' first
    | with_reducible first
      | exact Keeps.refl _ _ _ | apply announce_keeps
    | dsimp only | intro

theorem execAnnounce_keeps {w td : Bool} {t : State} (hd : FabHdr) (second fromSelf : Bool) (routes : List (Nat × Nat)) (s : State)
    (hz : execAnnounce hd second fromSelf routes s = .next t) : Keeps w td s t := by
  unfold execAnnounce at hz
  injection hz with hz
  subst hz
  repeat' first
    | with_reducible first
      | exact Keeps.refl _ _ _ | apply announce_keeps | apply announced_keeps
    | dsimp only | intro

theorem execRouteExpiry_keeps {w td : Bool} {t : State} (dst : Nat) (s : State)
    (hz : execRouteExpiry dst s = .next t) : Keeps w td s t := by
  unfold execRouteExpiry at hz
  injection hz with hz
  subst hz
  repeat' first
    | with_reducible first
      | exact Keeps.refl _ _ _ | apply Keeps.ite | apply KC.fold
    | split | (with_reducible apply Keeps.upd; dsimp only) | dsimp only | intro

theorem execFabDupClear_keeps {w td : Bool} {t : State} (s : State)
    (hz : execFabDupClear s = .next t) : Keeps w td s t := by
  unfold execFabDupClear at hz
  injection hz with hz
  subst hz
  repeat' first
    | with_reducible first
      | exact Keeps.refl _ _ _ | apply Keeps.ite | apply KC.fold
    | split | (with_reducible apply Keeps.upd; dsimp only) | dsimp only | intro

theorem execReplicate_keeps {w td : Bool} {t : State} (hd : FabHdr) (oper slot gen : Nat) (pack : Option (List Byte)) (s : State)
    (hz : execReplicate hd oper slot gen pack s = .next t) : Keeps w td s t := by
  unfold execReplicate at hz
  injection hz with hz
  subst hz
  repeat' first
    | with_reducible first
      | exact Keeps.refl _ _ _ | apply replicateIn_keeps
    | dsimp only | intro

theorem execReplAck_keeps {w td : Bool} {t : State} (hd : FabHdr) (slot gen : Nat) (s : State)
    (hz : execReplAck hd slot gen s = .next t) : Keeps w td s t := by
  unfold execReplAck at hz
  injection hz with hz
  subst hz
  repeat' first
    | with_reducible first
      | exact Keeps.refl _ _ _ | apply replAcked_keeps
    | dsimp only | intro

theorem execReplicateRetry_keeps {w td : Bool} {t : State} (member slot : Nat) (s : State)
    (hz : execReplicateRetry member slot s = .next t) : Keeps w td s t := by
  unfold execReplicateRetry at hz
  injection hz with hz
  subst hz
  repeat' first
    | with_reducible first
      | exact Keeps.refl _ _ _ | apply replicateAgain_keeps
    | dsimp only | intro

theorem execFabricRelay_keeps {w td : Bool} {t : State} (hd : FabHdr) (s : State)
    (hz : execFabricRelay hd s = .next t) : Keeps w td s t := by
  unfold execFabricRelay at hz
  injection hz with hz
  subst hz
  repeat' first
    | with_reducible first
      | exact Keeps.refl _ _ _ | apply bump_keeps | apply evcAdd_keeps | apply emit_keeps | apply heardFabric_keeps
      | apply Keeps.ite | apply KC.fold
    | split | (with_reducible apply Keeps.upd; dsimp only) | dsimp only | intro

end Sys2Proof.Machine
end

