-- ==== Sys2Proof/Laws/KeepsGrants.lean ====
section
/-! SUPPORT. `Keeps` of the operations of Machine/Grants.lean. -/

namespace Sys2Proof.Machine

theorem drawForJob_keeps {w td : Bool} {z : State} (ctx : Nat) (b : List Byte) (s : State)
    (hz : Keeps w td z s) : Keeps w td z (drawForJob ctx b s) := by
  unfold drawForJob
  repeat' first
    | with_reducible first
      | exact hz | apply setJob_keeps | apply Keeps.ite | apply KC.fold
    | split | (with_reducible apply Keeps.upd; dsimp only) | dsimp only | intro

theorem drawn_keeps {td : Bool} {z : State} (d : Draw) (b : List Byte) (s : State)
    (hz : Keeps true td z s) : Keeps true td z (drawn d b s) := by
  unfold drawn
  repeat' first
    | with_reducible first
      | exact hz | apply replicaDrawn_keeps | apply serveSalts_keeps | apply newChallenge_keeps
      | apply acceptGrant_keeps | apply joinDrawn_keeps | apply drawForJob_keeps | apply KC.wrote
      | apply KC.cleared | apply KC.filtered | apply KC.fold
    | split | (with_reducible apply Keeps.upd; dsimp only) | dsimp only | intro

theorem grantFirst_keeps {td : Bool} {z : State} (s : State)
    (hz : Keeps true td z s) : Keeps true td z (grantFirst s) := by
  unfold grantFirst
  repeat' first
    | with_reducible first
      | exact hz | apply grantInternal_keeps | apply drawn_keeps | apply Keeps.ite | apply KC.fold
    | split | (with_reducible apply Keeps.upd; dsimp only) | dsimp only | intro

theorem execEntropyGrant_keeps {td : Bool} {t : State} (forJob : Bool) (s : State)
    (hz : execEntropyGrant forJob s = .next t) : Keeps true td s t := by
  unfold execEntropyGrant at hz
  injection hz with hz
  subst hz
  repeat' first
    | with_reducible first
      | exact Keeps.refl _ _ _ | apply grantSecond_keeps | apply grantFirst_keeps | apply Keeps.ite
    | split | dsimp only | intro

end Sys2Proof.Machine
end

