-- ==== Sys2Proof/Laws/KeepsMake.lean ====
section
/-! SUPPORT. `Keeps` of the operations of Machine/Make.lean. -/

namespace Sys2Proof.Machine

theorem makeKeys_keeps {w td : Bool} {z : State} (j : Job) (plans : List Plan) (pre pub : List Byte) (s : State)
    (hz : Keeps w td z s) : Keeps w td z (makeKeys j plans pre pub s).1 := by
  unfold makeKeys
  repeat' first
    | with_reducible first
      | exact hz | apply createPlanned_keeps | apply fail_keeps | apply Keeps.ite
    | split | dsimp only | intro

theorem deriveOut_keeps {w td : Bool} {z : State} (j : Job) (bits : Nat) (derived : List Byte) (s : State)
    (hz : Keeps w td z s) : Keeps w td z (deriveOut j bits derived s).1 := by
  unfold deriveOut
  repeat' first
    | with_reducible first
      | exact hz | apply makeKeys_keeps | apply Keeps.ite
    | split | dsimp only | intro

end Sys2Proof.Machine
end

