-- ==== Sys2Proof/Laws/KeepsSym.lean ====
section
/-! SUPPORT. `Keeps` of the operations of Machine/Sym.lean. -/

namespace Sys2Proof.Machine

theorem countBlocks_keeps {w td : Bool} {z : State} (j : Job) (n : Nat) (s : State)
    (hz : Keeps w td z s) : Keeps w td z (countBlocks j n s) := by
  unfold countBlocks
  repeat' first
    | with_reducible first
      | exact hz | apply bump_keeps | apply evcAdd_keeps | apply Keeps.ite | apply KC.fold
    | split | (with_reducible apply Keeps.upd; dsimp only) | dsimp only | intro

theorem countSym_keeps {w td : Bool} {z : State} (j : Job) (s : State)
    (hz : Keeps w td z s) : Keeps w td z (countSym j s) := by
  unfold countSym
  repeat' first
    | with_reducible first
      | exact hz | apply countBlocks_keeps
    | dsimp only | intro

theorem symEncrypt_keeps {w td : Bool} {z : State} (j : Job) (s : State)
    (hz : Keeps w td z s) : Keeps w td z (symEncrypt j s).1 := by
  unfold symEncrypt
  repeat' first
    | with_reducible first
      | exact hz | apply countSym_keeps | apply Keeps.ite
    | split | dsimp only | intro

theorem symDecrypt_keeps {w td : Bool} {z : State} (j : Job) (s : State)
    (hz : Keeps w td z s) : Keeps w td z (symDecrypt j s).1 := by
  unfold symDecrypt
  repeat' first
    | with_reducible first
      | exact hz | apply countSym_keeps
    | dsimp only | intro

theorem symSeal_keeps {w td : Bool} {z : State} (j : Job) (s : State)
    (hz : Keeps w td z s) : Keeps w td z (symSeal j s).1 := by
  unfold symSeal
  repeat' first
    | with_reducible first
      | exact hz | apply countSym_keeps | apply Keeps.ite
    | split | dsimp only | intro

theorem symOpen_keeps {w td : Bool} {z : State} (j : Job) (s : State)
    (hz : Keeps w td z s) : Keeps w td z (symOpen j s).1 := by
  unfold symOpen
  repeat' first
    | with_reducible first
      | exact hz | apply countSym_keeps | apply Keeps.ite
    | split | dsimp only | intro

theorem symMac_keeps {w td : Bool} {z : State} (j : Job) (s : State)
    (hz : Keeps w td z s) : Keeps w td z (symMac j s).1 := by
  unfold symMac
  repeat' first
    | with_reducible first
      | exact hz | apply countSym_keeps | apply Keeps.ite
    | split | dsimp only | intro

theorem symVerify_keeps {w td : Bool} {z : State} (j : Job) (s : State)
    (hz : Keeps w td z s) : Keeps w td z (symVerify j s).1 := by
  unfold symVerify
  repeat' first
    | with_reducible first
      | exact hz | apply countSym_keeps | apply Keeps.ite
    | split | dsimp only | intro

theorem symWrap_keeps {w td : Bool} {z : State} (alg : Nat) (j : Job) (s : State)
    (hz : Keeps w td z s) : Keeps w td z (symWrap alg j s).1 := by
  unfold symWrap
  repeat' first
    | with_reducible first
      | exact hz | apply countSym_keeps | apply Keeps.ite
    | split | dsimp only | intro

theorem symUnwrap_keeps {w td : Bool} {z : State} (alg : Nat) (j : Job) (s : State)
    (hz : Keeps w td z s) : Keeps w td z (symUnwrap alg j s).1 := by
  unfold symUnwrap
  repeat' first
    | with_reducible first
      | exact hz | apply countSym_keeps | apply Keeps.ite
    | split | dsimp only | intro

theorem execAesEcbEncrypt_keeps {w td : Bool} {t : State} (ctx : Nat) (s : State)
    (hz : execAesEcbEncrypt ctx s = .next t) : Keeps w td s t := by
  unfold execAesEcbEncrypt at hz
  injection hz with hz
  subst hz
  repeat' first
    | with_reducible first
      | exact Keeps.refl _ _ _ | apply runOp_keeps | apply symEncrypt_keeps
    | dsimp only | intro

theorem execAesEcbDecrypt_keeps {w td : Bool} {t : State} (ctx : Nat) (s : State)
    (hz : execAesEcbDecrypt ctx s = .next t) : Keeps w td s t := by
  unfold execAesEcbDecrypt at hz
  injection hz with hz
  subst hz
  repeat' first
    | with_reducible first
      | exact Keeps.refl _ _ _ | apply runOp_keeps | apply symDecrypt_keeps
    | dsimp only | intro

theorem execAesCbcEncrypt_keeps {w td : Bool} {t : State} (ctx : Nat) (s : State)
    (hz : execAesCbcEncrypt ctx s = .next t) : Keeps w td s t := by
  unfold execAesCbcEncrypt at hz
  injection hz with hz
  subst hz
  repeat' first
    | with_reducible first
      | exact Keeps.refl _ _ _ | apply runOp_keeps | apply symEncrypt_keeps
    | dsimp only | intro

theorem execAesCbcDecrypt_keeps {w td : Bool} {t : State} (ctx : Nat) (s : State)
    (hz : execAesCbcDecrypt ctx s = .next t) : Keeps w td s t := by
  unfold execAesCbcDecrypt at hz
  injection hz with hz
  subst hz
  repeat' first
    | with_reducible first
      | exact Keeps.refl _ _ _ | apply runOp_keeps | apply symDecrypt_keeps
    | dsimp only | intro

theorem execAesCfbEncrypt_keeps {w td : Bool} {t : State} (ctx : Nat) (s : State)
    (hz : execAesCfbEncrypt ctx s = .next t) : Keeps w td s t := by
  unfold execAesCfbEncrypt at hz
  injection hz with hz
  subst hz
  repeat' first
    | with_reducible first
      | exact Keeps.refl _ _ _ | apply runOp_keeps | apply symEncrypt_keeps
    | dsimp only | intro

theorem execAesCfbDecrypt_keeps {w td : Bool} {t : State} (ctx : Nat) (s : State)
    (hz : execAesCfbDecrypt ctx s = .next t) : Keeps w td s t := by
  unfold execAesCfbDecrypt at hz
  injection hz with hz
  subst hz
  repeat' first
    | with_reducible first
      | exact Keeps.refl _ _ _ | apply runOp_keeps | apply symDecrypt_keeps
    | dsimp only | intro

theorem execAesOfbEncrypt_keeps {w td : Bool} {t : State} (ctx : Nat) (s : State)
    (hz : execAesOfbEncrypt ctx s = .next t) : Keeps w td s t := by
  unfold execAesOfbEncrypt at hz
  injection hz with hz
  subst hz
  repeat' first
    | with_reducible first
      | exact Keeps.refl _ _ _ | apply runOp_keeps | apply symEncrypt_keeps
    | dsimp only | intro

theorem execAesOfbDecrypt_keeps {w td : Bool} {t : State} (ctx : Nat) (s : State)
    (hz : execAesOfbDecrypt ctx s = .next t) : Keeps w td s t := by
  unfold execAesOfbDecrypt at hz
  injection hz with hz
  subst hz
  repeat' first
    | with_reducible first
      | exact Keeps.refl _ _ _ | apply runOp_keeps | apply symDecrypt_keeps
    | dsimp only | intro

theorem execAesCtrEncrypt_keeps {w td : Bool} {t : State} (ctx : Nat) (s : State)
    (hz : execAesCtrEncrypt ctx s = .next t) : Keeps w td s t := by
  unfold execAesCtrEncrypt at hz
  injection hz with hz
  subst hz
  repeat' first
    | with_reducible first
      | exact Keeps.refl _ _ _ | apply runOp_keeps | apply symEncrypt_keeps
    | dsimp only | intro

theorem execAesCtrDecrypt_keeps {w td : Bool} {t : State} (ctx : Nat) (s : State)
    (hz : execAesCtrDecrypt ctx s = .next t) : Keeps w td s t := by
  unfold execAesCtrDecrypt at hz
  injection hz with hz
  subst hz
  repeat' first
    | with_reducible first
      | exact Keeps.refl _ _ _ | apply runOp_keeps | apply symDecrypt_keeps
    | dsimp only | intro

theorem execXtsAesEncrypt_keeps {w td : Bool} {t : State} (ctx : Nat) (s : State)
    (hz : execXtsAesEncrypt ctx s = .next t) : Keeps w td s t := by
  unfold execXtsAesEncrypt at hz
  injection hz with hz
  subst hz
  repeat' first
    | with_reducible first
      | exact Keeps.refl _ _ _ | apply runOp_keeps | apply symEncrypt_keeps
    | dsimp only | intro

theorem execXtsAesDecrypt_keeps {w td : Bool} {t : State} (ctx : Nat) (s : State)
    (hz : execXtsAesDecrypt ctx s = .next t) : Keeps w td s t := by
  unfold execXtsAesDecrypt at hz
  injection hz with hz
  subst hz
  repeat' first
    | with_reducible first
      | exact Keeps.refl _ _ _ | apply runOp_keeps | apply symDecrypt_keeps
    | dsimp only | intro

theorem execAesGcmEncrypt_keeps {w td : Bool} {t : State} (ctx : Nat) (s : State)
    (hz : execAesGcmEncrypt ctx s = .next t) : Keeps w td s t := by
  unfold execAesGcmEncrypt at hz
  injection hz with hz
  subst hz
  repeat' first
    | with_reducible first
      | exact Keeps.refl _ _ _ | apply runOp_keeps | apply symSeal_keeps
    | dsimp only | intro

theorem execAesGcmDecrypt_keeps {w td : Bool} {t : State} (ctx : Nat) (s : State)
    (hz : execAesGcmDecrypt ctx s = .next t) : Keeps w td s t := by
  unfold execAesGcmDecrypt at hz
  injection hz with hz
  subst hz
  repeat' first
    | with_reducible first
      | exact Keeps.refl _ _ _ | apply runOp_keeps | apply symOpen_keeps
    | dsimp only | intro

theorem execAesGmacGenerate_keeps {w td : Bool} {t : State} (ctx : Nat) (s : State)
    (hz : execAesGmacGenerate ctx s = .next t) : Keeps w td s t := by
  unfold execAesGmacGenerate at hz
  injection hz with hz
  subst hz
  repeat' first
    | with_reducible first
      | exact Keeps.refl _ _ _ | apply runOp_keeps | apply symMac_keeps
    | dsimp only | intro

theorem execAesGmacVerify_keeps {w td : Bool} {t : State} (ctx : Nat) (s : State)
    (hz : execAesGmacVerify ctx s = .next t) : Keeps w td s t := by
  unfold execAesGmacVerify at hz
  injection hz with hz
  subst hz
  repeat' first
    | with_reducible first
      | exact Keeps.refl _ _ _ | apply runOp_keeps | apply symVerify_keeps
    | dsimp only | intro

theorem execAesCcmEncrypt_keeps {w td : Bool} {t : State} (ctx : Nat) (s : State)
    (hz : execAesCcmEncrypt ctx s = .next t) : Keeps w td s t := by
  unfold execAesCcmEncrypt at hz
  injection hz with hz
  subst hz
  repeat' first
    | with_reducible first
      | exact Keeps.refl _ _ _ | apply runOp_keeps | apply symSeal_keeps
    | dsimp only | intro

theorem execAesCcmDecrypt_keeps {w td : Bool} {t : State} (ctx : Nat) (s : State)
    (hz : execAesCcmDecrypt ctx s = .next t) : Keeps w td s t := by
  unfold execAesCcmDecrypt at hz
  injection hz with hz
  subst hz
  repeat' first
    | with_reducible first
      | exact Keeps.refl _ _ _ | apply runOp_keeps | apply symOpen_keeps
    | dsimp only | intro

theorem execAesGcmSivEncrypt_keeps {w td : Bool} {t : State} (ctx : Nat) (s : State)
    (hz : execAesGcmSivEncrypt ctx s = .next t) : Keeps w td s t := by
  unfold execAesGcmSivEncrypt at hz
  injection hz with hz
  subst hz
  repeat' first
    | with_reducible first
      | exact Keeps.refl _ _ _ | apply runOp_keeps | apply symSeal_keeps
    | dsimp only | intro

theorem execAesGcmSivDecrypt_keeps {w td : Bool} {t : State} (ctx : Nat) (s : State)
    (hz : execAesGcmSivDecrypt ctx s = .next t) : Keeps w td s t := by
  unfold execAesGcmSivDecrypt at hz
  injection hz with hz
  subst hz
  repeat' first
    | with_reducible first
      | exact Keeps.refl _ _ _ | apply runOp_keeps | apply symOpen_keeps
    | dsimp only | intro

theorem execAesKwWrap_keeps {w td : Bool} {t : State} (ctx : Nat) (s : State)
    (hz : execAesKwWrap ctx s = .next t) : Keeps w td s t := by
  unfold execAesKwWrap at hz
  injection hz with hz
  subst hz
  repeat' first
    | with_reducible first
      | exact Keeps.refl _ _ _ | apply runOp_keeps | apply symWrap_keeps
    | dsimp only | intro

theorem execAesKwUnwrap_keeps {w td : Bool} {t : State} (ctx : Nat) (s : State)
    (hz : execAesKwUnwrap ctx s = .next t) : Keeps w td s t := by
  unfold execAesKwUnwrap at hz
  injection hz with hz
  subst hz
  repeat' first
    | with_reducible first
      | exact Keeps.refl _ _ _ | apply runOp_keeps | apply symUnwrap_keeps
    | dsimp only | intro

theorem execAesKwpWrap_keeps {w td : Bool} {t : State} (ctx : Nat) (s : State)
    (hz : execAesKwpWrap ctx s = .next t) : Keeps w td s t := by
  unfold execAesKwpWrap at hz
  injection hz with hz
  subst hz
  repeat' first
    | with_reducible first
      | exact Keeps.refl _ _ _ | apply runOp_keeps | apply symWrap_keeps
    | dsimp only | intro

theorem execAesKwpUnwrap_keeps {w td : Bool} {t : State} (ctx : Nat) (s : State)
    (hz : execAesKwpUnwrap ctx s = .next t) : Keeps w td s t := by
  unfold execAesKwpUnwrap at hz
  injection hz with hz
  subst hz
  repeat' first
    | with_reducible first
      | exact Keeps.refl _ _ _ | apply runOp_keeps | apply symUnwrap_keeps
    | dsimp only | intro

theorem execChacha20Poly1305Encrypt_keeps {w td : Bool} {t : State} (ctx : Nat) (s : State)
    (hz : execChacha20Poly1305Encrypt ctx s = .next t) : Keeps w td s t := by
  unfold execChacha20Poly1305Encrypt at hz
  injection hz with hz
  subst hz
  repeat' first
    | with_reducible first
      | exact Keeps.refl _ _ _ | apply runOp_keeps | apply symSeal_keeps
    | dsimp only | intro

theorem execChacha20Poly1305Decrypt_keeps {w td : Bool} {t : State} (ctx : Nat) (s : State)
    (hz : execChacha20Poly1305Decrypt ctx s = .next t) : Keeps w td s t := by
  unfold execChacha20Poly1305Decrypt at hz
  injection hz with hz
  subst hz
  repeat' first
    | with_reducible first
      | exact Keeps.refl _ _ _ | apply runOp_keeps | apply symOpen_keeps
    | dsimp only | intro

theorem execTdeaEcbEncrypt_keeps {w td : Bool} {t : State} (ctx : Nat) (s : State)
    (hz : execTdeaEcbEncrypt ctx s = .next t) : Keeps w td s t := by
  unfold execTdeaEcbEncrypt at hz
  injection hz with hz
  subst hz
  repeat' first
    | with_reducible first
      | exact Keeps.refl _ _ _ | apply runOp_keeps | apply symEncrypt_keeps
    | dsimp only | intro

theorem execTdeaEcbDecrypt_keeps {w td : Bool} {t : State} (ctx : Nat) (s : State)
    (hz : execTdeaEcbDecrypt ctx s = .next t) : Keeps w td s t := by
  unfold execTdeaEcbDecrypt at hz
  injection hz with hz
  subst hz
  repeat' first
    | with_reducible first
      | exact Keeps.refl _ _ _ | apply runOp_keeps | apply symDecrypt_keeps
    | dsimp only | intro

theorem execTdeaCbcEncrypt_keeps {w td : Bool} {t : State} (ctx : Nat) (s : State)
    (hz : execTdeaCbcEncrypt ctx s = .next t) : Keeps w td s t := by
  unfold execTdeaCbcEncrypt at hz
  injection hz with hz
  subst hz
  repeat' first
    | with_reducible first
      | exact Keeps.refl _ _ _ | apply runOp_keeps | apply symEncrypt_keeps
    | dsimp only | intro

theorem execTdeaCbcDecrypt_keeps {w td : Bool} {t : State} (ctx : Nat) (s : State)
    (hz : execTdeaCbcDecrypt ctx s = .next t) : Keeps w td s t := by
  unfold execTdeaCbcDecrypt at hz
  injection hz with hz
  subst hz
  repeat' first
    | with_reducible first
      | exact Keeps.refl _ _ _ | apply runOp_keeps | apply symDecrypt_keeps
    | dsimp only | intro

end Sys2Proof.Machine
end

