-- ==== Sys2Proof/Laws/KeepsHash.lean ====
section
/-! SUPPORT. `Keeps` of the operations of Machine/Hash.lean. -/

namespace Sys2Proof.Machine

theorem countHash_keeps {w td : Bool} {z : State} (j : Job) (n : Nat) (s : State)
    (hz : Keeps w td z s) : Keeps w td z (countHash j n s) := by
  unfold countHash
  repeat' first
    | with_reducible first
      | exact hz | apply bump_keeps | apply evcAdd_keeps | apply Keeps.ite | apply KC.fold
    | split | (with_reducible apply Keeps.upd; dsimp only) | dsimp only | intro

theorem hashGen_keeps {w td : Bool} {z : State} (f : State → Job → List Byte) (j : Job) (s : State)
    (hz : Keeps w td z s) : Keeps w td z (hashGen f j s).1 := by
  unfold hashGen
  repeat' first
    | with_reducible first
      | exact hz | apply countHash_keeps | apply Keeps.ite
    | split | dsimp only | intro

theorem hashCheck_keeps {w td : Bool} {z : State} (f : State → Job → List Byte) (bad : Nat) (j : Job) (s : State)
    (hz : Keeps w td z s) : Keeps w td z (hashCheck f bad j s).1 := by
  unfold hashCheck
  repeat' first
    | with_reducible first
      | exact hz | apply countHash_keeps | apply Keeps.ite
    | split | dsimp only | intro

theorem onLane_keeps {w td : Bool} {z : State} (f : Job → State → State × Res) (j : Job) (s : State)
    (hf : ∀ (y0 : Job) (y1 : State), Keeps w td z y1 → Keeps w td z (f y0 y1).1)
    (hz : Keeps w td z s) : Keeps w td z (onLane f j s).1 := by
  unfold onLane
  repeat' first
    | with_reducible first
      | exact hz | assumption | apply countBlocks_keeps | apply hf
    | dsimp only | intro

theorem kdfJob_keeps {w td : Bool} {z : State} (f : Job → List Byte → Nat → List Byte) (j : Job) (s : State)
    (hz : Keeps w td z s) : Keeps w td z (kdfJob f j s).1 := by
  unfold kdfJob
  repeat' first
    | with_reducible first
      | exact hz | apply deriveOut_keeps | apply countHash_keeps
    | dsimp only | intro

theorem pbkdfJob_keeps {w td : Bool} {z : State} (alg : Nat) (j : Job) (s : State)
    (hz : Keeps w td z s) : Keeps w td z (pbkdfJob alg j s).1 := by
  unfold pbkdfJob
  repeat' first
    | with_reducible first
      | exact hz | apply deriveOut_keeps | apply countHash_keeps
    | dsimp only | intro

theorem execHash_keeps {w td : Bool} {t : State} (ctx : Nat) (s : State)
    (hz : execHash ctx s = .next t) : Keeps w td s t := by
  unfold execHash at hz
  injection hz with hz
  subst hz
  repeat' first
    | with_reducible first
      | exact Keeps.refl _ _ _ | apply runOp_keeps | apply hashGen_keeps
    | dsimp only | intro

theorem execHashVerify_keeps {w td : Bool} {t : State} (ctx : Nat) (s : State)
    (hz : execHashVerify ctx s = .next t) : Keeps w td s t := by
  unfold execHashVerify at hz
  injection hz with hz
  subst hz
  repeat' first
    | with_reducible first
      | exact Keeps.refl _ _ _ | apply runOp_keeps | apply hashCheck_keeps
    | dsimp only | intro

theorem execXof_keeps {w td : Bool} {t : State} (ctx : Nat) (s : State)
    (hz : execXof ctx s = .next t) : Keeps w td s t := by
  unfold execXof at hz
  injection hz with hz
  subst hz
  repeat' first
    | with_reducible first
      | exact Keeps.refl _ _ _ | apply runOp_keeps | apply hashGen_keeps
    | dsimp only | intro

theorem execHmacGen_keeps {w td : Bool} {t : State} (ctx : Nat) (s : State)
    (hz : execHmacGen ctx s = .next t) : Keeps w td s t := by
  unfold execHmacGen at hz
  injection hz with hz
  subst hz
  repeat' first
    | with_reducible first
      | exact Keeps.refl _ _ _ | apply runOp_keeps | apply hashGen_keeps
    | dsimp only | intro

theorem execHmacVerify_keeps {w td : Bool} {t : State} (ctx : Nat) (s : State)
    (hz : execHmacVerify ctx s = .next t) : Keeps w td s t := by
  unfold execHmacVerify at hz
  injection hz with hz
  subst hz
  repeat' first
    | with_reducible first
      | exact Keeps.refl _ _ _ | apply runOp_keeps | apply hashCheck_keeps
    | dsimp only | intro

theorem execKmacGen_keeps {w td : Bool} {t : State} (ctx : Nat) (s : State)
    (hz : execKmacGen ctx s = .next t) : Keeps w td s t := by
  unfold execKmacGen at hz
  injection hz with hz
  subst hz
  repeat' first
    | with_reducible first
      | exact Keeps.refl _ _ _ | apply runOp_keeps | apply hashGen_keeps
    | dsimp only | intro

theorem execKmacVerify_keeps {w td : Bool} {t : State} (ctx : Nat) (s : State)
    (hz : execKmacVerify ctx s = .next t) : Keeps w td s t := by
  unfold execKmacVerify at hz
  injection hz with hz
  subst hz
  repeat' first
    | with_reducible first
      | exact Keeps.refl _ _ _ | apply runOp_keeps | apply hashCheck_keeps
    | dsimp only | intro

theorem execCmacGen_keeps {w td : Bool} {t : State} (ctx : Nat) (s : State)
    (hz : execCmacGen ctx s = .next t) : Keeps w td s t := by
  unfold execCmacGen at hz
  injection hz with hz
  subst hz
  repeat' first
    | with_reducible first
      | exact Keeps.refl _ _ _ | apply runOp_keeps | apply hashGen_keeps | apply onLane_keeps
    | dsimp only | intro

theorem execCmacVerify_keeps {w td : Bool} {t : State} (ctx : Nat) (s : State)
    (hz : execCmacVerify ctx s = .next t) : Keeps w td s t := by
  unfold execCmacVerify at hz
  injection hz with hz
  subst hz
  repeat' first
    | with_reducible first
      | exact Keeps.refl _ _ _ | apply runOp_keeps | apply hashCheck_keeps | apply onLane_keeps
    | dsimp only | intro

theorem execKdfCtr_keeps {w td : Bool} {t : State} (ctx : Nat) (s : State)
    (hz : execKdfCtr ctx s = .next t) : Keeps w td s t := by
  unfold execKdfCtr at hz
  injection hz with hz
  subst hz
  repeat' first
    | with_reducible first
      | exact Keeps.refl _ _ _ | apply runOp_keeps | apply kdfJob_keeps
    | dsimp only | intro

theorem execKdfFb_keeps {w td : Bool} {t : State} (ctx : Nat) (s : State)
    (hz : execKdfFb ctx s = .next t) : Keeps w td s t := by
  unfold execKdfFb at hz
  injection hz with hz
  subst hz
  repeat' first
    | with_reducible first
      | exact Keeps.refl _ _ _ | assumption | apply runOp_keeps | apply kdfJob_keeps
    | dsimp only | intro

theorem execKdfDp_keeps {w td : Bool} {t : State} (ctx : Nat) (s : State)
    (hz : execKdfDp ctx s = .next t) : Keeps w td s t := by
  unfold execKdfDp at hz
  injection hz with hz
  subst hz
  repeat' first
    | with_reducible first
      | exact Keeps.refl _ _ _ | assumption | apply runOp_keeps | apply kdfJob_keeps
    | dsimp only | intro

theorem execHkdf_keeps {w td : Bool} {t : State} (ctx : Nat) (s : State)
    (hz : execHkdf ctx s = .next t) : Keeps w td s t := by
  unfold execHkdf at hz
  injection hz with hz
  subst hz
  repeat' first
    | with_reducible first
      | exact Keeps.refl _ _ _ | apply runOp_keeps | apply kdfJob_keeps
    | dsimp only | intro

theorem execKdfOnestep_keeps {w td : Bool} {t : State} (ctx : Nat) (s : State)
    (hz : execKdfOnestep ctx s = .next t) : Keeps w td s t := by
  unfold execKdfOnestep at hz
  injection hz with hz
  subst hz
  repeat' first
    | with_reducible first
      | exact Keeps.refl _ _ _ | assumption | apply runOp_keeps | apply kdfJob_keeps
    | dsimp only | intro

theorem execPbkdf2HmacSha256_keeps {w td : Bool} {t : State} (ctx : Nat) (s : State)
    (hz : execPbkdf2HmacSha256 ctx s = .next t) : Keeps w td s t := by
  unfold execPbkdf2HmacSha256 at hz
  injection hz with hz
  subst hz
  repeat' first
    | with_reducible first
      | exact Keeps.refl _ _ _ | apply runOp_keeps | apply pbkdfJob_keeps
    | dsimp only | intro

theorem execPbkdf2HmacSha512_keeps {w td : Bool} {t : State} (ctx : Nat) (s : State)
    (hz : execPbkdf2HmacSha512 ctx s = .next t) : Keeps w td s t := by
  unfold execPbkdf2HmacSha512 at hz
  injection hz with hz
  subst hz
  repeat' first
    | with_reducible first
      | exact Keeps.refl _ _ _ | apply runOp_keeps | apply pbkdfJob_keeps
    | dsimp only | intro

end Sys2Proof.Machine
end

