-- ==== Sys2Proof/Laws/KeepsKeys.lean ====
section
/-! SUPPORT. `Keeps` of the operations of Machine/Keys.lean. -/

namespace Sys2Proof.Machine

theorem keyGenerate_keeps {w td : Bool} {z : State} (j : Job) (s : State)
    (hz : Keeps w td z s) : Keeps w td z (keyGenerate j s).1 := by
  unfold keyGenerate
  repeat' first
    | with_reducible first
      | exact hz | apply makeKeys_keeps
    | dsimp only | intro

theorem ofKey_keeps {w td : Bool} {z : State} (f : Nat → KeyObj → State → State × Res) (j : Job) (s : State)
    (hf : ∀ (y0 : Nat) (y1 : KeyObj) (y2 : State), Keeps w td z y2 → Keeps w td z (f y0 y1 y2).1)
    (hz : Keeps w td z s) : Keeps w td z (ofKey f j s).1 := by
  unfold ofKey
  repeat' first
    | with_reducible first
      | exact hz | assumption | apply fail_keeps | apply hf | apply KC.fold
    | split | (with_reducible apply Keeps.upd; dsimp only) | dsimp only | intro

theorem onKey_keeps {w td : Bool} {z : State} (f : Nat → KeyObj → State → State × Res) (j : Job) (s : State)
    (hf : ∀ (y0 : Nat) (y1 : KeyObj) (y2 : State), Keeps w td z y2 → Keeps w td z (f y0 y1 y2).1)
    (hz : Keeps w td z s) : Keeps w td z (onKey f j s).1 := by
  unfold onKey
  repeat' first
    | with_reducible first
      | exact hz | assumption | apply fail_keeps | apply hf | apply KC.fold
    | split | (with_reducible apply Keeps.upd; dsimp only) | dsimp only | intro

theorem setAttr_keeps {w td : Bool} {z : State} (b : List Byte) (slot : Nat) (o : KeyObj) (s : State)
    (hz : Keeps w td z s) : Keeps w td z (setAttr b slot o s).1 := by
  unfold setAttr
  repeat' first
    | with_reducible first
      | exact hz | apply updateObj_keeps | apply fail_keeps | apply Keeps.ite | apply KC.fold
    | split | (with_reducible apply Keeps.upd; dsimp only) | dsimp only | intro

theorem exportPack_keeps {w td : Bool} {z : State} (j : Job) (slot : Nat) (o : KeyObj) (s : State)
    (hz : Keeps w td z s) : Keeps w td z (exportPack j slot o s).1 := by
  unfold exportPack
  repeat' first
    | with_reducible first
      | exact hz | apply bump_keeps
    | dsimp only | intro

theorem restorePack_keeps {w td : Bool} {z : State} (j : Job) (s : State)
    (hz : Keeps w td z s) : Keeps w td z (restorePack j s).1 := by
  unfold restorePack
  repeat' first
    | with_reducible first
      | exact hz | apply bump_keeps | apply makeKeys_keeps
    | dsimp only | intro

theorem wrapExport_keeps {w td : Bool} {z : State} (j : Job) (s : State)
    (hz : Keeps w td z s) : Keeps w td z (wrapExport j s).1 := by
  unfold wrapExport
  repeat' first
    | with_reducible first
      | exact hz | assumption
    | dsimp only | intro

theorem unwrapImport_keeps {w td : Bool} {z : State} (j : Job) (s : State)
    (hz : Keeps w td z s) : Keeps w td z (unwrapImport j s).1 := by
  unfold unwrapImport
  repeat' first
    | with_reducible first
      | exact hz | apply fail_keeps | apply makeKeys_keeps | apply Keeps.ite | apply KC.fold
    | split | (with_reducible apply Keeps.upd; dsimp only) | dsimp only | intro

theorem rootDerive_keeps {w td : Bool} {z : State} (j : Job) (s : State)
    (hz : Keeps w td z s) : Keeps w td z (rootDerive j s).1 := by
  unfold rootDerive
  repeat' first
    | with_reducible first
      | exact hz | apply fail_keeps | apply makeKeys_keeps | apply Keeps.ite
    | split | dsimp only | intro

theorem rootInit_keeps {w td : Bool} {z : State} (j : Job) (s : State)
    (hz : Keeps w td z s) : Keeps w td z (rootInit j s).1 := by
  unfold rootInit
  repeat' first
    | with_reducible first
      | exact hz | apply setRoots_keeps | apply fail_keeps | apply Keeps.ite
    | split | dsimp only | intro

theorem rootAssign_keeps {w td : Bool} {z : State} (j : Job) (s : State)
    (hz : Keeps w td z s) : Keeps w td z (rootAssign j s).1 := by
  unfold rootAssign
  repeat' first
    | with_reducible first
      | exact hz | apply setRoots_keeps | apply fail_keeps | apply Keeps.ite
    | split | dsimp only | intro

theorem rootBackup_keeps {w td : Bool} {z : State} (j : Job) (s : State)
    (hz : Keeps w td z s) : Keeps w td z (rootBackup j s).1 := by
  unfold rootBackup
  repeat' first
    | with_reducible first
      | exact hz
    | dsimp only | intro

theorem rootRestore_keeps {w td : Bool} {z : State} (j : Job) (s : State)
    (hz : Keeps w td z s) : Keeps w td z (rootRestore j s).1 := by
  unfold rootRestore
  repeat' first
    | with_reducible first
      | exact hz | apply bump_keeps | apply setRoots_keeps | apply fail_keeps | apply Keeps.ite | apply KC.emitted
      | apply KC.fold
    | split | (with_reducible apply Keeps.upd; dsimp only) | dsimp only | intro

theorem execKeyGenerate_keeps {w td : Bool} {t : State} (ctx : Nat) (s : State)
    (hz : execKeyGenerate ctx s = .next t) : Keeps w td s t := by
  unfold execKeyGenerate at hz
  injection hz with hz
  subst hz
  repeat' first
    | with_reducible first
      | exact Keeps.refl _ _ _ | apply runOp_keeps | apply keyGenerate_keeps
    | dsimp only | intro

theorem execKeyDestroy_keeps {w td : Bool} {t : State} (ctx : Nat) (s : State)
    (hz : execKeyDestroy ctx s = .next t) : Keeps w td s t := by
  unfold execKeyDestroy at hz
  injection hz with hz
  subst hz
  repeat' first
    | with_reducible first
      | exact Keeps.refl _ _ _ | assumption | apply destroyObj_keeps | apply runOp_keeps | apply onKey_keeps
    | dsimp only | intro

theorem execKeySetAttr_keeps {w td : Bool} {t : State} (ctx : Nat) (s : State)
    (hz : execKeySetAttr ctx s = .next t) : Keeps w td s t := by
  unfold execKeySetAttr at hz
  injection hz with hz
  subst hz
  repeat' first
    | with_reducible first
      | exact Keeps.refl _ _ _ | assumption | apply runOp_keeps | apply onKey_keeps | apply setAttr_keeps
    | dsimp only | intro

theorem execKeyQuery_keeps {w td : Bool} {t : State} (ctx : Nat) (s : State)
    (hz : execKeyQuery ctx s = .next t) : Keeps w td s t := by
  unfold execKeyQuery at hz
  injection hz with hz
  subst hz
  repeat' first
    | with_reducible first
      | exact Keeps.refl _ _ _ | assumption | apply runOp_keeps | apply ofKey_keeps
    | dsimp only | intro

theorem execKeyGetPublic_keeps {w td : Bool} {t : State} (ctx : Nat) (s : State)
    (hz : execKeyGetPublic ctx s = .next t) : Keeps w td s t := by
  unfold execKeyGetPublic at hz
  injection hz with hz
  subst hz
  repeat' first
    | with_reducible first
      | exact Keeps.refl _ _ _ | assumption | apply runOp_keeps | apply ofKey_keeps
    | dsimp only | intro

theorem execKeyExportPack_keeps {w td : Bool} {t : State} (ctx : Nat) (s : State)
    (hz : execKeyExportPack ctx s = .next t) : Keeps w td s t := by
  unfold execKeyExportPack at hz
  injection hz with hz
  subst hz
  repeat' first
    | with_reducible first
      | exact Keeps.refl _ _ _ | assumption | apply runOp_keeps | apply ofKey_keeps | apply exportPack_keeps
    | dsimp only | intro

theorem execKeyRestorePack_keeps {w td : Bool} {t : State} (ctx : Nat) (s : State)
    (hz : execKeyRestorePack ctx s = .next t) : Keeps w td s t := by
  unfold execKeyRestorePack at hz
  injection hz with hz
  subst hz
  repeat' first
    | with_reducible first
      | exact Keeps.refl _ _ _ | apply runOp_keeps | apply restorePack_keeps
    | dsimp only | intro

theorem execKeyWrapExport_keeps {w td : Bool} {t : State} (ctx : Nat) (s : State)
    (hz : execKeyWrapExport ctx s = .next t) : Keeps w td s t := by
  unfold execKeyWrapExport at hz
  injection hz with hz
  subst hz
  repeat' first
    | with_reducible first
      | exact Keeps.refl _ _ _ | apply runOp_keeps | apply wrapExport_keeps
    | dsimp only | intro

theorem execKeyUnwrapImport_keeps {w td : Bool} {t : State} (ctx : Nat) (s : State)
    (hz : execKeyUnwrapImport ctx s = .next t) : Keeps w td s t := by
  unfold execKeyUnwrapImport at hz
  injection hz with hz
  subst hz
  repeat' first
    | with_reducible first
      | exact Keeps.refl _ _ _ | apply runOp_keeps | apply unwrapImport_keeps
    | dsimp only | intro

theorem execKeyRootDerive_keeps {w td : Bool} {t : State} (ctx : Nat) (s : State)
    (hz : execKeyRootDerive ctx s = .next t) : Keeps w td s t := by
  unfold execKeyRootDerive at hz
  injection hz with hz
  subst hz
  repeat' first
    | with_reducible first
      | exact Keeps.refl _ _ _ | apply runOp_keeps | apply rootDerive_keeps
    | dsimp only | intro

theorem execRootInit_keeps {w td : Bool} {t : State} (ctx : Nat) (s : State)
    (hz : execRootInit ctx s = .next t) : Keeps w td s t := by
  unfold execRootInit at hz
  injection hz with hz
  subst hz
  repeat' first
    | with_reducible first
      | exact Keeps.refl _ _ _ | apply runOp_keeps | apply rootInit_keeps
    | dsimp only | intro

theorem execRootAssign_keeps {w td : Bool} {t : State} (ctx : Nat) (s : State)
    (hz : execRootAssign ctx s = .next t) : Keeps w td s t := by
  unfold execRootAssign at hz
  injection hz with hz
  subst hz
  repeat' first
    | with_reducible first
      | exact Keeps.refl _ _ _ | apply runOp_keeps | apply rootAssign_keeps
    | dsimp only | intro

theorem execRootBackup_keeps {w td : Bool} {t : State} (ctx : Nat) (s : State)
    (hz : execRootBackup ctx s = .next t) : Keeps w td s t := by
  unfold execRootBackup at hz
  injection hz with hz
  subst hz
  repeat' first
    | with_reducible first
      | exact Keeps.refl _ _ _ | apply runOp_keeps | apply rootBackup_keeps
    | dsimp only | intro

theorem execRootRestore_keeps {w td : Bool} {t : State} (ctx : Nat) (s : State)
    (hz : execRootRestore ctx s = .next t) : Keeps w td s t := by
  unfold execRootRestore at hz
  injection hz with hz
  subst hz
  repeat' first
    | with_reducible first
      | exact Keeps.refl _ _ _ | apply runOp_keeps | apply rootRestore_keeps
    | dsimp only | intro

end Sys2Proof.Machine
end

