-- ==== Sys2Proof/Laws/KeepsLattice.lean ====
section
/-! SUPPORT. `Keeps` of the operations of Machine/Lattice.lean. -/

namespace Sys2Proof.Machine

theorem mlkemKeygen_keeps {w td : Bool} {z : State} (j : Job) (s : State)
    (hz : Keeps w td z s) : Keeps w td z (mlkemKeygen j s).1 := by
  unfold mlkemKeygen
  repeat' first
    | with_reducible first
      | exact hz | apply makeKeys_keeps | apply Keeps.ite
    | split | dsimp only | intro

theorem mlkemEncaps_keeps {w td : Bool} {z : State} (j : Job) (s : State)
    (hz : Keeps w td z s) : Keeps w td z (mlkemEncaps j s).1 := by
  unfold mlkemEncaps
  repeat' first
    | with_reducible first
      | exact hz | apply fail_keeps | apply makeKeys_keeps | apply Keeps.ite
    | split | dsimp only | intro

theorem mlkemDecaps_keeps {w td : Bool} {z : State} (j : Job) (s : State)
    (hz : Keeps w td z s) : Keeps w td z (mlkemDecaps j s).1 := by
  unfold mlkemDecaps
  repeat' first
    | with_reducible first
      | exact hz | apply fail_keeps | apply deriveOut_keeps | apply Keeps.ite
    | split | dsimp only | intro

theorem mldsaKeygen_keeps {w td : Bool} {z : State} (j : Job) (s : State)
    (hz : Keeps w td z s) : Keeps w td z (mldsaKeygen j s).1 := by
  unfold mldsaKeygen
  repeat' first
    | with_reducible first
      | exact hz | apply makeKeys_keeps
    | dsimp only | intro

theorem slhdsaKeygen_keeps {w td : Bool} {z : State} (j : Job) (s : State)
    (hz : Keeps w td z s) : Keeps w td z (slhdsaKeygen j s).1 := by
  unfold slhdsaKeygen
  repeat' first
    | with_reducible first
      | exact hz | assumption | apply makeKeys_keeps
    | dsimp only | intro

theorem latSign_keeps {w td : Bool} {z : State} (f : CryptoFn) (j : Job) (s : State)
    (hz : Keeps w td z s) : Keeps w td z (latSign f j s).1 := by
  unfold latSign
  repeat' first
    | with_reducible first
      | exact hz
    | dsimp only | intro

theorem latVerify_keeps {w td : Bool} {z : State} (f : CryptoFn) (sigLen : Nat) (j : Job) (s : State)
    (hz : Keeps w td z s) : Keeps w td z (latVerify f sigLen j s).1 := by
  unfold latVerify
  repeat' first
    | with_reducible first
      | exact hz | apply fail_keeps | apply Keeps.ite
    | split | dsimp only | intro

theorem buildKeys_keeps {w td : Bool} {z : State} (fam : Nat) (j : Job) (seed template leaves : List Byte) (s : State)
    (hz : Keeps w td z s) : Keeps w td z (buildKeys fam j seed template leaves s).1 := by
  unfold buildKeys
  repeat' first
    | with_reducible first
      | exact hz | apply makeKeys_keeps
    | dsimp only | intro

theorem buildEntry_keeps {w td : Bool} {z : State} (fam ctx : Nat) (j : Job) (s : State)
    (hz : Keeps w td z s) : Keeps w td z (buildEntry fam ctx j s).1 := by
  unfold buildEntry
  repeat' first
    | with_reducible first
      | exact hz | apply setJob_keeps | apply buildKeys_keeps | apply Keeps.ite | apply KC.fold
    | split | (with_reducible apply Keeps.upd; dsimp only) | dsimp only | intro

theorem assignLeaf_keeps {w td : Bool} {z : State} (ctx : Nat) (j : Job) (s : State)
    (hz : Keeps w td z s) : Keeps w td z (assignLeaf ctx j s) := by
  unfold assignLeaf
  repeat' first
    | with_reducible first
      | exact hz | apply bump_keeps | apply mirror_keeps | apply setJob_keeps | apply refuseJob_keeps
      | apply putObj_keeps | apply Keeps.ite | apply KC.fold
    | split | (with_reducible apply Keeps.upd; dsimp only) | dsimp only | intro

theorem leafSign_keeps {w td : Bool} {z : State} (j : Job) (s : State)
    (hz : Keeps w td z s) : Keeps w td z (leafSign j s).1 := by
  unfold leafSign
  repeat' first
    | with_reducible first
      | exact hz | apply updateObj_keeps | apply KC.emitted | apply KC.fold
    | split | (with_reducible apply Keeps.upd; dsimp only) | dsimp only | intro

theorem leafRow_keeps {w td : Bool} {z : State} (op ctx : Nat) (s : State)
    (hz : Keeps w td z s) : Keeps w td z (leafRow op ctx s) := by
  unfold leafRow
  repeat' first
    | with_reducible first
      | exact hz | apply runOp_keeps | apply assignLeaf_keeps | apply leafSign_keeps | apply Keeps.ite
      | apply KC.fold
    | split | (with_reducible apply Keeps.upd; dsimp only) | dsimp only | intro

theorem hybridCombine_keeps {w td : Bool} {z : State} (j : Job) (s : State)
    (hz : Keeps w td z s) : Keeps w td z (hybridCombine j s).1 := by
  unfold hybridCombine
  repeat' first
    | with_reducible first
      | exact hz | assumption | apply deriveOut_keeps | apply Keeps.ite
    | split | dsimp only | intro

theorem execMlkemKeygen_keeps {w td : Bool} {t : State} (ctx : Nat) (s : State)
    (hz : execMlkemKeygen ctx s = .next t) : Keeps w td s t := by
  unfold execMlkemKeygen at hz
  injection hz with hz
  subst hz
  repeat' first
    | with_reducible first
      | exact Keeps.refl _ _ _ | apply runOp_keeps | apply mlkemKeygen_keeps
    | dsimp only | intro

theorem execMlkemEncaps_keeps {w td : Bool} {t : State} (ctx : Nat) (s : State)
    (hz : execMlkemEncaps ctx s = .next t) : Keeps w td s t := by
  unfold execMlkemEncaps at hz
  injection hz with hz
  subst hz
  repeat' first
    | with_reducible first
      | exact Keeps.refl _ _ _ | apply runOp_keeps | apply mlkemEncaps_keeps
    | dsimp only | intro

theorem execMlkemDecaps_keeps {w td : Bool} {t : State} (ctx : Nat) (s : State)
    (hz : execMlkemDecaps ctx s = .next t) : Keeps w td s t := by
  unfold execMlkemDecaps at hz
  injection hz with hz
  subst hz
  repeat' first
    | with_reducible first
      | exact Keeps.refl _ _ _ | apply runOp_keeps | apply mlkemDecaps_keeps
    | dsimp only | intro

theorem execMldsaKeygen_keeps {w td : Bool} {t : State} (ctx : Nat) (s : State)
    (hz : execMldsaKeygen ctx s = .next t) : Keeps w td s t := by
  unfold execMldsaKeygen at hz
  injection hz with hz
  subst hz
  repeat' first
    | with_reducible first
      | exact Keeps.refl _ _ _ | apply runOp_keeps | apply mldsaKeygen_keeps
    | dsimp only | intro

theorem execMldsaSign_keeps {w td : Bool} {t : State} (ctx : Nat) (s : State)
    (hz : execMldsaSign ctx s = .next t) : Keeps w td s t := by
  unfold execMldsaSign at hz
  injection hz with hz
  subst hz
  repeat' first
    | with_reducible first
      | exact Keeps.refl _ _ _ | apply runOp_keeps | apply latSign_keeps
    | dsimp only | intro

theorem execMldsaVerify_keeps {w td : Bool} {t : State} (ctx : Nat) (s : State)
    (hz : execMldsaVerify ctx s = .next t) : Keeps w td s t := by
  unfold execMldsaVerify at hz
  injection hz with hz
  subst hz
  repeat' first
    | with_reducible first
      | exact Keeps.refl _ _ _ | assumption | apply runOp_keeps | apply latVerify_keeps
    | dsimp only | intro

theorem execSlhdsaKeygen_keeps {w td : Bool} {t : State} (ctx : Nat) (s : State)
    (hz : execSlhdsaKeygen ctx s = .next t) : Keeps w td s t := by
  unfold execSlhdsaKeygen at hz
  injection hz with hz
  subst hz
  repeat' first
    | with_reducible first
      | exact Keeps.refl _ _ _ | apply runOp_keeps | apply slhdsaKeygen_keeps
    | dsimp only | intro

theorem execSlhdsaSign_keeps {w td : Bool} {t : State} (ctx : Nat) (s : State)
    (hz : execSlhdsaSign ctx s = .next t) : Keeps w td s t := by
  unfold execSlhdsaSign at hz
  injection hz with hz
  subst hz
  repeat' first
    | with_reducible first
      | exact Keeps.refl _ _ _ | apply runOp_keeps | apply latSign_keeps
    | dsimp only | intro

theorem execSlhdsaVerify_keeps {w td : Bool} {t : State} (ctx : Nat) (s : State)
    (hz : execSlhdsaVerify ctx s = .next t) : Keeps w td s t := by
  unfold execSlhdsaVerify at hz
  injection hz with hz
  subst hz
  repeat' first
    | with_reducible first
      | exact Keeps.refl _ _ _ | assumption | apply runOp_keeps | apply latVerify_keeps
    | dsimp only | intro

theorem execLmsBuild_keeps {w td : Bool} {t : State} (ctx : Nat) (s : State)
    (hz : execLmsBuild ctx s = .next t) : Keeps w td s t := by
  unfold execLmsBuild at hz
  injection hz with hz
  subst hz
  repeat' first
    | with_reducible first
      | exact Keeps.refl _ _ _ | apply runOp_keeps | apply buildEntry_keeps
    | dsimp only | intro

theorem execLmsSign_keeps {w td : Bool} {t : State} (ctx : Nat) (s : State)
    (hz : execLmsSign ctx s = .next t) : Keeps w td s t := by
  unfold execLmsSign at hz
  injection hz with hz
  subst hz
  repeat' first
    | with_reducible first
      | exact Keeps.refl _ _ _ | apply leafRow_keeps
    | dsimp only | intro

theorem execLmsVerify_keeps {w td : Bool} {t : State} (ctx : Nat) (s : State)
    (hz : execLmsVerify ctx s = .next t) : Keeps w td s t := by
  unfold execLmsVerify at hz
  injection hz with hz
  subst hz
  repeat' first
    | with_reducible first
      | exact Keeps.refl _ _ _ | assumption | apply runOp_keeps | apply latVerify_keeps
    | dsimp only | intro

theorem execXmssBuild_keeps {w td : Bool} {t : State} (ctx : Nat) (s : State)
    (hz : execXmssBuild ctx s = .next t) : Keeps w td s t := by
  unfold execXmssBuild at hz
  injection hz with hz
  subst hz
  repeat' first
    | with_reducible first
      | exact Keeps.refl _ _ _ | apply runOp_keeps | apply buildEntry_keeps
    | dsimp only | intro

theorem execXmssSign_keeps {w td : Bool} {t : State} (ctx : Nat) (s : State)
    (hz : execXmssSign ctx s = .next t) : Keeps w td s t := by
  unfold execXmssSign at hz
  injection hz with hz
  subst hz
  repeat' first
    | with_reducible first
      | exact Keeps.refl _ _ _ | apply leafRow_keeps
    | dsimp only | intro

theorem execXmssVerify_keeps {w td : Bool} {t : State} (ctx : Nat) (s : State)
    (hz : execXmssVerify ctx s = .next t) : Keeps w td s t := by
  unfold execXmssVerify at hz
  injection hz with hz
  subst hz
  repeat' first
    | with_reducible first
      | exact Keeps.refl _ _ _ | assumption | apply runOp_keeps | apply latVerify_keeps
    | dsimp only | intro

theorem execHybridCombine_keeps {w td : Bool} {t : State} (ctx : Nat) (s : State)
    (hz : execHybridCombine ctx s = .next t) : Keeps w td s t := by
  unfold execHybridCombine at hz
  injection hz with hz
  subst hz
  repeat' first
    | with_reducible first
      | exact Keeps.refl _ _ _ | apply runOp_keeps | apply hybridCombine_keeps
    | dsimp only | intro

end Sys2Proof.Machine
end

