-- ==== Sys2Proof/Laws/KeepsPitch.lean ====
section
/-! SUPPORT. `Keeps` of the operations of Machine/Pitch.lean. -/

namespace Sys2Proof.Machine

/-- PITCH_COUNT is one more, modulo 2^64; the rest stands as `Keeps` says. -/
theorem tick_pitch (s : State) : (tick s).sched.pitch = (s.sched.pitch + 1) % 2 ^ 64 :=
  ((evcAdd_keeps 0x02 1 _ (evcAdd_keeps 0x01 2500 _ (Keeps.refl true false _))).time rfl)

theorem tick_keeps {w : Bool} {z : State} (s : State) (hz : Keeps w true z s) : Keeps w true z (tick s) :=
  evcAdd_keeps 0x02 1 _ (evcAdd_keeps 0x01 2500 _ { hz with time := by simp })

theorem countEach_keeps {w td : Bool} {z : State} (src : Nat) (l : List Nat) (s : State)
    (hz : Keeps w td z s) : Keeps w td z (countEach src l s) := by
  unfold countEach
  repeat' first
    | with_reducible first
      | exact hz | assumption | apply evcAdd_keeps | refine Keeps.foldl (fun _ _ _ => ?_) _ ?_
      | refine Keeps.foldl_fst (fun _ _ _ => ?_) _ ?_ | refine Keeps.foldl_snd (fun _ _ _ => ?_) _ ?_
    | dsimp only | intro

theorem backgroundWork_keeps {w td : Bool} {z : State} (g : Background) (s : State)
    (hz : Keeps w td z s) : Keeps w td z (backgroundWork g s) := by
  unfold backgroundWork
  repeat' first
    | with_reducible first
      | exact hz | apply bump_keeps | apply evcAdd_keeps | apply countCores_keeps | apply countEach_keeps
      | apply KC.fold
    | (with_reducible apply Keeps.upd; dsimp only) | dsimp only | intro

theorem overrun_keeps {w td : Bool} {z : State} (s : State) (u : Nat)
    (hz : Keeps w td z s) : Keeps w td z (overrun s u) := by
  unfold overrun
  repeat' first
    | with_reducible first
      | exact hz | apply evcAdd_keeps | apply setUnit_keeps | apply collect_keeps | apply Keeps.ite | apply KC.fold
    | split | (with_reducible apply Keeps.upd; dsimp only) | dsimp only | intro

theorem incomplete_keeps {td : Bool} {z : State} (b : Nat) (s : State) (u : Nat)
    (hz : Keeps true td z s) : Keeps true td z (incomplete b s u) := by
  unfold incomplete
  repeat' first
    | with_reducible first
      | exact hz | apply unitFault_keeps | apply Keeps.ite | apply KC.fold
    | split | (with_reducible apply Keeps.upd; dsimp only) | dsimp only | intro

theorem headsDue_keeps {td : Bool} {z : State} (s : State)
    (hz : Keeps true td z s) : Keeps true td z (headsDue s) := by
  unfold headsDue
  repeat' first
    | with_reducible first
      | exact hz | assumption | apply advanceHead_keeps | apply Keeps.ite
      | refine Keeps.foldl (fun _ _ _ => ?_) _ ?_ | refine Keeps.foldl_fst (fun _ _ _ => ?_) _ ?_
      | refine Keeps.foldl_snd (fun _ _ _ => ?_) _ ?_
    | split | dsimp only | intro

theorem teardownsDue_keeps {td : Bool} {z : State} (b : Nat) (s : State)
    (hz : Keeps true td z s) : Keeps true td z (teardownsDue b s) := by
  unfold teardownsDue
  repeat' first
    | with_reducible first
      | exact hz | assumption | apply advanceHead_keeps | apply beginTeardown_keeps | apply teardownStep_keeps
      | apply Keeps.ite | refine Keeps.foldl (fun _ _ _ => ?_) _ ?_ | refine Keeps.foldl_fst (fun _ _ _ => ?_) _ ?_
      | refine Keeps.foldl_snd (fun _ _ _ => ?_) _ ?_ | apply KC.fold
    | split | (with_reducible apply Keeps.upd; dsimp only) | dsimp only | intro

theorem sessionsGone_keeps {w td : Bool} {z : State} (s : State)
    (hz : Keeps w td z s) : Keeps w td z (sessionsGone s) := by
  unfold sessionsGone
  repeat' first
    | with_reducible first
      | exact hz | assumption | apply KC.fold
    | (with_reducible apply Keeps.upd; dsimp only) | dsimp only | intro

theorem maintenanceDue_keeps {td : Bool} {z : State} (b : Nat) (s : State)
    (hz : Keeps true td z s) : Keeps true td z (maintenanceDue b s) := by
  unfold maintenanceDue
  repeat' first
    | with_reducible first
      | exact hz | assumption | apply releaseJob_keeps | apply Keeps.ite | apply KC.fold
    | split | (with_reducible apply Keeps.upd; dsimp only) | dsimp only | intro

theorem handoverDue_keeps {w td : Bool} {z : State} (s : State)
    (hz : Keeps w td z s) : Keeps w td z (handoverDue s) := by
  unfold handoverDue
  repeat' first
    | with_reducible first
      | exact hz | assumption | apply pairState_keeps | apply handOut_keeps | apply Keeps.ite | apply KC.fold
    | split | (with_reducible apply Keeps.upd; dsimp only) | dsimp only | intro

theorem grantQueue_keeps {w td : Bool} {z : State} (b : Nat) (s : State) (slot : Nat)
    (hz : Keeps w td z s) : Keeps w td z (grantQueue b s slot) := by
  unfold grantQueue
  repeat' first
    | with_reducible first
      | exact hz | assumption | apply evcAdd_keeps | apply setJob_keeps | apply setQueue_keeps | apply stage_keeps
      | apply Keeps.ite | apply KC.fold
    | split | (with_reducible apply Keeps.upd; dsimp only) | dsimp only | intro

theorem grantRound_keeps {w td : Bool} {z : State} (b : Nat) (s : State)
    (hz : Keeps w td z s) : Keeps w td z (grantRound b s) := by
  unfold grantRound
  repeat' first
    | with_reducible first
      | exact hz | assumption | apply grantQueue_keeps | refine Keeps.foldl (fun _ _ _ => ?_) _ ?_
    | dsimp only | intro

theorem grantForwarded_keeps {w td : Bool} {z : State} (b : Nat) (s : State) (f : Forwarded)
    (hz : Keeps w td z s) : Keeps w td z (grantForwarded b s f) := by
  unfold grantForwarded
  repeat' first
    | with_reducible first
      | exact hz | assumption | apply setJob_keeps | apply endJob_keeps | apply reserveDraw_keeps
      | apply countRefusal_keeps | apply serveSalts_keeps | apply Keeps.ite | apply KC.fold
    | split | (with_reducible apply Keeps.upd; dsimp only) | dsimp only | intro

theorem grantsDue_keeps {w td : Bool} {z : State} (b : Nat) (s : State)
    (hz : Keeps w td z s) : Keeps w td z (grantsDue b s) := by
  unfold grantsDue
  repeat' first
    | with_reducible first
      | exact hz | assumption | apply grantRound_keeps | apply grantForwarded_keeps
      | refine Keeps.foldl (fun _ _ _ => ?_) _ ?_ | apply KC.fold
    | (with_reducible apply Keeps.upd; dsimp only) | dsimp only | intro

theorem startOne_keeps {td : Bool} {z : State} (b : Nat) (s : State) (ctx : Nat)
    (hz : Keeps true td z s) : Keeps true td z (startOne b s ctx) := by
  unfold startOne
  repeat' first
    | with_reducible first
      | exact hz | apply setJob_keeps | apply forwardJob_keeps | apply forwardOrRefuse_keeps | apply sendAway_keeps
      | apply inputAccess_keeps | apply startJob_keeps | apply Keeps.ite | apply KC.fold
    | split | (with_reducible apply Keeps.upd; dsimp only) | dsimp only | intro

theorem startsDue_keeps {td : Bool} {z : State} (b : Nat) (s : State)
    (hz : Keeps true td z s) : Keeps true td z (startsDue b s) := by
  unfold startsDue
  repeat' first
    | with_reducible first
      | exact hz | assumption | apply startOne_keeps | refine Keeps.foldl (fun _ _ _ => ?_) _ ?_
    | dsimp only | intro

theorem randomOne_keeps {w td : Bool} {z : State} (b : Nat) (s : State) (ctx : Nat)
    (hz : Keeps w td z s) : Keeps w td z (randomOne b s ctx) := by
  unfold randomOne
  repeat' first
    | with_reducible first
      | exact hz | apply evcAdd_keeps | apply setJob_keeps | apply Keeps.ite | apply KC.fold
    | split | (with_reducible apply Keeps.upd; dsimp only) | dsimp only | intro

theorem segmentOne_keeps {w td : Bool} {z : State} (b : Nat) (s : State) (u : Nat)
    (hz : Keeps w td z s) : Keeps w td z (segmentOne b s u) := by
  unfold segmentOne
  repeat' first
    | with_reducible first
      | exact hz | apply setUnit_keeps | apply countSegment_keeps | apply Keeps.ite | apply KC.fold
    | split | (with_reducible apply Keeps.upd; dsimp only) | dsimp only | intro

theorem stoppedForward_keeps {w td : Bool} {z : State} (b : Nat) (s : State) (ctx : Nat)
    (hz : Keeps w td z s) : Keeps w td z (stoppedForward b s ctx) := by
  unfold stoppedForward
  repeat' first
    | with_reducible first
      | exact hz | apply sendAway_keeps | apply Keeps.ite | apply KC.fold
    | split | (with_reducible apply Keeps.upd; dsimp only) | dsimp only | intro

theorem sweepFailed_keeps {td : Bool} {z : State} (u step : Nat) (mism : Bool) (s : State)
    (hz : Keeps true td z s) : Keeps true td z (sweepFailed u step mism s) := by
  unfold sweepFailed
  repeat' first
    | with_reducible first
      | exact hz | apply bump_keeps | apply unitFault_keeps | apply mismatchFault_keeps | apply condFault_keeps
      | apply Keeps.ite | apply KC.fold
    | split | (with_reducible apply Keeps.upd; dsimp only) | dsimp only | intro

theorem sweepUnit_keeps {td : Bool} {z : State} (b : Nat) (bad : List (Nat × Bool)) (s : State) (u : Nat)
    (hz : Keeps true td z s) : Keeps true td z (sweepUnit b bad s u) := by
  unfold sweepUnit
  repeat' first
    | with_reducible first
      | exact hz | assumption | apply evcAdd_keeps | apply setUnit_keeps | apply engineAccess_keeps
      | apply sweepFailed_keeps | apply Keeps.ite | apply KC.fold
    | split | (with_reducible apply Keeps.upd; dsimp only) | dsimp only | intro

theorem recalBank_keeps {w td : Bool} {z : State} (b : Nat) (s : State) (bank : Nat)
    (hz : Keeps w td z s) : Keeps w td z (recalBank b s bank) := by
  unfold recalBank
  repeat' first
    | with_reducible first
      | exact hz | assumption | apply bump_keeps | apply setBank_keeps | apply Keeps.ite | apply KC.fold
    | split | (with_reducible apply Keeps.upd; dsimp only) | dsimp only | intro

theorem recalEnds_keeps {w td : Bool} {z : State} (s : State)
    (hz : Keeps w td z s) : Keeps w td z (recalEnds s) := by
  unfold recalEnds
  repeat' first
    | with_reducible first
      | exact hz | assumption | apply Keeps.ite | apply KC.fold
    | split | (with_reducible apply Keeps.upd; dsimp only) | dsimp only | intro

theorem unitless_keeps {w td : Bool} {z : State} (b : Nat) (s : State) (ctx : Nat)
    (hz : Keeps w td z s) : Keeps w td z (unitless b s ctx) := by
  unfold unitless
  repeat' first
    | with_reducible first
      | exact hz | apply leaveAt_keeps | apply Keeps.ite | apply KC.fold
    | split | (with_reducible apply Keeps.upd; dsimp only) | dsimp only | intro

theorem releasesDue_keeps {td : Bool} {z : State} (b : Nat) (s : State)
    (hz : Keeps true td z s) : Keeps true td z (releasesDue b s) := by
  unfold releasesDue
  repeat' first
    | with_reducible first
      | exact hz | assumption | apply releaseAll_keeps | apply overrun_keeps | apply incomplete_keeps
      | apply headsDue_keeps | apply teardownsDue_keeps | apply sessionsGone_keeps | apply maintenanceDue_keeps
      | apply handoverDue_keeps | apply unitless_keeps | refine Keeps.foldl (fun _ _ _ => ?_) _ ?_
    | dsimp only | intro

theorem holderDue_keeps {w td : Bool} {z : State} (s : State)
    (hz : Keeps w td z s) : Keeps w td z (holderDue s) := by
  unfold holderDue
  repeat' first
    | with_reducible first
      | exact hz | apply mirror_keeps | apply Keeps.ite | apply KC.fold
    | split | (with_reducible apply Keeps.upd; dsimp only) | dsimp only | intro

theorem catchUpDue_keeps {w td : Bool} {z : State} (s : State)
    (hz : Keeps w td z s) : Keeps w td z (catchUpDue s) := by
  unfold catchUpDue
  repeat' first
    | with_reducible first
      | exact hz | assumption | apply updateObj_keeps | apply Keeps.ite | refine Keeps.foldl (fun _ _ _ => ?_) _ ?_
      | apply KC.fold
    | split | (with_reducible apply Keeps.upd; dsimp only) | dsimp only | intro

theorem changesDue_keeps {td : Bool} {z : State} (b : Nat) (s : State)
    (hz : Keeps true td z s) : Keeps true td z (changesDue b s) := by
  unfold changesDue
  repeat' first
    | with_reducible first
      | exact hz | apply katBoundary_keeps | apply commitsDue_keeps | apply enablesDue_keeps
      | apply domainsDue_keeps | apply holderDue_keeps | apply catchUpDue_keeps
    | dsimp only | intro

theorem backgroundSlot_keeps {w td : Bool} {z : State} (b : Nat) (s : State) (ke : Nat)
    (hz : Keeps w td z s) : Keeps w td z (backgroundSlot b s ke) := by
  unfold backgroundSlot
  repeat' first
    | with_reducible first
      | exact hz | apply setUnit_keeps | apply compactOne_keeps | apply Keeps.ite | apply KC.fold
    | split | (with_reducible apply Keeps.upd; dsimp only) | dsimp only | intro

theorem workDue_keeps {td : Bool} {z : State} (b : Nat) (ev : BoundaryEv) (s : State)
    (hz : Keeps true td z s) : Keeps true td z (workDue b ev s) := by
  unfold workDue
  repeat' first
    | with_reducible first
      | exact hz | assumption | apply grantsDue_keeps | apply startsDue_keeps | apply randomOne_keeps
      | apply segmentOne_keeps | apply stoppedForward_keeps | apply sweepUnit_keeps | apply recalBank_keeps
      | apply recalEnds_keeps | apply backgroundSlot_keeps | refine Keeps.foldl (fun _ _ _ => ?_) _ ?_
    | dsimp only | intro

theorem readOne_keeps {w td : Bool} {z : State} (b : Nat) (s : State) (ctx : Nat)
    (hz : Keeps w td z s) : Keeps w td z (readOne b s ctx) := by
  unfold readOne
  repeat' first
    | with_reducible first
      | exact hz | assumption | apply setJob_keeps | apply inputAccess_keeps | apply Keeps.ite | apply KC.fold
    | split | (with_reducible apply Keeps.upd; dsimp only) | dsimp only | intro

theorem readsDue_keeps {w td : Bool} {z : State} (b : Nat) (s : State)
    (hz : Keeps w td z s) : Keeps w td z (readsDue b s) := by
  unfold readsDue
  repeat' first
    | with_reducible first
      | exact hz | assumption | apply readOne_keeps | refine Keeps.foldl (fun _ _ _ => ?_) _ ?_
    | dsimp only | intro

theorem quietBoundary_keeps {w td : Bool} {z : State} (b : Nat) (ev : BoundaryEv) (s : State)
    (hz : Keeps w td z s) : Keeps w td z (quietBoundary b ev s) := by
  unfold quietBoundary
  repeat' first
    | with_reducible first
      | exact hz | assumption | apply katBoundary_keeps | apply enablesDue_keeps | apply domainsDue_keeps
      | apply recalBank_keeps | apply recalEnds_keeps | refine Keeps.foldl (fun _ _ _ => ?_) _ ?_
    | dsimp only | intro

theorem execPitchBoundary_keeps {t : State} (ev : BoundaryEv) (s : State)
    (hz : execPitchBoundary ev s = .next t) : Keeps true true s t := by
  unfold execPitchBoundary at hz
  injection hz with hz
  subst hz
  repeat' first
    | with_reducible first
      | exact Keeps.refl _ _ _ | apply drainRope_keeps | apply flushRecords_keeps | apply tick_keeps
      | apply backgroundWork_keeps | apply releasesDue_keeps | apply changesDue_keeps | apply workDue_keeps
      | apply readsDue_keeps | apply quietBoundary_keeps | apply Keeps.ite
    | split | dsimp only | intro

theorem execContextWaitLimit_keeps {w td : Bool} {t : State} (slot : Nat) (s : State)
    (hz : execContextWaitLimit slot s = .next t) : Keeps w td s t := by
  unfold execContextWaitLimit at hz
  injection hz with hz
  subst hz
  repeat' first
    | with_reducible first
      | exact Keeps.refl _ _ _ | apply refuseJob_keeps | apply refuseNoContext_keeps | apply Keeps.ite
      | apply KC.fold
    | split | (with_reducible apply Keeps.upd; dsimp only) | dsimp only | intro

theorem execEntryFetch_keeps {w td : Bool} {t : State} (slot : Nat) (s : State)
    (hz : execEntryFetch slot s = .next t) : Keeps w td s t := by
  unfold execEntryFetch at hz
  injection hz with hz
  subst hz
  repeat' first
    | with_reducible first
      | exact Keeps.refl _ _ _ | apply fetchStep_keeps | apply Keeps.ite
    | split | dsimp only | intro

theorem finishWork_keeps {td : Bool} {z : State} (u ctx : Nat) (j : Job) (m : UnitMem) (s : State)
    (hz : Keeps true td z s) : Keeps true td z (finishWork u ctx j m s) := by
  unfold finishWork
  repeat' first
    | with_reducible first
      | exact hz | apply setUnit_keeps | apply setJob_keeps | apply outputAccess_keeps | apply overrun_keeps
      | apply Keeps.ite | apply KC.wrote | apply KC.cleared | apply KC.filtered | apply KC.fold
    | split | (with_reducible apply Keeps.upd; dsimp only) | dsimp only | intro

theorem segmentOk_keeps {td : Bool} {z : State} (u : Nat) (last : Bool) (ctx : Nat) (j : Job) (s : State)
    (hz : Keeps true td z s) : Keeps true td z (segmentOk u last ctx j s) := by
  unfold segmentOk
  repeat' first
    | with_reducible first
      | exact hz | apply setUnit_keeps | apply overrun_keeps | apply finishWork_keeps | apply Keeps.ite
      | apply KC.fold
    | split | (with_reducible apply Keeps.upd; dsimp only) | dsimp only | intro

theorem laneSegment_keeps {td : Bool} {z : State} (u n : Nat) (flips : List Byte) (ctx : Nat) (j : Job) (s : State)
    (hz : Keeps true td z s) : Keeps true td z (laneSegment u n flips ctx j s) := by
  unfold laneSegment
  repeat' first
    | with_reducible first
      | exact hz | apply setUnit_keeps | apply mismatchFault_keeps | apply overrun_keeps | apply finishWork_keeps
      | apply Keeps.ite | apply KC.wrote | apply KC.cleared | apply KC.filtered | apply KC.fold
    | split | (with_reducible apply Keeps.upd; dsimp only) | dsimp only | intro

theorem idleLane_keeps {td : Bool} {z : State} (u : Nat) (flips : List Byte) (s : State)
    (hz : Keeps true td z s) : Keeps true td z (idleLane u flips s) := by
  unfold idleLane
  repeat' first
    | with_reducible first
      | exact hz | assumption | apply mismatchFault_keeps | apply Keeps.ite
    | split | dsimp only | intro

theorem budgetFault_keeps {td : Bool} {z : State} (u notBefore : Nat) (s : State)
    (hz : Keeps true td z s) : Keeps true td z (budgetFault u notBefore s) := by
  unfold budgetFault
  repeat' first
    | with_reducible first
      | exact hz | apply bump_keeps | apply unitFault_keeps | apply KC.fold
    | (with_reducible apply Keeps.upd; dsimp only) | dsimp only | intro

theorem attemptsRejected_keeps {td : Bool} {z : State} (u n : Nat) (j : Job) (s : State)
    (hz : Keeps true td z s) : Keeps true td z (attemptsRejected u n j s) := by
  unfold attemptsRejected
  repeat' first
    | with_reducible first
      | exact hz | apply bump_keeps | apply evcAdd_keeps | apply setUnit_keeps | apply overrun_keeps
      | apply budgetFault_keeps | apply Keeps.ite | apply KC.wrote | apply KC.cleared | apply KC.filtered
      | apply KC.fold
    | split | (with_reducible apply Keeps.upd; dsimp only) | dsimp only | intro

theorem segmentRejected_keeps {td : Bool} {z : State} (u n ctx : Nat) (j : Job) (s : State)
    (hz : Keeps true td z s) : Keeps true td z (segmentRejected u n ctx j s) := by
  unfold segmentRejected
  repeat' first
    | with_reducible first
      | exact hz | apply bump_keeps | apply setUnit_keeps | apply setJob_keeps | apply reserveDraw_keeps
      | apply overrun_keeps | apply attemptsRejected_keeps | apply Keeps.ite | apply KC.fold
    | split | (with_reducible apply Keeps.upd; dsimp only) | dsimp only | intro

theorem segmentEnd_keeps {td : Bool} {z : State} (u : Nat) (v : SegVerdict) (s : State)
    (hz : Keeps true td z s) : Keeps true td z (segmentEnd u v s) := by
  unfold segmentEnd
  repeat' first
    | with_reducible first
      | exact hz | apply bump_keeps | apply unitFault_keeps | apply mismatchFault_keeps
      | apply selfCheckFault_keeps | apply segmentOk_keeps | apply laneSegment_keeps | apply idleLane_keeps
      | apply budgetFault_keeps | apply segmentRejected_keeps | apply Keeps.ite | apply KC.fold
    | split | (with_reducible apply Keeps.upd; dsimp only) | dsimp only | intro

theorem execSegmentEnd_keeps {td : Bool} {t : State} (unit : Nat) (v : SegVerdict) (s : State)
    (hz : execSegmentEnd unit v s = .next t) : Keeps true td s t := by
  unfold execSegmentEnd at hz
  injection hz with hz
  subst hz
  repeat' first
    | with_reducible first
      | exact Keeps.refl _ _ _ | apply segmentEnd_keeps
    | dsimp only | intro

theorem execJobWorkComplete_keeps {td : Bool} {t : State} (ctx : Nat) (s : State)
    (hz : execJobWorkComplete ctx s = .next t) : Keeps true td s t := by
  unfold execJobWorkComplete at hz
  injection hz with hz
  subst hz
  repeat' first
    | with_reducible first
      | exact Keeps.refl _ _ _ | apply setJob_keeps | apply finishWork_keeps | apply Keeps.ite | apply KC.fold
    | split | (with_reducible apply Keeps.upd; dsimp only) | dsimp only | intro

theorem loadKeys_keeps {w td : Bool} {z : State} (ctx : Nat) (j : Job) (s : State)
    (hz : Keeps w td z s) : Keeps w td z (loadKeys ctx j s) := by
  unfold loadKeys
  repeat' first
    | with_reducible first
      | exact hz | assumption | apply bump_keeps | apply evcAdd_keeps | apply setJob_keeps | apply refuseJob_keeps
      | apply touchHot_keeps | apply coldMiss_keeps | apply Keeps.ite | refine Keeps.foldl (fun _ _ _ => ?_) _ ?_
      | apply KC.fold
    | split | (with_reducible apply Keeps.upd; dsimp only) | dsimp only | intro

theorem loseRecord_keeps {w td : Bool} {z : State} (slot ke : Nat) (s : State)
    (hz : Keeps w td z s) : Keeps w td z (loseRecord slot ke s) := by
  unfold loseRecord
  repeat' first
    | with_reducible first
      | exact hz | apply mirror_keeps | apply collect_keeps | apply lostRecord_keeps | apply Keeps.ite
      | apply KC.fold
    | split | (with_reducible apply Keeps.upd; dsimp only) | dsimp only | intro

theorem keyReads_keeps {w td : Bool} {z : State} (ctx : Nat) (cold : Option Nat) (s : State)
    (hz : Keeps w td z s) : Keeps w td z (keyReads ctx cold s).2 := by
  unfold keyReads
  repeat' first
    | with_reducible first
      | exact hz | assumption | apply engineAccess_keeps | apply engineBursts_keeps | apply Keeps.ite
      | apply KC.fold
    | split | (with_reducible apply Keeps.upd; dsimp only) | dsimp only | intro

theorem keyLoad_keeps {td : Bool} {z : State} (ctx ke : Nat) (v : KeyVerdict) (s : State)
    (hz : Keeps true td z s) : Keeps true td z (keyLoad ctx ke v s) := by
  unfold keyLoad
  repeat' first
    | with_reducible first
      | exact hz | assumption | apply setUnit_keeps | apply f3Fault_keeps | apply mismatchFault_keeps
      | apply lostRecord_keeps | apply loadKeys_keeps | apply loseRecord_keeps | apply keyReads_keeps
      | apply Keeps.ite | apply KC.fold
    | split | (with_reducible apply Keeps.upd; dsimp only) | dsimp only | intro

theorem execKeyLoad_keeps {td : Bool} {t : State} (ctx ke : Nat) (v : KeyVerdict) (s : State)
    (hz : execKeyLoad ctx ke v s = .next t) : Keeps true td s t := by
  unfold execKeyLoad at hz
  injection hz with hz
  subst hz
  repeat' first
    | with_reducible first
      | exact Keeps.refl _ _ _ | apply keyLoad_keeps
    | dsimp only | intro

theorem execColdRecordRefetched_keeps {w td : Bool} {t : State} (slot : Nat) (obj : KeyObj) (s : State)
    (hz : execColdRecordRefetched slot obj s = .next t) : Keeps w td s t := by
  unfold execColdRecordRefetched at hz
  injection hz with hz
  subst hz
  repeat' first
    | with_reducible first
      | exact Keeps.refl _ _ _ | apply refetched_keeps | apply Keeps.ite | apply KC.fold
    | split | (with_reducible apply Keeps.upd; dsimp only) | dsimp only | intro

theorem jobReadError_keeps {w td : Bool} {z : State} (ctx : Nat) (s : State)
    (hz : Keeps w td z s) : Keeps w td z (jobReadError ctx s) := by
  unfold jobReadError
  repeat' first
    | with_reducible first
      | exact hz | apply evcAdd_keeps | apply freeUnits_keeps | apply setJob_keeps | apply burnLeaf_keeps
      | apply forwardOrRefuse_keeps | apply unmake_keeps | apply reserveDraw_keeps | apply Keeps.ite
      | apply KC.fold
    | split | (with_reducible apply Keeps.upd; dsimp only) | dsimp only | intro

theorem hbmError_keeps {td : Bool} {z : State} (addr : Nat) (what : HbmWhat) (s : State)
    (hz : Keeps true td z s) : Keeps true td z (hbmError addr what s) := by
  unfold hbmError
  repeat' first
    | with_reducible first
      | exact hz | apply bump_keeps | apply evcAdd_keeps | apply collect_keeps | apply f3Fault_keeps
      | apply loseRecord_keeps | apply jobReadError_keeps | apply Keeps.ite | apply KC.fold
    | split | (with_reducible apply Keeps.upd; dsimp only) | dsimp only | intro

theorem execHbmUncorrectableError_keeps {td : Bool} {t : State} (addr : Nat) (what : HbmWhat) (s : State)
    (hz : execHbmUncorrectableError addr what s = .next t) : Keeps true td s t := by
  unfold execHbmUncorrectableError at hz
  injection hz with hz
  subst hz
  repeat' first
    | with_reducible first
      | exact Keeps.refl _ _ _ | apply hbmError_keeps | apply Keeps.ite
    | split | dsimp only | intro

theorem execHbmCorrectedError_keeps {w td : Bool} {t : State} (quarter : Nat) (s : State)
    (hz : execHbmCorrectedError quarter s = .next t) : Keeps w td s t := by
  unfold execHbmCorrectedError at hz
  injection hz with hz
  subst hz
  repeat' first
    | with_reducible first
      | exact Keeps.refl _ _ _ | apply bump_keeps | apply evcAdd_keeps | apply collect_keeps | apply Keeps.ite
    | split | dsimp only | intro

theorem execSweepReservation_keeps {w td : Bool} {t : State} (unit : Nat) (s : State)
    (hz : execSweepReservation unit s = .next t) : Keeps w td s t := by
  unfold execSweepReservation at hz
  injection hz with hz
  subst hz
  repeat' first
    | with_reducible first
      | exact Keeps.refl _ _ _ | apply evcAdd_keeps | apply setUnit_keeps | apply Keeps.ite | apply KC.fold
    | split | (with_reducible apply Keeps.upd; dsimp only) | dsimp only | intro

theorem execStreamTimeout_keeps {w td : Bool} {t : State} (slot sid : Nat) (s : State)
    (hz : execStreamTimeout slot sid s = .next t) : Keeps w td s t := by
  unfold execStreamTimeout at hz
  injection hz with hz
  subst hz
  repeat' first
    | with_reducible first
      | exact Keeps.refl _ _ _ | assumption | apply endStreamId_keeps | apply Keeps.ite | apply KC.fold
    | split | (with_reducible apply Keeps.upd; dsimp only) | dsimp only | intro

end Sys2Proof.Machine
end

