-- ==== Sys2Proof/Laws/KeepsPke.lean ====
section
/-! SUPPORT. `Keeps` of the operations of Machine/Pke.lean. -/

namespace Sys2Proof.Machine

theorem rsaSign_keeps {w td : Bool} {z : State} (j : Job) (s : State)
    (hz : Keeps w td z s) : Keeps w td z (rsaSign j s).1 := by
  unfold rsaSign
  repeat' first
    | with_reducible first
      | exact hz | apply Keeps.ite
    | split | dsimp only | intro

theorem rsaVerify_keeps {w td : Bool} {z : State} (j : Job) (s : State)
    (hz : Keeps w td z s) : Keeps w td z (rsaVerify j s).1 := by
  unfold rsaVerify
  repeat' first
    | with_reducible first
      | exact hz | apply fail_keeps | apply Keeps.ite
    | split | dsimp only | intro

theorem oaepEncrypt_keeps {w td : Bool} {z : State} (j : Job) (s : State)
    (hz : Keeps w td z s) : Keeps w td z (oaepEncrypt j s).1 := by
  unfold oaepEncrypt
  repeat' first
    | with_reducible first
      | exact hz | apply Keeps.ite
    | split | dsimp only | intro

theorem oaepDecrypt_keeps {w td : Bool} {z : State} (j : Job) (s : State)
    (hz : Keeps w td z s) : Keeps w td z (oaepDecrypt j s).1 := by
  unfold oaepDecrypt
  repeat' first
    | with_reducible first
      | exact hz | apply Keeps.ite
    | split | dsimp only | intro

theorem rsaKeygen_keeps {w td : Bool} {z : State} (j : Job) (s : State)
    (hz : Keeps w td z s) : Keeps w td z (rsaKeygen j s).1 := by
  unfold rsaKeygen
  repeat' first
    | with_reducible first
      | exact hz | assumption | apply makeKeys_keeps
    | dsimp only | intro

theorem ecdsaSign_keeps {w td : Bool} {z : State} (j : Job) (s : State)
    (hz : Keeps w td z s) : Keeps w td z (ecdsaSign j s).1 := by
  unfold ecdsaSign
  repeat' first
    | with_reducible first
      | exact hz
    | dsimp only | intro

theorem ecdsaVerify_keeps {w td : Bool} {z : State} (j : Job) (s : State)
    (hz : Keeps w td z s) : Keeps w td z (ecdsaVerify j s).1 := by
  unfold ecdsaVerify
  repeat' first
    | with_reducible first
      | exact hz | apply fail_keeps | apply Keeps.ite
    | split | dsimp only | intro

theorem eddsaSign_keeps {w td : Bool} {z : State} (j : Job) (s : State)
    (hz : Keeps w td z s) : Keeps w td z (eddsaSign j s).1 := by
  unfold eddsaSign
  repeat' first
    | with_reducible first
      | exact hz | apply Keeps.ite
    | split | dsimp only | intro

theorem eddsaVerify_keeps {w td : Bool} {z : State} (j : Job) (s : State)
    (hz : Keeps w td z s) : Keeps w td z (eddsaVerify j s).1 := by
  unfold eddsaVerify
  repeat' first
    | with_reducible first
      | exact hz | apply fail_keeps | apply Keeps.ite
    | split | dsimp only | intro

theorem ecdhJob_keeps {w td : Bool} {z : State} (j : Job) (s : State)
    (hz : Keeps w td z s) : Keeps w td z (ecdhJob j s).1 := by
  unfold ecdhJob
  repeat' first
    | with_reducible first
      | exact hz | apply fail_keeps | apply deriveOut_keeps | apply Keeps.ite
    | split | dsimp only | intro

theorem xdhJob_keeps {w td : Bool} {z : State} (j : Job) (s : State)
    (hz : Keeps w td z s) : Keeps w td z (xdhJob j s).1 := by
  unfold xdhJob
  repeat' first
    | with_reducible first
      | exact hz | apply fail_keeps | apply deriveOut_keeps | apply Keeps.ite
    | split | dsimp only | intro

theorem ecKeygen_keeps {w td : Bool} {z : State} (j : Job) (s : State)
    (hz : Keeps w td z s) : Keeps w td z (ecKeygen j s).1 := by
  unfold ecKeygen
  repeat' first
    | with_reducible first
      | exact hz | apply makeKeys_keeps
    | dsimp only | intro

theorem execRsaSignPkcs1_keeps {w td : Bool} {t : State} (ctx : Nat) (s : State)
    (hz : execRsaSignPkcs1 ctx s = .next t) : Keeps w td s t := by
  unfold execRsaSignPkcs1 at hz
  injection hz with hz
  subst hz
  repeat' first
    | with_reducible first
      | exact Keeps.refl _ _ _ | apply runOp_keeps | apply rsaSign_keeps
    | dsimp only | intro

theorem execRsaVerifyPkcs1_keeps {w td : Bool} {t : State} (ctx : Nat) (s : State)
    (hz : execRsaVerifyPkcs1 ctx s = .next t) : Keeps w td s t := by
  unfold execRsaVerifyPkcs1 at hz
  injection hz with hz
  subst hz
  repeat' first
    | with_reducible first
      | exact Keeps.refl _ _ _ | apply runOp_keeps | apply rsaVerify_keeps
    | dsimp only | intro

theorem execRsaSignPss_keeps {w td : Bool} {t : State} (ctx : Nat) (s : State)
    (hz : execRsaSignPss ctx s = .next t) : Keeps w td s t := by
  unfold execRsaSignPss at hz
  injection hz with hz
  subst hz
  repeat' first
    | with_reducible first
      | exact Keeps.refl _ _ _ | apply runOp_keeps | apply rsaSign_keeps
    | dsimp only | intro

theorem execRsaVerifyPss_keeps {w td : Bool} {t : State} (ctx : Nat) (s : State)
    (hz : execRsaVerifyPss ctx s = .next t) : Keeps w td s t := by
  unfold execRsaVerifyPss at hz
  injection hz with hz
  subst hz
  repeat' first
    | with_reducible first
      | exact Keeps.refl _ _ _ | apply runOp_keeps | apply rsaVerify_keeps
    | dsimp only | intro

theorem execRsaEncryptOaep_keeps {w td : Bool} {t : State} (ctx : Nat) (s : State)
    (hz : execRsaEncryptOaep ctx s = .next t) : Keeps w td s t := by
  unfold execRsaEncryptOaep at hz
  injection hz with hz
  subst hz
  repeat' first
    | with_reducible first
      | exact Keeps.refl _ _ _ | apply runOp_keeps | apply oaepEncrypt_keeps
    | dsimp only | intro

theorem execRsaDecryptOaep_keeps {w td : Bool} {t : State} (ctx : Nat) (s : State)
    (hz : execRsaDecryptOaep ctx s = .next t) : Keeps w td s t := by
  unfold execRsaDecryptOaep at hz
  injection hz with hz
  subst hz
  repeat' first
    | with_reducible first
      | exact Keeps.refl _ _ _ | apply runOp_keeps | apply oaepDecrypt_keeps
    | dsimp only | intro

theorem execRsaKeygen_keeps {td : Bool} {t : State} (ctx : Nat) (s : State)
    (hz : execRsaKeygen ctx s = .next t) : Keeps true td s t := by
  unfold execRsaKeygen at hz
  injection hz with hz
  subst hz
  repeat' first
    | with_reducible first
      | exact Keeps.refl _ _ _ | apply runOp_keeps | apply segmentRejected_keeps | apply rsaKeygen_keeps
      | apply Keeps.ite | apply KC.fold
    | split | (with_reducible apply Keeps.upd; dsimp only) | dsimp only | intro

theorem execEcdsaSign_keeps {w td : Bool} {t : State} (ctx : Nat) (s : State)
    (hz : execEcdsaSign ctx s = .next t) : Keeps w td s t := by
  unfold execEcdsaSign at hz
  injection hz with hz
  subst hz
  repeat' first
    | with_reducible first
      | exact Keeps.refl _ _ _ | apply runOp_keeps | apply ecdsaSign_keeps
    | dsimp only | intro

theorem execEcdsaVerify_keeps {w td : Bool} {t : State} (ctx : Nat) (s : State)
    (hz : execEcdsaVerify ctx s = .next t) : Keeps w td s t := by
  unfold execEcdsaVerify at hz
  injection hz with hz
  subst hz
  repeat' first
    | with_reducible first
      | exact Keeps.refl _ _ _ | apply runOp_keeps | apply ecdsaVerify_keeps
    | dsimp only | intro

theorem execEddsaSign_keeps {w td : Bool} {t : State} (ctx : Nat) (s : State)
    (hz : execEddsaSign ctx s = .next t) : Keeps w td s t := by
  unfold execEddsaSign at hz
  injection hz with hz
  subst hz
  repeat' first
    | with_reducible first
      | exact Keeps.refl _ _ _ | apply runOp_keeps | apply eddsaSign_keeps
    | dsimp only | intro

theorem execEddsaVerify_keeps {w td : Bool} {t : State} (ctx : Nat) (s : State)
    (hz : execEddsaVerify ctx s = .next t) : Keeps w td s t := by
  unfold execEddsaVerify at hz
  injection hz with hz
  subst hz
  repeat' first
    | with_reducible first
      | exact Keeps.refl _ _ _ | apply runOp_keeps | apply eddsaVerify_keeps
    | dsimp only | intro

theorem execEcdh_keeps {w td : Bool} {t : State} (ctx : Nat) (s : State)
    (hz : execEcdh ctx s = .next t) : Keeps w td s t := by
  unfold execEcdh at hz
  injection hz with hz
  subst hz
  repeat' first
    | with_reducible first
      | exact Keeps.refl _ _ _ | apply runOp_keeps | apply ecdhJob_keeps
    | dsimp only | intro

theorem execXdh_keeps {w td : Bool} {t : State} (ctx : Nat) (s : State)
    (hz : execXdh ctx s = .next t) : Keeps w td s t := by
  unfold execXdh at hz
  injection hz with hz
  subst hz
  repeat' first
    | with_reducible first
      | exact Keeps.refl _ _ _ | apply runOp_keeps | apply xdhJob_keeps
    | dsimp only | intro

theorem execEcKeygen_keeps {w td : Bool} {t : State} (ctx : Nat) (s : State)
    (hz : execEcKeygen ctx s = .next t) : Keeps w td s t := by
  unfold execEcKeygen at hz
  injection hz with hz
  subst hz
  repeat' first
    | with_reducible first
      | exact Keeps.refl _ _ _ | apply runOp_keeps | apply ecKeygen_keeps
    | dsimp only | intro

end Sys2Proof.Machine
end

