-- ==== Sys2Proof/Laws/KeepsTelemetry.lean ====
section
/-! SUPPORT. `Keeps` of the operations of Machine/Telemetry.lean. -/

namespace Sys2Proof.Machine

theorem smbusError_keeps {w td : Bool} {z : State} (s : State)
    (hz : Keeps w td z s) : Keeps w td z (smbusError s) := by
  unfold smbusError
  repeat' first
    | with_reducible first
      | exact hz | apply KC.fold
    | (with_reducible apply Keeps.upd; dsimp only) | dsimp only | intro

theorem smbusAnswer_keeps {w td : Bool} {z : State} (x : SmbXfer) (cmd : Nat) (head bytes : List Byte) (s : State)
    (hz : Keeps w td z s) : Keeps w td z (smbusAnswer x cmd head bytes s) := by
  unfold smbusAnswer
  repeat' first
    | with_reducible first
      | exact hz | apply emit_keeps | apply smbusError_keeps | apply Keeps.ite | apply KC.fold
    | split | (with_reducible apply Keeps.upd; dsimp only) | dsimp only | intro

theorem execSmbusReadId_keeps {w td : Bool} {t : State} (x : SmbXfer) (s : State)
    (hz : execSmbusReadId x s = .next t) : Keeps w td s t := by
  unfold execSmbusReadId at hz
  injection hz with hz
  subst hz
  repeat' first
    | with_reducible first
      | exact Keeps.refl _ _ _ | apply smbusAnswer_keeps
    | dsimp only | intro

theorem execSmbusReadMode_keeps {w td : Bool} {t : State} (x : SmbXfer) (s : State)
    (hz : execSmbusReadMode x s = .next t) : Keeps w td s t := by
  unfold execSmbusReadMode at hz
  injection hz with hz
  subst hz
  repeat' first
    | with_reducible first
      | exact Keeps.refl _ _ _ | apply smbusAnswer_keeps
    | dsimp only | intro

theorem execSmbusReadLifecycle_keeps {w td : Bool} {t : State} (x : SmbXfer) (s : State)
    (hz : execSmbusReadLifecycle x s = .next t) : Keeps w td s t := by
  unfold execSmbusReadLifecycle at hz
  injection hz with hz
  subst hz
  repeat' first
    | with_reducible first
      | exact Keeps.refl _ _ _ | apply smbusAnswer_keeps
    | dsimp only | intro

theorem execSmbusReadNvm_keeps {w td : Bool} {t : State} (x : SmbXfer) (s : State)
    (hz : execSmbusReadNvm x s = .next t) : Keeps w td s t := by
  unfold execSmbusReadNvm at hz
  injection hz with hz
  subst hz
  repeat' first
    | with_reducible first
      | exact Keeps.refl _ _ _ | apply smbusAnswer_keeps
    | dsimp only | intro

theorem execSmbusReadTemperature_keeps {w td : Bool} {t : State} (n : Nat) (x : SmbXfer) (s : State)
    (hz : execSmbusReadTemperature n x s = .next t) : Keeps w td s t := by
  unfold execSmbusReadTemperature at hz
  injection hz with hz
  subst hz
  repeat' first
    | with_reducible first
      | exact Keeps.refl _ _ _ | apply smbusAnswer_keeps
    | dsimp only | intro

theorem execSmbusReadVoltage_keeps {w td : Bool} {t : State} (n : Nat) (x : SmbXfer) (s : State)
    (hz : execSmbusReadVoltage n x s = .next t) : Keeps w td s t := by
  unfold execSmbusReadVoltage at hz
  injection hz with hz
  subst hz
  repeat' first
    | with_reducible first
      | exact Keeps.refl _ _ _ | apply smbusAnswer_keeps
    | dsimp only | intro

theorem execSmbusReadFaultSummary_keeps {w td : Bool} {t : State} (x : SmbXfer) (s : State)
    (hz : execSmbusReadFaultSummary x s = .next t) : Keeps w td s t := by
  unfold execSmbusReadFaultSummary at hz
  injection hz with hz
  subst hz
  repeat' first
    | with_reducible first
      | exact Keeps.refl _ _ _ | apply smbusAnswer_keeps
    | dsimp only | intro

theorem execSmbusUnsupportedCommand_keeps {w td : Bool} {t : State} (x : SmbXfer) (s : State)
    (hz : execSmbusUnsupportedCommand x s = .next t) : Keeps w td s t := by
  unfold execSmbusUnsupportedCommand at hz
  injection hz with hz
  subst hz
  repeat' first
    | with_reducible first
      | exact Keeps.refl _ _ _ | apply emit_keeps | apply smbusError_keeps | apply Keeps.ite
    | split | dsimp only | intro

theorem execTelemetryRefresh_keeps {w td : Bool} {t : State} (temps volts : List Nat) (s : State)
    (hz : execTelemetryRefresh temps volts s = .next t) : Keeps w td s t := by
  unfold execTelemetryRefresh at hz
  injection hz with hz
  subst hz
  repeat' first
    | with_reducible first
      | exact Keeps.refl _ _ _ | apply Keeps.ite | apply KC.fold
    | split | (with_reducible apply Keeps.upd; dsimp only) | dsimp only | intro

end Sys2Proof.Machine
end

