-- ==== Sys2Proof/Tests/Slice0.lean ====
section
/-! SUPPORT. Tests of the model: ill-formed terms that the check refuses, a state for every set of hypotheses of
the statements, and a few single steps. -/

namespace Sys2Proof.Tests

open Sys2Proof Sys2Proof.Machine

-- One theorem after another: the tests in parallel would ask for more threads than the memory limit admits.
set_option Elab.async false

/-! ### Well-formed and ill-formed terms -/

theorem test_wf_contexts : (Instr.hash 4095).wf = true ∧ (Instr.hash 4096).wf = false
    ∧ (Instr.jobWorkComplete 4096).wf = false ∧ (Instr.tenantFunctionTimeout 4096).wf = false := by decide

theorem test_wf_queue_slots : (Instr.entryFetch 1535).wf = true ∧ (Instr.entryFetch 1536).wf = false
    ∧ (Instr.streamTimeout 1536 0).wf = false ∧ (Instr.qmIpidx none 1536 0).wf = false := by decide

theorem test_wf_units : (Instr.unitDrainEnd 111).wf = true ∧ (Instr.unitDrainEnd 112).wf = false
    ∧ (Instr.segmentEnd 112 (.ok true)).wf = false ∧ (Instr.sweepReservation 112).wf = false := by decide

theorem test_wf_key_load : (Instr.keyLoad 4095 7 .ok).wf = true ∧ (Instr.keyLoad 4095 8 .ok).wf = false
    ∧ (Instr.keyLoad 4096 7 .ok).wf = false := by decide

theorem test_wf_host_ports : (Instr.linkUp 3 1).wf = true ∧ (Instr.linkUp 4 1).wf = false ∧ (Instr.lldpTimer 4).wf = false
    ∧ (Instr.pfcPauseExpiry 3 7).wf = true ∧ (Instr.pfcPauseExpiry 3 8).wf = false ∧ (Instr.pfcPauseExpiry 4 7).wf = false := by decide

theorem test_wf_vault_slots : (Instr.replicateRetry 0 0xFFFFFF).wf = true ∧ (Instr.replicateRetry 0 0x1000000).wf = false
    ∧ (Instr.replAck {} 0x1000000 1).wf = false := by decide

theorem test_wf_sessions : (Instr.close 511).wf = true ∧ (Instr.close 512).wf = false ∧ (Instr.idlePing 512).wf = false := by decide

theorem test_wf_proposals_and_pke : (Instr.tokenExpiry 63).wf = true ∧ (Instr.tokenExpiry 64).wf = false
    ∧ (Instr.pkeCoreEnable 63).wf = true ∧ (Instr.pkeCoreEnable 64).wf = false := by decide

theorem test_wf_csr_offsets : (Instr.registerWrite 0x1FFFFF .whole 0).wf = true
    ∧ (Instr.registerWrite 0x200000 .whole 0).wf = false ∧ (Instr.stagedRegisterWrite 0x200000 0).wf = false := by decide

theorem test_wf_tenants : (Instr.worldTfDone 7 255 0).wf = true ∧ (Instr.worldTfDone 8 255 0).wf = false
    ∧ (Instr.worldTfDone 7 256 0).wf = false ∧ (Instr.worldIqCreate 12 255).wf = true ∧ (Instr.worldIqCreate 12 256).wf = false := by decide

theorem test_wf_cores : (Instr.belay 7 31 31 0).wf = true ∧ (Instr.belay 8 31 31 0).wf = false ∧ (Instr.belay 7 32 31 0).wf = false
    ∧ (Instr.belay 7 31 32 0).wf = false ∧ (Instr.lower 7 31).wf = true ∧ (Instr.lower 8 31).wf = false
    ∧ (Instr.lower 7 32).wf = false ∧ (Instr.worldCsrAccess 7 0 none 32).wf = false ∧ (Instr.mret 7).wf = true
    ∧ (Instr.mret 8).wf = false := by decide

theorem test_wf_sources_and_masters : (Instr.worldSdone 127).wf = true ∧ (Instr.worldSdone 128).wf = false
    ∧ (Instr.fabricAccess { master := 63 }).wf = true ∧ (Instr.fabricAccess { master := 64 }).wf = false
    ∧ (Instr.dbgAccess { master := 64 } none).wf = false := by decide

theorem test_wf_sixteens : (Instr.aptWindowClose 15).wf = true ∧ (Instr.aptWindowClose 16).wf = false
    ∧ (Instr.hashCoreEnable 16).wf = false ∧ (Instr.latSliceDisable 16).wf = false
    ∧ (Instr.conditionerBlockDone 3 15).wf = true ∧ (Instr.conditionerBlockDone 4 15).wf = false
    ∧ (Instr.conditionerBlockDone 3 16).wf = false := by decide

theorem test_wf_counters_and_sensors : (Instr.evcValWrite 31 0).wf = true ∧ (Instr.evcValWrite 32 0).wf = false
    ∧ (Instr.detectorAlarmClear 32).wf = false ∧ (Instr.eventCounterOverflow 32).wf = false := by decide

theorem test_wf_loops : (Instr.pinLoopCheck (List.replicate 8 0) none []).wf = true
    ∧ (Instr.pinLoopCheck (List.replicate 7 0) none []).wf = false := by decide

theorem test_wf_domains : (Instr.pwrReqSummit 19 0).wf = true ∧ (Instr.pwrReqSummit 20 0).wf = false
    ∧ (Instr.pwrLeaseWrite 19 255).wf = true ∧ (Instr.pwrLeaseWrite 20 255).wf = false ∧ (Instr.pwrLeaseWrite 19 256).wf = false
    ∧ (Instr.domainSelfTestEnd 20 []).wf = false := by decide

theorem test_wf_rope_and_smbus : (Instr.ropeLinkUp 1).wf = true ∧ (Instr.ropeLinkUp 2).wf = false ∧ (Instr.refclkEthLoss 2).wf = false
    ∧ (Instr.ropeResendTimeout 2 0).wf = true ∧ (Instr.ropeResendTimeout 3 0).wf = false
    ∧ (Instr.smbusReadVoltage 4 {}).wf = true ∧ (Instr.smbusReadVoltage 5 {}).wf = false
    ∧ (Instr.smbusReadTemperature 3 {}).wf = true ∧ (Instr.smbusReadTemperature 4 {}).wf = false ∧ (Instr.smbusReadId { addr := 128 }).wf = false := by decide

/-! ### States of the witnesses -/

/-- A device in SERVICE. -/
def svc : State := { State.reset with sys := { mode := .service } }

/-- A device in SERVICE with one job, in context 0. -/
def withJob (j : Job) : State := { svc with sched := { jobs := [(0, j)] } }

/-- A job past its commit point. -/
def running (op : Nat) : Job := { phase := .running, hdr := { opcode := op } }

/-- A firmware entry whose turn has come. -/
def waiting (op : Nat) : Job := { phase := .ready, hdr := { opcode := op } }

/-- The object of slot 5 in the tests: an AES key of partition 0. -/
def keyObj : KeyObj := { gen := 7, cls := 2, fam := 0, mat := List.replicate 16 1, policy := 3 }

/-- Its handle. -/
def keyHandle : Word := BitVec.ofNat 64 (handleOf 5 keyObj)

/-- A firmware entry whose turn has come and which no partner has answered. -/
abbrev Turn (s : State) (op : Nat) (j : Job) : Prop := adminFor s 0 op = some j ∧ j.result = none

/-! ### Jobs and entries that the meanings answer -/

theorem wit_answers_symmetric : ∀ op ∈ [0x101, 0x105, 0x109, 0x10D, 0x111, 0x119, 0x151, 0x155, 0x100, 0x104, 0x108, 0x10C, 0x110, 0x118,
    0x150, 0x154, 0x120, 0x128, 0x12C, 0x140, 0x121, 0x129, 0x12D, 0x141, 0x124, 0x125, 0x130, 0x132, 0x131, 0x133],
    jobFor (withJob (running op)) 0 op = some (running op) := by decide

theorem wit_answers_hash_and_derive : ∀ op ∈ [0x200, 0x204, 0x210, 0x214, 0x218, 0x201, 0x211, 0x215, 0x219, 0x220, 0x221, 0x222, 0x224,
    0x226, 0x228, 0x229], jobFor (withJob (running op)) 0 op = some (running op)
      ∧ destOf (running op).hdr = 0 ∧ (running op).hdr.isLast = true := by decide

theorem wit_answers_public_key : ∀ op ∈ [0x300, 0x302, 0x310, 0x314, 0x411, 0x421, 0x304, 0x305, 0x301, 0x303, 0x311, 0x315, 0x412, 0x422,
    0x432, 0x436, 0x318, 0x319, 0x401, 0x402, 0x440], jobFor (withJob (running op)) 0 op = some (running op)
      ∧ destOf (running op).hdr = 0 := by decide

theorem wit_whole_blocks : ∀ e ∈ [(0x100, 16), (0x101, 16), (0x104, 16), (0x105, 16), (0x118, 16), (0x119, 16), (0x150, 8), (0x151, 8), (0x154, 8), (0x155, 8)],
    let j : Job := { running e.1 with hdr := { opcode := e.1, param1 := 4, inBytes := 2 * e.2 }, input := List.replicate (2 * e.2) 1 }
    jobFor (withJob j) 0 e.1 = some j ∧ WholeBlocks e.2 (withJob j) j ∧ 4 ≤ j.hdr.p1 0 5 := by decide

theorem wit_ivs : ∀ e ∈ [(0x105, 16), (0x155, 8)],
    let j : Job := { running e.1 with hdr := { opcode := e.1, inBytes := 2 * e.2 }, input := List.replicate (2 * e.2) 1 }
    jobFor (withJob j) 0 e.1 = some j ∧ WholeBlocks e.2 (withJob j) j ∧ (symIn (withJob j) j).iv.length = e.2 ∧ (entryData j).length = e.2 := by decide

theorem wit_open_streams : ∀ op ∈ [0x121, 0x129, 0x12D, 0x141],
    let mid : Job := { running op with hdr := { opcode := op, chain := 2 } }
    let last : Job := { running op with hdr := { opcode := op, chain := 3 } }
    jobFor (withJob mid) 0 op = some mid ∧ mid.hdr.isLast = false ∧ jobFor (withJob last) 0 op = some last ∧ last.hdr.isLast = true := by
  decide

/-- A key object of 4 bytes of material, for the rows that compare with a modulus of 2 bytes. -/
def tinyRsa : KeyObj := { param := 16, mat := [1, 1, 0, 0] }

theorem wit_modulus_at_its_bound :
    let d : Job := { running 0x305 with keyA := some tinyRsa, input := [1, 1] }
    let v : Job := { running 0x301 with keyA := some tinyRsa, input := List.replicate 20 0 ++ [0xFF, 0xFF, 0xFF, 0xFF] }
    jobFor (withJob d) 0 0x305 = some d ∧ rsaN (modBytes d) (keyMat d) ≤ beNat (d.input.drop (d.hdr.p0 40 8))
      ∧ jobFor (withJob v) 0 0x301 = some v ∧ rsaN (modBytes v) (pubKey v) ≤ beNat ((afterKey v).drop (halgLen v)) := by decide

theorem wit_inline_point :
    let v : Job := { running 0x311 with hdr := { opcode := 0x311, param0 := 0x1001 }, input := [2] }
    jobFor (withJob v) 0 0x311 = some v ∧ isInline v.hdr = true ∧ (pubKey v).head? ≠ some 4 := by decide

theorem wit_signature_lengths : ∀ g ∈ ([(0x412, mldsaSig), (0x422, slhSig), (0x432, statefulSig), (0x436, statefulSig)] : List (Nat × (Job → Nat))),
    let v : Job := { running g.1 with hdr := { opcode := g.1, param0 := 1 } }
    jobFor (withJob v) 0 g.1 = some v ∧ (((latBody v).drop (ctxLen v)).drop (v.hdr.p1 0 16)).length ≠ g.2 v := by decide

theorem wit_agreement :
    let e : Job := { running 0x318 with hdr := { opcode := 0x318, param0 := 1 } }
    let c : Job := { running 0x402 with hdr := { opcode := 0x402, param0 := 1 } }
    let k : Job := { c with input := List.replicate 768 0 }
    let n : Job := { running 0x401 with hdr := { opcode := 0x401, param0 := 1 } }
    jobFor (withJob e) 0 0x318 = some e ∧ pointOk (psetOf e) (peerValue e) = false
      ∧ jobFor (withJob c) 0 0x402 = some c ∧ carriesPack c.hdr = false ∧ (afterTemplate c).length ≠ (kemLens c).2.2
      ∧ jobFor (withJob k) 0 0x402 = some k ∧ (afterTemplate k).length = (kemLens k).2.2 ∧ destOf k.hdr = 0
      ∧ jobFor (withJob n) 0 0x401 = some n ∧ isInline n.hdr = false ∧ destOf n.hdr = 0 := by decide +kernel

/-! ### Keys -/

/-- PARAM0 that names one destination key for each opcode that makes keys. -/
def makers : List (Nat × Word) := [(0x220, 0x40), (0x221, 0x40), (0x222, 0x40), (0x224, 0x40), (0x226, 0x40), (0x228, 0x40), (0x229, 0x40),
  (0x308, 0x4000), (0x31C, 0x4000), (0x400, 0x100), (0x410, 0x100), (0x420, 0x100), (0x500, 1)]

theorem wit_keys_are_made : ∀ g ∈ makers,
    let one : Job := { running g.1 with hdr := { opcode := g.1, param0 := g.2 }, resSlots := [4] }
    let two : Job := { running g.1 with hdr := { opcode := g.1, param0 := 2 * g.2 }, resSlots := [4, 5] }
    jobFor (withJob one) 0 g.1 = some one ∧ destOf one.hdr = 1 ∧ (jobTemplate one).fam ≠ 2
      ∧ jobFor (withJob two) 0 g.1 = some two ∧ destOf two.hdr = 2 ∧ (jobTemplate two).fam ≠ 2 := by decide

theorem wit_root_derive_and_restore :
    let j : Job := { running 0x530 with resSlots := [4] }
    let r : Job := { running 0x511 with resSlots := [4], keyA := some keyObj }
    let b : State := { withJob j with vault := { binds := [(0, 0)] } }
    jobFor (withJob j) 0 0x530 = some j ∧ tget (withJob j).vault.binds (j.hdr.p0 0 6) ≠ some j.hdr.part
      ∧ jobFor b 0 0x530 = some j ∧ tget b.vault.binds (j.hdr.p0 0 6) = some j.hdr.part ∧ (jobTemplate j).fam ≠ 2
      ∧ jobFor (withJob r) 0 0x511 = some r ∧ keyObj.fam ≠ 2 := by decide

theorem wit_build_streams : ∀ op ∈ [0x430, 0x434],
    let j : Job := { running op with hdr := { opcode := op, chain := 1 } }
    jobFor (withJob j) 0 op = some j ∧ j.hdr.isLast = false ∧ j.hdr.isFirst = true := by decide

/-- A stateful key with one leaf left, and with none. -/
def lmsKey (next : Nat) : KeyObj := { gen := 7, cls := 2, fam := 14, param := 0, next }

theorem wit_leaves : ∀ op ∈ [0x431, 0x435], ∀ n ∈ [1023, 1024],
    let o : KeyObj := lmsKey n
    let j : Job := { phase := .ready, hdr := { opcode := op, keyA := BitVec.ofNat 64 (handleOf 5 o) } }
    let s : State := { withJob j with vault := { objs := [(5, o)] } }
    getJob s 0 = some j ∧ j.leaf = none ∧ leafHolder s = true ∧ keyAt s j.hdr.keyA = some o
      ∧ (n = 1023 → o.next < leafCount o) ∧ (n = 1024 → leafCount o ≤ o.next) := by decide

theorem wit_leaf_signs : ∀ op ∈ [0x431, 0x435],
    let j : Job := { running op with leaf := some 1023, keyA := some (lmsKey 1023) }
    jobFor (withJob j) 0 op = some j := by decide

/-- A device whose slot 5 holds the test key, and a job of an opcode on it. -/
def onKey (op : Nat) : Job := { running op with hdr := { opcode := op, keyA := keyHandle } }
def withKey (op : Nat) : State := { withJob (onKey op) with vault := { objs := [(5, keyObj)] } }

theorem wit_objects : ∀ op ∈ [0x504, 0x505, 0x508, 0x509, 0x510], jobFor (withKey op) 0 op = some (onKey op)
    ∧ keyAt (withKey op) keyHandle = some keyObj ∧ keyObj.link = none
    ∧ jobFor (withJob (onKey op)) 0 op = some (onKey op) ∧ keyAt (withJob (onKey op)) keyHandle = none := by decide

theorem wit_key_wrap_export : jobFor (withKey 0x520) 0 0x520 = some (onKey 0x520) := by decide

theorem wit_root_store :
    let u : State := { withJob (running 0x5F0) with sys := { mode := .service, unkeyed := true } }
    let a : Job := { running 0x5F1 with hdr := { opcode := 0x5F1, param0 := 0x305 } }
    let d : Job := { running 0x5F1 with hdr := { opcode := 0x5F1, param0 := 0x10305 } }
    let full : State := { withJob a with vault := { roots := [(5, [])] } }
    jobFor (withJob (running 0x5F0)) 0 0x5F0 = some (running 0x5F0) ∧ (withJob (running 0x5F0)).sys.unkeyed = false
      ∧ jobFor u 0 0x5F0 = some (running 0x5F0) ∧ u.sys.unkeyed = true
      ∧ jobFor (withJob a) 0 0x5F1 = some a ∧ a.hdr.p0 16 1 ≠ 1 ∧ tget (withJob a).vault.roots (a.hdr.p0 0 6) = none
      ∧ jobFor full 0 0x5F1 = some a ∧ (tget full.vault.roots (a.hdr.p0 0 6)).isSome = true
      ∧ jobFor (withJob d) 0 0x5F1 = some d ∧ d.hdr.p0 16 1 = 1
      ∧ jobFor (withJob (running 0x5F2)) 0 0x5F2 = some (running 0x5F2) := by decide

theorem wit_root_restore :
    let pack : List Byte := packMagic ++ [1, 0, 0, 0, 0, 0, 0, 0, 0, 0, 0, 0, 0, 0, 0, 0]
    let j : Job := { running 0x5F3 with input := pack }
    let w : Job := { running 0x5F3 with input := packMagic ++ [1, 0, 0, 0, 1] }
    let u : State := { withJob j with sys := { mode := .service, unkeyed := true } }
    let v : State := { withJob w with sys := { mode := .service, unkeyed := true } }
    jobFor (withJob j) 0 0x5F3 = some j ∧ (withJob j).sys.unkeyed = false
      ∧ jobFor u 0 0x5F3 = some j ∧ u.sys.unkeyed = true ∧ (afterToken j).take 4 = packMagic ∧ leAt (afterToken j) 4 4 = 1
      ∧ sliceB (afterToken j) 8 8 = leBytes 8 u.life.devId.toNat
      ∧ jobFor v 0 0x5F3 = some w ∧ sliceB (afterToken w) 8 8 ≠ leBytes 8 v.life.devId.toNat := by decide

theorem wit_unwrap_import : jobFor (withJob (running 0x521)) 0 0x521 = some (running 0x521) := by decide

theorem wit_random : 
    let j : Job := { running 0x600 with drawWait := true, hdr := { opcode := 0x600, outMax := 2048 } }
    let l : Job := { running 0x600 with drawWait := true, hdr := { opcode := 0x600, outMax := 2049 } }
    jobFor (withJob j) 0 0x600 = some j ∧ j.hdr.outMax ≤ j.partialOut.length + 2048
      ∧ jobFor (withJob l) 0 0x600 = some l ∧ l.partialOut.length + 2048 < l.hdr.outMax
      ∧ jobFor (withJob (running 0x608)) 0 0x608 = some (running 0x608)
      ∧ releasable (withJob { running 0x608 with result := some {}, workDone := true }) 1 { running 0x608 with result := some {}, workDone := true } = true := by
  decide

/-! ### Firmware entries -/

/-- A device with one queue of session 3, number 9, in slot 0, and the entry of a queue command that names it. -/
def queue9 : Queue := { session := 3, qnum := 9, sizeLog2 := 12, base := 0x10002000000 }
def admin3 : Queue := { admin := true, session := 3, qnum := 0 }
def qJob (op qnum : Nat) : Job := { phase := .ready, slot := 1027, hdr := { opcode := op, param0 := BitVec.ofNat 64 (qnum + 12 * 2 ^ 16) } }
def withQueue (q : Queue) (j : Job) : State := { withJob j with qm := { queues := [(0, q), (1027, admin3)] } }

theorem wit_create_queue :
    let s := withQueue queue9 (qJob 1 8)
    Turn (withQueue queue9 (qJob 1 0)) 1 (qJob 1 0) ∧ (qJob 1 0).hdr.p0 0 16 = 0
      ∧ Turn (withQueue queue9 (qJob 1 9)) 1 (qJob 1 9)
      ∧ queueOf (withQueue queue9 (qJob 1 9)) (jobSession (withQueue queue9 (qJob 1 9)) (qJob 1 9)) 9 = some (0, queue9)
      ∧ queue9.st = .active ∧ queue9.tearAsk = 0
      ∧ Turn s 1 (qJob 1 8) ∧ queueOf s (jobSession s (qJob 1 8)) 8 = none ∧ freeQueueSlot s = some 1 := by decide +kernel

theorem wit_ring_is_allocated : allocRing (withJob (qJob 1 8)) 12 = some 0x10002000000 := by
  simp [allocRing, ringsUsed, withJob, svc, State.reset, arenaBase, blockFree, arenaEnd]

theorem wit_resize_queue :
    let busy : Queue := { queue9 with applied := 1 }
    let s := withQueue queue9 (qJob 2 9)
    let t := withQueue busy (qJob 2 9)
    Turn s 2 (qJob 2 9) ∧ (qJob 2 9).hdr.p0 0 16 ≠ 0 ∧ queueOf s (jobSession s (qJob 2 9)) 9 = some (0, queue9)
      ∧ queue9.applied = queue9.chead
      ∧ Turn t 2 (qJob 2 9) ∧ queueOf t (jobSession t (qJob 2 9)) 9 = some (0, busy) ∧ busy.applied ≠ busy.chead := by decide

theorem wit_queue_commands : ∀ op ∈ [3, 4, 5],
    Turn (withQueue queue9 (qJob op 9)) op (qJob op 9)
      ∧ queueOf (withQueue queue9 (qJob op 9)) (jobSession (withQueue queue9 (qJob op 9)) (qJob op 9)) 9 = some (0, queue9)
      ∧ Turn (withQueue queue9 (qJob op 8)) op (qJob op 8)
      ∧ queueOf (withQueue queue9 (qJob op 8)) (jobSession (withQueue queue9 (qJob op 8)) (qJob op 8)) 8 = none := by decide

theorem wit_queue_that_the_failed_partner_ended : ∀ e ∈ [(3, false), (4, true)],
    let s : State := { withQueue queue9 (qJob e.1 9) with tol := { sess := [(3, { torn := [(9, e.2, {})] })] } }
    Turn s e.1 (qJob e.1 9)
      ∧ ((getSess s (jobSession s (qJob e.1 9))).bind fun x => x.torn.find? fun t => t.1 == 9 && t.2.1 == e.2) = some (9, e.2, {})
      ∧ ((getSess s (jobSession s (qJob e.1 9))).bind fun x => x.torn.find? fun t => t.1 == 9 && t.2.1 == !e.2) = none := by decide

/-- Three officers of the device, and entropy that is served. -/
def dso (n : Nat) : Cred := { role := 0, index := n, key := [BitVec.ofNat 8 n], alg := 2 }
def staffed (j : Job) : State := { withJob j with
  quorum := { creds := [dso 0, dso 1, dso 2] }, ent := { isOpen := true, pool := List.replicate 32 7 } }

/-- A proposal of the register ENT threshold block at 0x180000, and one of the opcode MAINT_ENTER. -/
def rwqJob (bytes : Nat) : Job :=
  { phase := .ready, hdr := { opcode := 0x700, inBytes := bytes },
    input := leBytes 8 0 ++ [1, 0, 0, 0, 0, 0, 0, 0] ++ leBytes 4 0x180000 ++ leBytes 8 0x55 }
def opJob (bytes : Nat) : Job :=
  { phase := .ready, hdr := { opcode := 0x701, inBytes := bytes }, input := leBytes 2 0x708 ++ List.replicate 38 0 }

theorem wit_proposals_are_opened :
    Turn (staffed (rwqJob 9)) 0x700 (rwqJob 9) ∧ proposeRefusal (staffed (rwqJob 9)) (rwqJob 9) = some stBadLength
      ∧ Turn (staffed (rwqJob 28)) 0x700 (rwqJob 28) ∧ proposeRefusal (staffed (rwqJob 28)) (rwqJob 28) = none
      ∧ canDrawNow (staffed (rwqJob 28)) 8 = true
      ∧ (imageOf (rwqJob 28).input).getLast? = some (0x180000, 0x55) ∧ rwqMask 0x180000 = some 0xFF
      ∧ Turn (staffed (opJob 39)) 0x701 (opJob 39) ∧ proposeOpRefusal (staffed (opJob 39)) (opJob 39) = some stBadLength
      ∧ Turn (staffed (opJob 40)) 0x701 (opJob 40) ∧ proposeOpRefusal (staffed (opJob 40)) (opJob 40) = none
      ∧ canDrawNow (staffed (opJob 40)) 8 = true := by decide +kernel

/-- An approval by officer 1 of the proposal with identifier 4, which has one approval and waits until pitch 100. -/
def approveJob : Job := { phase := .ready, hdr := { opcode := 0x702, inBytes := 104 }, input := [4, 0, 0, 0, 0, 1, 2, 0] }
def open4 (expires : Nat) : Proposal := { id := 4, cls := 7, deadline := expires, expires, m := 3, approvers := [(0, 0)] }
def proposed (deadline : Nat) (j : Job) : State :=
  { withJob j with quorum := { creds := [dso 0, dso 1, dso 2], props := [(0, open4 deadline)] } }

theorem wit_approvals :
    let s := proposed 1 approveJob
    Turn s 0x702 approveJob ∧ leAt approveJob.input 6 1 = 2 ∧ approveJob.hdr.inBytes = 104
      ∧ propById s (leAt approveJob.input 0 4) = some (0, open4 1)
      ∧ (officerAt s (leAt approveJob.input 4 1) (leAt approveJob.input 5 1) approveJob.hdr.part).filter (eligible s 7 0) = some (dso 1)
      ∧ (open4 1).state = 1 ∧ s.sched.pitch < (open4 1).expires ∧ (dso 1).alg = leAt approveJob.input 6 1
      ∧ Turn (staffed approveJob) 0x702 approveJob ∧ propById (staffed approveJob) (leAt approveJob.input 0 4) = none
      ∧ Turn (proposed 0 approveJob) 0x702 approveJob
      ∧ propById (proposed 0 approveJob) (leAt approveJob.input 0 4) = some (0, open4 0)
      ∧ (open4 0).expires ≤ (proposed 0 approveJob).sched.pitch := by decide

/-- The entries that read, withdraw and commit proposals. -/
def quoJob (op bytes : Nat) (input : List Byte) : Job := { phase := .ready, hdr := { opcode := op, inBytes := bytes }, input }

theorem wit_replayed_entries_hold_their_result : ∀ op ∈ [0x700, 0x701, 0x702, 0x703, 0x704, 0x705, 0x706, 0x709, 0x710, 0x711, 0x714, 0x715,
    0x718, 0x719, 0x720, 0x721],
    let j : Job := { quoJob op 0 [] with result := some {} }
    adminFor (withJob j) 0 op = some j ∧ j.result = some {} := by decide

theorem wit_proposals_read_and_withdrawn :
    let w := quoJob 0x703 4 [4, 0, 0, 0]
    let q := quoJob 0x705 4 [4, 0, 0, 0]
    let s := proposed 1 w
    let other : State := { s with quorum := { props := [(0, { open4 1 with session := 5 })] },
                                  qm := { queues := [(0, admin3)] }, tol := { sess := [(3, { role := 4 })] } }
    let done : State := { s with quorum := { props := [(0, { open4 1 with state := 2 })] } }
    Turn s 0x703 w ∧ w.hdr.inBytes = 4 ∧ propById s 4 = some (0, open4 1) ∧ (open4 1).session = jobSid s w ∧ (open4 1).state = 1
      ∧ Turn (withJob w) 0x703 w ∧ propById (withJob w) 4 = none
      ∧ Turn other 0x703 w ∧ (propById other 4).map (fun p => p.2.session) = some 5 ∧ jobSid other w = 0
      ∧ (jobSender other w).role ≠ 0
      ∧ Turn done 0x703 w ∧ (propById done 4).map (fun p => p.2.state) = some 2
      ∧ Turn (proposed 1 q) 0x705 q ∧ propById (proposed 1 q) 4 = some (0, open4 1)
      ∧ Turn (withJob q) 0x705 q ∧ propById (withJob q) 4 = none := by decide

theorem wit_journal_and_commit :
    let r : Job := { phase := .ready, hdr := { opcode := 0x706, param0 := 0x1_00000000 } }
    let c := quoJob 0x704 16 (List.replicate 16 9)
    Turn (withJob r) 0x706 r ∧ r.hdr.inBytes = 0 ∧ (0 : Nat) < r.hdr.p0 32 16 ∧ (withJob r).quorum.journalSeq ≤ r.hdr.p0 0 32 + 0
      ∧ Turn (withJob c) 0x704 c ∧ commitProp (withJob c) (c.input.take 16) = none := by decide

/-- A proposal of registers whose token has been issued, for the values staged at reset. -/
def issuedImage : Proposal := { state := 2, token := List.replicate 16 9, tokenEnd := 1, image := [0x180000], digest := stageDigest svc [0x180000] }

theorem wit_commit_of_an_image :
    let c := quoJob 0x704 16 (List.replicate 16 9)
    let s : State := { withJob c with quorum := { props := [(0, issuedImage)] } }
    Turn s 0x704 c ∧ c.hdr.inBytes = 16 ∧ (commitProp s (c.input.take 16)).isSome = true := by
  refine ⟨by decide, by decide, ?_⟩
  simp [commitProp, tokenProp, issuedImage, quoJob, withJob, svc, State.reset]
  rfl

/-! ### Tokens -/

/-- A token, an entry that carries it, and the device that has issued it for that entry. -/
def tok : List Byte := List.replicate 16 9
def tokJob (op : Nat) (rest : List Byte) : Job :=
  { phase := .ready, hdr := { opcode := op, inBytes := 16 + rest.length, outMax := 4106 }, input := tok ++ rest }
def tokProposal (j : Job) : Proposal := { state := 2, kind := 1, opcode := j.hdr.opcode, token := tok, tokenEnd := 1, digest := opDigest j.hdr (j.input.drop 16) }
def issuedFor (j : Job) : State := { withJob j with quorum := { props := [(0, tokProposal j)] } }

/-- The token of the test fits the entry it was issued for, on every device that holds its proposal. -/
theorem tok_fits (j : Job) (s : State) (hp : s.quorum.props = [(0, tokProposal j)]) (hs : s.sched.pitch = 0) (ht : j.input.take 16 = tok)
    (h0 : j.hdr.part = 0) : tokenProp s (j.input.take 16) = some (0, tokProposal j) ∧ tokenValid s j = true := by
  have h : tokenProp s (j.input.take 16) = some (0, tokProposal j) := by
    rw [tokenProp, hp, hs, ht]; rfl
  exact ⟨h, by simp [tokenValid, tokenFits, h, tokProposal, h0]⟩

theorem wit_maint_enter :
    let j := tokJob 0x708 []
    let m : State := { issuedFor j with sys := { mode := .maintenance } }
    Turn (withJob j) 0x708 j ∧ j.hdr.inBytes = 16 ∧ tokenValid (withJob j) j = false
      ∧ Turn (issuedFor j) 0x708 j ∧ tokenProp (issuedFor j) (j.input.take 16) = some (0, tokProposal j)
      ∧ tokenValid (issuedFor j) j = true ∧ (issuedFor j).sys.mode ≠ .maintenance ∧ (issuedFor j).sys.maintPending = none
      ∧ Turn m 0x708 j ∧ tokenValid m j = true ∧ m.sys.mode = .maintenance := by
  have h := tok_fits (tokJob 0x708 []) (issuedFor (tokJob 0x708 [])) rfl rfl rfl rfl
  have k := tok_fits (tokJob 0x708 []) { issuedFor (tokJob 0x708 []) with sys := { mode := .maintenance } } rfl rfl rfl rfl
  exact ⟨by decide, by decide, by decide, by decide, h.1, h.2, by decide, by decide, by decide, k.2, by decide⟩

theorem wit_maint_exit :
    let j : Job := waiting 0x709
    let m : State := { withJob j with sys := { mode := .maintenance } }
    let p : State := { m with life := { pendingPwr := true } }
    Turn (withJob j) 0x709 j ∧ j.hdr.inBytes = 0 ∧ (withJob j).sys.mode ≠ .maintenance
      ∧ Turn m 0x709 j ∧ m.sys.mode = .maintenance ∧ m.life.pendingPwr = false
      ∧ Turn p 0x709 j ∧ p.sys.mode = .maintenance ∧ p.life.pendingPwr = true := by decide

theorem wit_zeroize :
    let j := tokJob 0x70C (leBytes 8 0)
    let w := tokJob 0x70C (leBytes 8 1)
    Turn (withJob j) 0x70C j ∧ j.hdr.inBytes = 24 ∧ tokenValid (withJob j) j = false
      ∧ Turn (issuedFor j) 0x70C j ∧ tokenValid (issuedFor j) j = true ∧ leAt j.input 16 8 = (issuedFor j).life.devId.toNat
      ∧ Turn (issuedFor w) 0x70C w ∧ tokenValid (issuedFor w) w = true ∧ leAt w.input 16 8 ≠ (issuedFor w).life.devId.toNat := by
  have h := tok_fits (tokJob 0x70C (leBytes 8 0)) (issuedFor (tokJob 0x70C (leBytes 8 0))) rfl rfl rfl rfl
  have k := tok_fits (tokJob 0x70C (leBytes 8 1)) (issuedFor (tokJob 0x70C (leBytes 8 1))) rfl rfl rfl rfl
  exact ⟨by decide, by decide, by decide, by decide, h.2, by decide, by decide, k.2, by decide⟩

/-! ### Partitions, officers, the registry -/

/-- The bytes of a credential: a P-384 key all of one value. -/
def credBytesOf (role n : Nat) : List Byte := leBytes 1 role ++ [2] ++ leBytes 2 97 ++ List.replicate 4 0 ++ List.replicate 97 (BitVec.ofNat 8 n)
def credOf (role n : Nat) : Cred := { role, alg := 2, key := List.replicate 97 (BitVec.ofNat 8 n), index := n }

/-- The device of a token entry with partition 3 and the officers given. -/
def registry (cs : List Cred) (j : Job) : State :=
  { withJob j with quorum := { props := [(0, tokProposal j)], parts := [0, 3], creds := cs }, ent := { isOpen := true, pool := List.replicate 64 7 } }

theorem wit_part_delete : ∀ p ∈ [0, 3, 4],
    let j := tokJob 0x711 (leBytes 8 p)
    Turn (registry [] j) 0x711 j ∧ j.hdr.inBytes = 24 ∧ leAt j.input 16 1 = p ∧ tokenValid (registry [] j) j = true
      ∧ (p = 3 ↔ p ≠ 0 ∧ p ∈ (registry [] j).quorum.parts)
      ∧ Turn (withJob j) 0x711 j ∧ tokenValid (withJob j) j = false := by
  intro p hp
  refine ⟨?_, ?_, ?_, (tok_fits (tokJob 0x711 (leBytes 8 p)) (registry [] (tokJob 0x711 (leBytes 8 p))) rfl rfl ?_ rfl).2, ?_, ?_, ?_⟩
  all_goals revert p; decide

theorem wit_part_create :
    let j := tokJob 0x710 (leBytes 8 (5 + 2 * 256) ++ credBytesOf 3 1 ++ credBytesOf 3 2)
    Turn (withJob (tokJob 0x710 [])) 0x710 (tokJob 0x710 []) ∧ partCreateRefusal (withJob (tokJob 0x710 [])) (tokJob 0x710 []) = some stBadLength
      ∧ Turn (registry [] j) 0x710 j ∧ partCreateRefusal (registry [] j) j = none ∧ canDrawNow (registry [] j) 16 = true := by
  have h := (tok_fits (tokJob 0x710 (leBytes 8 (5 + 2 * 256) ++ credBytesOf 3 1 ++ credBytesOf 3 2))
    (registry [] (tokJob 0x710 (leBytes 8 (5 + 2 * 256) ++ credBytesOf 3 1 ++ credBytesOf 3 2))) rfl rfl rfl rfl).2
  refine ⟨by decide, by decide, by decide +kernel, ?_, by decide⟩
  simp only [partCreateRefusal, h]
  decide +kernel

/-- Entries that enrol an officer of role 0 or a client. -/
def enrolJob (op role : Nat) : Job := tokJob op (credBytesOf role 40)

theorem wit_enrol : ∀ op ∈ [0x714, 0x718],
    let j := enrolJob op 0
    let c := (credAt (j.input.drop 16) j.hdr.part).1
    Turn (registry [] j) op j ∧ 20 ≤ j.hdr.inBytes ∧ j.hdr.inBytes = 24 + c.key.length ∧ c.key.length = leAt (j.input.drop 16) 2 2
      ∧ c.role ≤ 2 ∧ credAlgOk (j.input.drop 16) = true ∧ tokenValid (registry [] j) j = true ∧ enrolled (registry [] j).quorum.creds c = false
      ∧ (officersOf (registry [] j) 0).length < officerLimit 0
      ∧ Turn (withJob j) op j ∧ tokenValid (withJob j) j = false
      ∧ Turn (registry [credOf 0 40] j) op j ∧ tokenValid (registry [credOf 0 40] j) j = true
      ∧ enrolled (registry [credOf 0 40] j).quorum.creds c = true := by
  intro op hop
  have h := fun cs => (tok_fits (enrolJob op 0) (registry cs (enrolJob op 0)) rfl rfl (by revert op; decide) rfl).2
  refine ⟨?_, ?_, ?_, ?_, ?_, ?_, h _, ?_, ?_, ?_, ?_, ?_, h _, ?_⟩
  all_goals clear h; revert op; decide +kernel

theorem wit_enrol_of_no_role :
    let j := enrolJob 0x718 5
    Turn (registry [] j) 0x718 j ∧ tokenValid (registry [] j) j = true ∧ credAlgOk (j.input.drop 16) = true
      ∧ j.hdr.inBytes = 24 + leAt (j.input.drop 16) 2 2 ∧ 4 < (credAt (j.input.drop 16) j.hdr.part).1.role :=
  ⟨by decide +kernel, (tok_fits (enrolJob 0x718 5) (registry [] (enrolJob 0x718 5)) rfl rfl rfl rfl).2, by decide +kernel, by decide +kernel,
    by decide +kernel⟩

theorem wit_enrol_at_the_limit :
    let j := enrolJob 0x714 0
    let s := registry ((List.range 32).map (credOf 0)) j
    Turn s 0x714 j ∧ tokenValid s j = true ∧ officerLimit j.hdr.part ≤ (officersOf s j.hdr.part).length
      ∧ enrolled s.quorum.creds (credAt (j.input.drop 16) 0).1 = false :=
  ⟨by decide +kernel, (tok_fits (enrolJob 0x714 0) (registry ((List.range 32).map (credOf 0)) (enrolJob 0x714 0)) rfl rfl rfl rfl).2,
    by decide +kernel, by decide +kernel⟩

/-- The removal of officer 1 of the device. -/
def removeJob : Job := tokJob 0x715 (leBytes 8 256)

theorem wit_officer_remove :
    let few := registry [credOf 0 0, credOf 0 1] removeJob
    let many := registry [credOf 0 0, credOf 0 1, credOf 0 2, credOf 0 3] removeJob
    let card := registry [{ credOf 0 1 with card := true }] removeJob
    Turn few 0x715 removeJob ∧ removeJob.hdr.inBytes = 24 ∧ tokenValid few removeJob = true ∧ leAt removeJob.input 16 1 = 0
      ∧ officerAt few 0 (leAt removeJob.input 17 1) 0 = some (credOf 0 1) ∧ (credOf 0 1).card = false ∧ leavesShort few (credOf 0 1) = true
      ∧ Turn many 0x715 removeJob ∧ tokenValid many removeJob = true ∧ officerAt many 0 1 0 = some (credOf 0 1)
      ∧ leavesShort many (credOf 0 1) = false
      ∧ Turn card 0x715 removeJob ∧ tokenValid card removeJob = true
      ∧ (officerAt card 0 1 0).map (fun c => c.card) = some true :=
  have h := fun cs => (tok_fits removeJob (registry cs removeJob) rfl rfl rfl rfl).2
  ⟨by decide, by decide, h _, by decide, by decide +kernel, by decide, by decide +kernel, by decide, h _, by decide +kernel, by decide +kernel,
    by decide, h _, by decide +kernel⟩

theorem wit_client_remove :
    let j := tokJob 0x719 (List.replicate 32 0)
    Turn (issuedFor j) 0x719 j ∧ j.hdr.inBytes = 48 ∧ tokenValid (issuedFor j) j = true
      ∧ Turn (withJob j) 0x719 j ∧ tokenValid (withJob j) j = false :=
  ⟨by decide, by decide, (tok_fits (tokJob 0x719 (List.replicate 32 0)) (issuedFor (tokJob 0x719 (List.replicate 32 0))) rfl rfl rfl rfl).2,
    by decide, by decide⟩

theorem wit_registry_backup :
    let j := tokJob 0x720 []
    Turn (issuedFor j) 0x720 j ∧ j.hdr.inBytes = 16 ∧ tokenValid (issuedFor j) j = true
      ∧ (regPack (issuedFor j) (j.rnd.take 32)).length ≤ j.hdr.outMax :=
  ⟨by decide, by decide, (tok_fits (tokJob 0x720 []) (issuedFor (tokJob 0x720 [])) rfl rfl rfl rfl).2, by decide +kernel⟩

/-- A registry pack of a domain: its first 16 bytes, and what follows. -/
def packJob (dom : List Byte) : Job := tokJob 0x721 (packMagic ++ [2, 0, 0, 0] ++ dom ++ List.replicate 128 0)

theorem wit_registry_restore :
    let j := packJob (domainId svc)
    let w : Job := tokJob 0x721 []
    let v : Job := { w with hdr := { w.hdr with inBytes := 144 } }
    Turn (issuedFor j) 0x721 j ∧ 144 ≤ j.hdr.inBytes ∧ tokenValid (issuedFor j) j = true
      ∧ sliceB (j.input.drop 16) 8 8 = domainId (issuedFor j) ∧ (j.input.drop 16).take 4 = packMagic ∧ leAt (j.input.drop 16) 4 4 = 2
      ∧ Turn (issuedFor v) 0x721 v ∧ 144 ≤ v.hdr.inBytes ∧ tokenValid (issuedFor v) v = true
      ∧ sliceB (v.input.drop 16) 8 8 ≠ domainId (issuedFor v) :=
  ⟨⟨rfl, rfl⟩, by decide +kernel, (tok_fits (packJob (domainId svc)) (issuedFor (packJob (domainId svc))) rfl rfl rfl rfl).2, rfl, rfl, rfl,
    by decide, by decide, (tok_fits { tokJob 0x721 [] with hdr := { (tokJob 0x721 []).hdr with inBytes := 144 } }
      (issuedFor { tokJob 0x721 [] with hdr := { (tokJob 0x721 []).hdr with inBytes := 144 } }) rfl rfl rfl rfl).2,
    fun h => nomatch h⟩

/-! ### The life cycle, the cairn log, updates -/

theorem wit_cairn_read_and_challenge :
    let r : Job := { waiting 0x010 with hdr := { opcode := 0x010, param0 := 0x10000 } }
    let c : State := { withJob (waiting 0x031) with ent := { isOpen := true, pool := List.replicate 32 7 } }
    Turn (withJob r) 0x010 r ∧ (0 : Nat) < r.hdr.p0 16 10
      ∧ Turn c 0x031 (waiting 0x031) ∧ (waiting 0x031).hdr.inBytes = 0 ∧ canDrawNow c 32 = true := by decide

/-- A transition entry, and its device in MAINTENANCE in a state of the life cycle, with the hold-up bank stable or not. -/
def moveJob (new : Nat) : Job := tokJob 0x030 (leBytes 8 new ++ List.replicate (if new = 4 then 48 else 0) 0)
def movable (code new stable : Nat) : State :=
  { issuedFor (moveJob new) with sys := { mode := .maintenance }, life := { code, stable, holdOk := true } }

theorem wit_transitions : ∀ e ∈ [(1, 2), (2, 3), (3, 4)],
    let j := moveJob e.2
    let s := movable e.1 e.2 2500
    Turn s 0x030 j ∧ leAt j.input 16 1 = e.2 ∧ transitionRefusal s j = none ∧ holdReady s = true
      ∧ tokenProp s (j.input.take 16) = some (0, tokProposal j)
      ∧ Turn (movable e.1 e.2 2499) 0x030 j ∧ transitionRefusal (movable e.1 e.2 2499) j = none
      ∧ holdReady (movable e.1 e.2 2499) = false
      ∧ Turn (withJob j) 0x030 j ∧ (withJob j).sys.mode ≠ .maintenance
      ∧ Turn (movable 6 e.2 2500) 0x030 j ∧ 24 ≤ j.hdr.inBytes ∧ transitionOk (presentState (movable 6 e.2 2500)) e.2 = false := by
  intro e he
  have h := fun n => (tok_fits (moveJob e.2) (movable e.1 e.2 n) rfl rfl (by revert e; decide) rfl)
  have r : ∀ n ∈ [2499, 2500], transitionRefusal (movable e.1 e.2 n) (moveJob e.2) = none := by
    intro n hn
    simp only [transitionRefusal, (h n).2]
    clear h; revert n; revert e; decide
  refine ⟨?_, ?_, r _ (by decide), ?_, (h _).1, ?_, r _ (by decide), ?_, ?_, ?_, ?_, ?_, ?_⟩
  all_goals clear h r; revert e; decide

/-- The RC_BEGIN of a card of 32 MiB. -/
def beginJob : Job := tokJob 0x020 (leBytes 4 0x2000000 ++ List.replicate 52 0)

/-- A job that waits in MAINTENANCE for its turn, with the loader given. -/
def maint (j : Job) (nvm : Nvm) : State := { issuedFor j with sys := { mode := .maintenance }, nvm }

theorem wit_update_begins : tokenValid (maint beginJob {}) beginJob = true ∧ Turn (maint beginJob {}) 0x020 beginJob
    ∧ rcRefusal (maint beginJob {}) beginJob = none ∧ beginJob.hdr.inBytes = 72 ∧ leAt beginJob.input 16 4 = 0x2000000
    ∧ zeros (sliceB beginJob.input 20 4) = true :=
  ⟨(tok_fits beginJob (maint beginJob {}) rfl rfl rfl rfl).2, by decide⟩

theorem wit_update_goes_on :
    let d : Job := { waiting 0x021 with hdr := { opcode := 0x021, inBytes := 8 }, input := List.replicate 8 0 }
    let t := maint d { updSt := 2 }
    Turn t 0x021 d ∧ rcRefusal t d = none ∧ 8 ≤ d.hdr.inBytes ∧ (d.hdr.inBytes - 8) % 256 = 0 ∧ t.nvm.updSt = 2
      ∧ leAt d.input 0 4 = t.nvm.written ∧ zeros (sliceB d.input 4 4) = true
      ∧ t.nvm.written + (d.input.drop 8).length ≤ t.nvm.updLen + 255 ∧ Memory.wf t.mem = true
      ∧ Turn (maint d { updSt := 2, written := 256 }) 0x021 d
      ∧ Turn (withJob d) 0x021 d ∧ wasFetched (withJob d) d = false ∧ (withJob d).sys.mode ≠ .maintenance := by decide

theorem wit_update_finishes : ∀ n ∈ [0, 2],
    let f := maint (waiting 0x022) { updSt := n }
    Turn f 0x022 (waiting 0x022) ∧ rcRefusal f (waiting 0x022) = none ∧ (waiting 0x022).hdr.inBytes = 0 ∧ f.nvm.updSt = n := by decide

/-! ### Tenant calls -/

/-- A tenant function with an inbox of 64 units, and the device that has loaded it, with core 2 enabled for it. -/
def tfn : TenantFn := { part := 0, func := 0, line := 1, inboxLog2 := 12, limitMs := 10, addr := 0x10100000000 }
def tenantJob : Job := { phase := .ready, slot := 0, hdr := { opcode := 0x800, lenUnits := 1 } }
def callOf : Call := { tf := 0, unit := 3, units := 1, ctx := 0, due := 5 }
def tenants (j : Job) (calls : List Call) : State :=
  { withJob j with qm := { queues := [(0, queue9)] },
                   world := { tfs := [(0, tfn)], calls, cores := [(2, { base := true, wten := 0x100 })] } }

theorem wit_tenant_calls :
    let s := tenants tenantJob []
    getJob s 0 = some tenantJob ∧ tenantJob.phase = .ready ∧ unitClass tenantJob.hdr = .tenant ∧ serving s = true
      ∧ calledFn s tenantJob.hdr = some (0, tfn) ∧ getQueue s 0 = some queue9 ∧ slotTurn s tenantJob = true ∧ callUnits tenantJob.hdr ≤ tfn.room
      ∧ (engineBursts 8 .write (tfn.span tfn.pidx.toNat tenantJob.hdr.lenUnits) (some 0) s).1 = true ∧ Memory.wf s.mem = true := by decide +kernel

theorem wit_tenant_answers :
    let j : Job := { tenantJob with phase := .running }
    let s := tenants j [callOf]
    let l : State := { s with sched := { s.sched with pitch := 5 } }
    bitAt (getCore s 2).wten.toNat 8 = true ∧ fld (getCore s 2).wten.toNat 0 8 = 0
      ∧ s.world.calls.find? (fun c => c.tf == 0 && c.unit == 3 && !c.done && decide (s.sched.pitch < c.due)) = some callOf
      ∧ callJob s callOf = some j ∧ getFn s 0 = some tfn
      ∧ (engineBursts 8 .read (tfn.span 3 1) (some 0) s).1 = true
      ∧ (tfn.span 3 1).any (portWaits { s with acu := { recs := [(10, { wait := true })] } }) = true
      ∧ bitAt (getCore s 1).wten.toNat 8 = false ∧ (fld (getCore s 2).wten.toNat 0 8 ≠ 1)
      ∧ l.world.calls.find? (fun c => c.ctx == 0 && !c.done && decide (c.due ≤ l.sched.pitch)) = some callOf ∧ callJob l callOf = some j := by
  decide +kernel

/-! ### Host ports -/

/-- A device in SERVICE with one port as given, in slot `p` of the ports, and its clocks. -/
def port (p : Nat) (e : Eth) : State := { svc with eth := [(p, e)], clk := { refEth0 := true, refEth1 := true } }

theorem wit_links : ∀ p ∈ [0, 3],
    let s : State := { port p {} with regs := [(ethBlk p, 1)] }
    portsAllowed s = true ∧ (getEth s p).up = false ∧ portClock s p = true ∧ domOn s (portDomain p) = true ∧ modeFits (rw s (ethBlk p)) (getEth s p) 1 = true
      ∧ modeFits (rw s (ethBlk p)) (getEth s p) 2 = false
      ∧ (getEth (port p { up := true }) p).up = true ∧ (getEth (port p { up := true, cfg := 0x1000 }) p).lldp = true ∧ (getEth (port p { up := true, cfg := 0x1000 }) p).isPaused 0 = false
      ∧ (getEth (port p {}) p).lldp = false
      ∧ ethMode (rw (port p {}) (ethBlk p)) = 0 ∧ ethMode (0x1001 &&& ethCfgMask) ≠ 0
      ∧ ethMode (rw s (ethBlk p)) = ethMode (0x1001 &&& ethCfgMask) := by decide

/-- A port that is up, whose link-local address is in use or tentative, with one neighbour. -/
def linkLocal0 : Nat := Eth.linkLocal {}
def near (n : Neigh) (ip : Nat) (dad : Bool) : State := port 1 { up := true, dad, neigh := [(ip, n)] }

/-- The region over the HBM that is in force after reset. -/
def hbmRegion : Region := { rbase := 0x10000000081, mask := 0x7F3F7FFF, perm := 30 }

theorem hbm_region {s : State} (h : s.rwq = []) : region s 9 0 = hbmRegion := by
  unfold region inForce; rw [h]; decide

theorem hbm_holds {a : Nat} (h0 : 0x10000000000 ≤ a) (h1 : a < 0x10100000000) : hbmRegion.holds 9 a = true := by
  have e : hbmRegion.en = true ∧ hbmRegion.bad 9 = false ∧ hbmRegion.base = 0x10000000000 ∧ hbmRegion.lg = 32 := by decide
  have p : bitAt hbmRegion.perm (16 + (a - 0x10000000000) / 2 ^ (32 - 3)) = false :=
    Nat.testBit_lt_two_pow (Nat.lt_of_lt_of_le (by decide : (30 : Nat) < 2 ^ 16) (Nat.pow_le_pow_right (by decide) (by omega)))
  have q : decide (0x10000000000 ≤ a ∧ a < 0x10000000000 + 2 ^ 32) = true := decide_eq_true ⟨h0, by omega⟩
  unfold Region.holds
  rw [e.1, e.2.1, e.2.2.1, e.2.2.2, p, q]; rfl

theorem hbm_decides {s : State} (h : s.rwq = []) {a : Nat} (h0 : 0x10000000000 ≤ a) (h1 : a < 0x10100000000) :
    deciding s 9 a = some (0, hbmRegion) := by
  have : (List.range 32).find? (fun r => (region s 9 r).holds 9 (localAddr 9 a)) = some 0 :=
    List.find?_cons_of_pos (l := (List.range' 1 31)) (by rw [hbm_region h]; exact hbm_holds h0 h1)
  simp [deciding, this, hbm_region h]

theorem hbm_bytes {s : State} (h : s.rwq = []) {m w : Nat} {k : AccKind} (hm : hbmRegion.admits 9 m w k = true) :
    ∀ (len a mt : Nat) (o : Option Nat), 0x10000000000 ≤ a → a + len ≤ 0x10100000000 → ∃ x y, checkBytes s 9 m w k len a mt o = .admitted x y
  | 0, _, _, _, _, _ => ⟨_, _, rfl⟩
  | len + 1, a, mt, o, h0, h1 => by
    simp only [checkBytes, hbm_decides h h0 (by omega), hm, if_true]
    exact hbm_bytes h hm len _ _ _ (by omega) (by omega)

theorem hbm_port {a : Nat} (h0 : 0x10000000000 ≤ a) (h1 : a < 0x10100000000) : portOf a = some 9 := by
  unfold portOf
  rw [List.find?_range_eq_some]
  refine ⟨by simp [acuPort]; omega, by decide, fun j hj => ?_⟩
  have : j = 0 ∨ j = 1 ∨ j = 2 ∨ j = 3 ∨ j = 4 ∨ j = 5 ∨ j = 6 ∨ j = 7 ∨ j = 8 := by omega
  rcases this with rfl | rfl | rfl | rfl | rfl | rfl | rfl | rfl | rfl <;> simp [acuPort, vaultSpace] <;> omega

theorem hbm_access {s : State} (h : s.rwq = []) (ha : s.acu = {}) {m : Nat} {k : AccKind} (hm : hbmRegion.admits 9 m (masterWorld m) k = true)
    {a : Nat} {c : Option Nat} (h0 : 0x10000000000 ≤ a) (h1 : a + 64 ≤ 0x10100000000) : (engineAccess m k a 64 c s).1 = true := by
  obtain ⟨x, y, e⟩ := hbm_bytes h hm 64 a 0 none h0 h1
  have w : (acuRec s 9).wait = false := by rw [acuRec, ha]; rfl
  have : acuCheck s 9 m (masterWorld m) k a 64 = .admitted x y := by
    rw [acuCheck, if_neg (by simp [acuPort]; omega), e]
  simp [engineAccess, hbm_port h0 (by omega), w, this]

/-- With the regions in force that reset leaves, every host port may use its frame buffers. -/
theorem buffers_open {s : State} (h : s.rwq = []) (ha : s.acu = {}) : ∀ p < 4, BuffersOpen p s := by
  intro p hp len k
  unfold bufferAccess
  split
  · rfl
  · refine engineBursts_let_through fun a hm => ?_
    obtain ⟨i, hi, rfl⟩ := List.mem_map.mp hm
    have : i < 256 := by have := List.mem_range.mp hi; rw [ceilDiv, if_neg (by decide)] at this; omega
    refine hbm_access h ha ?_ (by unfold frameBuffer; omega) (by unfold frameBuffer; omega)
    have : ∀ p < 4, ∀ k, hbmRegion.admits 9 (0x18 + p) (masterWorld (0x18 + p)) k = true := by intro p hp k; cases k <;> revert p <;> decide
    exact this p hp k

/-- A frame that an unsecured port takes, under those regions. -/
theorem plain_in {p : Nat} {h : LinkHdr} {s : State} (hr : s.rwq = []) (ha : s.acu = {}) (hp : p < 4)
    (c : (getEth s p).up = true ∧ (getEth s p).macsec = false ∧ h.fcsOk = true ∧ h.sec = none ∧ vlanOk (getEth s p) h = true) : PlainIn p h s :=
  ⟨c.1, buffers_open hr ha p hp, c.2⟩

theorem wit_neighbours :
    let v4 : Nat := 0x0A000001
    let v6 : Nat := linkLocal0 + 1
    let s := near {} v4 false
    PlainIn 1 {} s ∧ PlainIn 1 {} (near {} v4 true)
      ∧ isV6 v4 = false ∧ isV6 v6 = true ∧ isV6 linkLocal0 = true ∧ isV6 (2 ^ 32 - 1) = false ∧ isV6 (2 ^ 32) = true
      ∧ (getEth s 1).isPaused 0 = false ∧ ({ ipOdd := true } : LinkHdr).ipOdd = true ∧ tget (getEth s 1).neigh v4 = some {} ∧ tget (getEth s 1).neigh v6 = none
      ∧ duplicateAt (getEth (near {} v6 false) 1) v6 = false ∧ tget (getEth (near {} v6 false) 1).neigh v6 = some {}
      ∧ duplicateAt (getEth (near {} v4 true) 1) linkLocal0 = true ∧ (getEth (near {} v4 true) 1).dad = true :=
  ⟨plain_in rfl rfl (by decide) (by decide), plain_in rfl rfl (by decide) (by decide), by decide +kernel⟩

theorem wit_frames_that_do_not_pass :
    let t := port 1 { up := true, cfg := 0x2000 }
    let m := port 1 { up := true, cfg := 0x800 }
    ({ fcsOk := false } : LinkHdr).fcsOk = false ∧ (getEth m 1).macsec = true
      ∧ (getEth t 1).macsec = false ∧ vlanOk (getEth t 1) {} = false ∧ vlanOk (getEth t 1) { vid := some 0 } = true
      ∧ vlanOk (getEth (port 1 {}) 1) { vid := some 0 } = false := by decide

theorem wit_neighbour_timers : ∀ n ∈ [2, 3],
    let a : State := { near { tries := n } 9 false with sched := { pitch := second } }
    let b : State := { near { resolved := true } 9 false with sched := { pitch := 300 * second } }
    let m : State := port 1 { up := true, cfg := 0x800, sas := [(0, {})], neigh := [(9, { tries := n })] }
    tget (getEth a 1).neigh 9 = some { tries := n } ∧ (0 : Nat) + second ≤ a.sched.pitch ∧ (n < 3 ∨ 3 ≤ n) ∧ (getEth a 1).up = true
      ∧ (getEth a 1).isPaused 0 = false ∧ (getEth a 1).macsec = false
      ∧ (getEth m 1).up = true ∧ (getEth m 1).macsec = true ∧ tget (getEth m 1).sas (getEth m 1).txAn = some {}
      ∧ tget (getEth b 1).neigh 9 = some { resolved := true } ∧ (0 : Nat) + 300 * second ≤ b.sched.pitch := by decide

theorem wit_echo : ∀ n ∈ [999, 1000],
    let ip := linkLocal0 + 1
    let s : State := { port 1 { up := true, echoes := n, neigh := [(ip, { resolved := true })] } with
      sched := { pitch := second - 1 }, pair := { addrHeld := true } }
    PlainIn 1 {} s ∧ answersFor s 1 linkLocal0 = true ∧ echoLen linkLocal0 [] ≤ (getEth s 1).mtu ∧ (getEth s 1).nextHop ip = some ip
      ∧ tget (getEth s 1).neigh ip = some { resolved := true } ∧ (getEth s 1).isPaused 0 = false
      ∧ ((getEth s 1).echoes < 1000 ↔ n = 999) ∧ s.sched.pitch < (getEth s 1).echoFrom + second := fun n hn =>
  ⟨plain_in rfl rfl (by decide) (by revert n; decide), by revert n; decide +kernel⟩

/-- A port with VLAN tags and PFC on priority 3, which is the priority of Tolyr frames. -/
def pfcCfg : Word := 0x0000_0000_0308_2000

theorem wit_pauses : ∀ b ∈ [true, false],
    let s := port 2 { up := true, cfg := pfcCfg, pauseSent := b }
    (getEth s 2).up = true ∧ (getEth s 2).vlan = true ∧ bitAt (getEth s 2).pfcEn 3 = true ∧ bitAt (getEth s 2).pfcEn 4 = false
      ∧ (getEth s 2).pcp = 3 ∧ bitAt (getEth s 2).pfcEn (getEth s 2).pcp = true ∧ (getEth s 2).pauseSent = b
      ∧ (getEth s 2).macsec = false ∧ BuffersOpen 2 s := fun b hb =>
  have c : ∀ b ∈ [true, false], (getEth (port 2 { up := true, cfg := pfcCfg, pauseSent := b }) 2).up = true
      ∧ (getEth (port 2 { up := true, cfg := pfcCfg, pauseSent := b }) 2).pauseSent = b
      ∧ (getEth (port 2 { up := true, cfg := pfcCfg, pauseSent := b }) 2).vlan = true
      ∧ (getEth (port 2 { up := true, cfg := pfcCfg, pauseSent := b }) 2).macsec = false
      ∧ bitAt (getEth (port 2 { up := true, cfg := pfcCfg, pauseSent := b }) 2).pfcEn (getEth (port 2 { up := true, cfg := pfcCfg, pauseSent := b }) 2).pcp = true := by decide
  ⟨(c b hb).1, (c b hb).2.2.1, by decide +revert, by decide +revert, by decide +revert, (c b hb).2.2.2.2, (c b hb).2.1, (c b hb).2.2.2.1, buffers_open rfl rfl 2 (by decide)⟩

/-- An object of the device with a SAK of 32 bytes and its salt, of the class for transmission. -/
def sakObj : KeyObj := { gen := 7, cls := 1, fam := 0, mat := List.replicate 44 1 }

theorem wit_secure_keys :
    let s : State := { port 1 {} with vault := { objs := [(5, sakObj)] } }
    keyAt s (BitVec.ofNat 64 (handleOf 5 sakObj)) = some sakObj ∧ saFits s 0 (BitVec.ofNat 64 (handleOf 5 sakObj)) = true
      ∧ saFits s 1 (BitVec.ofNat 64 (handleOf 5 sakObj)) = false := by decide

/-! ### The rope, the pair, the fabric -/

/-- The reset settings of the rope with one port up and, for `k`, with keys. -/
def roped (k : Bool) (st : Nat) : State :=
  { svc with pair := { port0 := { up := true }, port1 := { up := true }, keys := k, st }, clk := { refEth0 := true, refEth1 := true },
             rwq := [(0x1F0010, 0, 1)] }

theorem wit_rope_ports :
    let s : State := { roped true 7 with sched := { pitch := 150 }, sys := { mode := .service, bootStep := 4 } }
    let full : State := { s with pair := { port0 := { up := true, txq := [.rope 2 5 (.ack (0, 0, 0)) [] []] } } }
    s.sys.bootStep = 4 ∧ dieOn s = true ∧ s.clk.refEth0 = true ∧ s.clk.refEth1 = true ∧ domOn s 17 = true ∧ s.sys.held = false ∧ s.pair.st = 7 ∧ (ropePort s 0).up = true ∧ (ropePort s 1).up = true
      ∧ usesRope s 0 = true ∧ (ropePort s 0).silent = false ∧ s.pair.keys = true ∧ (ropePort s 0).lastAuth + 150 ≤ s.sched.pitch
      ∧ s.pair.liveIn = false ∧ ({ s with pair := { liveIn := true } } : State).pair.liveIn = true
      ∧ nthD s.pair.rx 0 0 = 0 ∧ announceDue { s with pair := { addrTaken := true, announces := 1 }, sched := { pitch := 500 } } = true
      ∧ announceDue { s with pair := { addrTaken := true, announces := 1 }, sched := { pitch := 499 } } = false
      ∧ announceDue { s with pair := { addrTaken := true, announces := 2 }, sched := { pitch := 5000 } } = true
      ∧ ({ s with pair := { unacked := [{ cls := 1, seq := 5, sentAt := 140 }] } } : State).pair.unacked.find?
          (fun f => f.cls == 1 && f.seq == 5 && decide (f.sentAt + 10 ≤ 150)) = some { cls := 1, seq := 5, sentAt := 140 }
      ∧ stillQueued s 1 5 = false ∧ stillQueued full 2 5 = true ∧ (∀ p ∈ [0, 1].filter (ropeUp s), portFull s p = false)
      ∧ Intact {} 0 (.ack (0, 0, 0)) s ∧ Intact {} 0 (.heartbeat 0 0 0 (0, 0, 0) false) s := by decide

theorem wit_partner_frames :
    let s := roped true 2
    let q : PeerQueue := { session := 3, qnum := 9 }
    let t : State := { roped true 3 with pair := { (roped true 3).pair with peerQueues := [q] } }
    (∀ c ∈ [0, 1, 2], Intact { cls := c } c (.sessionPos { event := 1 }) s ∧ (0 : Nat) = nthD s.pair.rx c 0 ∧ (1 : Nat) ≠ nthD s.pair.rx c 0) ∧ s.pair.st = 2
      ∧ s.pair.source = false ∧ s.sys.handedOver = false ∧ (∀ b ∈ [RopeBody.ack (0, 0, 0), .fence 1], ropeFits s { version := 2 } b = false ∧ ropeFits s { len := 9001 } b = false)
      ∧ serving t = true ∧ t.pair.st = 3 ∧ Intact { cls := 2 } 2 (.entryUnits 3 9 0 []) t ∧ Intact { cls := 1 } 1 (forwardBody (.job {})) t ∧ Intact { cls := 2 } 2 (.bulk (.roots [] [] [])) s
      ∧ Intact {} 0 (.fence 1) t ∧ Intact {} 0 (.handover 1 [] []) t ∧ Intact { cls := 1 } 1 (.head 3 9 0 []) t ∧ (0 : Nat) = nthD t.pair.rx 2 0 ∧ findPeerQueue t 3 9 = some q := by decide

theorem wit_linked_objects :
    let v : State := { roped true 2 with vault := { objs := [(7, { link := some 8 }), (8, { link := some 7 })] } }
    (tget v.vault.objs 7).bind (·.link) = some 8 ∧ (tget v.vault.objs 8).bind (·.link) = some 7 ∧ Intact { cls := 1 } 1 (.state (.keyDel 7 1)) v
      ∧ notCopied 7 v = true ∧ notCopied 7 { v with pair := { v.pair with bulkNext := 8 } } = false := by decide

theorem wit_relay :
    let ip := linkLocal0 + 1
    let s : State := { roped true 3 with eth := [(1, { up := true, neigh := [(ip, { resolved := true })] })] }
    (getEth s 1).up = true ∧ (getEth s 1).macsec = false ∧ (getEth s 1).nextHop (ip * 65536 / 65536) = some ip
      ∧ tget (getEth s 1).neigh ip = some { resolved := true } ∧ (getEth s 1).isPaused (getEth s 1).pcp = false
      ∧ (getEth (roped true 3) 1).up = false ∧ Intact { cls := 2 } 2 (.relay 1 (ip * 65536) []) s ∧ s.sys.handedOver = false := by decide +kernel

theorem wit_join :
    let h : State := { roped false 1 with pair := { (roped false 1).pair with helloSent := true, peerHello := some (1, 1, 0) } }
    let w : State := { roped false 0 with sched := { pitch := 50000 } }
    joinReady (roped false 0) = true ∧ JoinIn {} (.joinHello 1 1 0 []) (roped false 0) ∧ (roped false 0).pair.st ≠ 7
      ∧ JoinIn {} (.joinAttest (attestRecord {}) []) h ∧ JoinIn {} (.joinKey [] []) h ∧ h.pair.st = 1 ∧ h.pair.helloSent = true ∧ h.pair.peerHello ≠ none
      ∧ ({ h with pair := { h.pair with attested := true } } : State).pair.attested = true
      ∧ (roped true 2).pair.st = 2 ∧ copyDone { roped true 2 with pair := { (roped true 2).pair with source := true } } = true
      ∧ serving w = true ∧ joinOn w = true ∧ w.pair.addrHeld = false ∧ w.sys.handedOver = false ∧ w.pair.keys = false ∧ w.pair.liveIn = false
      ∧ w.pair.fencedOff = false ∧ max w.pair.joinWaitFrom (max w.pair.port0.lastAuth w.pair.port1.lastAuth) + joinWait w = w.sched.pitch := by decide

/-- A fabric member 7 with port 1 up. -/
def member7 : State :=
  { svc with pair := { port1 := { up := true }, fabDup := true }, rwq := [(0x1F0010, 0, 0), (0x1F0018, 0, 0x70001)], sched := { pitch := 500000 } }

theorem wit_fabric :
    let r : Repl := { member := 3, slot := 5, gen := 7, tries := 2, pitch := 495000, oper := 2 }
    let m : State := { member7 with fab := { routes := [(3, { via := 3, hops := 1, pitch := 325000 })], repl := [r] } }
    fabricUp m = true ∧ memberId m = 7 ∧ betterRoute (tget m.fab.routes 3) 3 1 = true ∧ betterRoute (tget m.fab.routes 4) 4 1 = true
      ∧ tget m.fab.routes 3 = some { via := 3, hops := 1, pitch := 325000 } ∧ (325000 : Nat) + 175000 ≤ m.sched.pitch
      ∧ m.pair.fabDup = true ∧ m.pair.fabDupPitch + second ≤ m.sched.pitch
      ∧ m.fab.repl.find? (fun r => r.member == 3 && r.slot == 5 && (r.oper == 2 || r.pack.isSome) && decide (r.pitch + 5000 ≤ m.sched.pitch)) = some r ∧ r.tries < 3
      ∧ (3 : Nat) ≠ memberId m := by decide

theorem wit_fabric_frames :
    let h : FabHdr := { port := 1, src := 3, boot := 1, seq := 5 }
    let m : State := { member7 with fab := { routes := [(3, {})], windows := [(3, (1, [4]))] } }
    Heard h (1, windowAdd [4] 5) m ∧ Heard { h with boot := 2, seq := 0 } (2, [0]) m ∧ Heard { h with src := 4 } (1, [5]) m
      ∧ Heard { h with src := 7 } (1, [5]) m ∧ fabricFits m { h with vid := 1 } = false
      ∧ fabricFits m { h with member := 3, hops := 16 } = true ∧ (tget m.fab.routes 3).isSome = true := by decide

/-! ### Tolyr -/

/-- A port that is up, with UDP port 9640, and a session 3 open on it. -/
def tolPort : Eth := { up := true, cfg := 9640 * 2 ^ 40 }
def opened (x : Sess) : State := { port 1 tolPort with tol := { sess := [(3, x)] }, qm := { queues := [(0, queue9), (1027, admin3)] } }
def sess3 : Sess := { sid := 8, port := 1 }

/-- A device that holds its addresses on a port that is up, with what the sessions hold. -/
def serves (x : Sess) : State := { opened x with pair := { addrHeld := true } }

/-- A datagram to the link-local address of the port, with a Tolyr frame of a type under a SESSION_ID and body. -/
def dgram (type sid : Nat) (body : List Byte) : Datagram :=
  { dst := linkLocal0, frame := [1, BitVec.ofNat 8 type, 0, 0] ++ leBytes 4 sid ++ [1, 0, 0, 0] ++ leBytes 2 body.length ++ [0, 0] ++ body }

theorem wit_datagram :
    let d : Datagram := dgram 0x10 8 (List.replicate 16 0)
    let s := serves sess3
    PlainIn 1 d.hdr s ∧ datagramPasses (getEth s 1) d = true ∧ answersFor s 1 d.dst = true ∧ 32 ≤ d.frame.length
      ∧ leAt d.frame 0 1 = 1 ∧ leAt d.frame 1 1 ∈ hostTypes ∧ s.sys.mode ≠ .lockdown ∧ sessById s (leAt d.frame 4 4) (some 1) = some (3, sess3)
      ∧ mapEpoch sess3 (leAt d.frame 2 1) = some 0 ∧ windowTakes (seenIn sess3 0) (leAt d.frame 8 4) = true ∧ mirroring s = false
      ∧ datagramPasses (getEth s 1) { d with fragment := true } = false ∧ answersFor s 1 7 = false :=
  ⟨plain_in rfl rfl (by decide) (by decide), by decide +kernel⟩

theorem wit_hello_fragment :
    let d : Datagram := dgram 1 77 (leBytes 4 5 ++ leBytes 4 8 ++ [1, 2, 3])
    let s := serves sess3
    PlainIn 1 d.hdr s ∧ datagramPasses (getEth s 1) d = true ∧ answersFor s 1 d.dst = true ∧ s.sys.mode ≠ .lockdown
      ∧ leAt d.frame 0 1 = 1 ∧ leAt d.frame 1 1 = 1 ∧ d.frame.length = 16 + leAt d.frame 12 2 ∧ 8 ≤ leAt d.frame 12 2
      ∧ leAt d.frame 20 4 ≤ 65536 ∧ leAt d.frame 16 4 + (leAt d.frame 12 2 - 8) ≤ leAt d.frame 20 4
      ∧ d.frame.length ≤ helloLimit (getEth s 1) (leAt d.frame 4 4) ∧ (getEth s 1).asm = [] :=
  ⟨plain_in rfl rfl (by decide) (by decide), by decide +kernel⟩

/-- A HELLO that names the key of officer 0. -/
def helloOf : List Byte := [1, 1] ++ leBytes 2 1400 ++ leBytes 2 16 ++ List.replicate 34 0 ++ keyId (dso 0) ++ List.replicate 1216 0
def greeted : State := { serves sess3 with quorum := { creds := [dso 0] } }

theorem wit_hello : HelloIn 1 1 linkLocal0 1 {} greeted ∧ HelloIn 1 1 linkLocal0 1 {} { greeted with sys := { mode := .lockdown } } := by
  refine ⟨⟨by decide, plain_in rfl rfl (by decide) (by decide), by decide, by decide +kernel, by decide, ?_⟩,
    ⟨by decide, plain_in rfl rfl (by decide) (by decide), by decide, by decide +kernel, by decide, ?_⟩⟩
    <;> intro a ha <;> cases ha

theorem wit_hello_names_a_key : helloCred greeted helloOf = some (dso 0) := by
  have h : sliceB helloOf 40 32 = keyId (dso 0) := rfl
  rw [helloCred, h]
  simp [greeted, effective, partExists, dso, serves, opened, port, svc, State.reset]

theorem wit_hello_is_new : greeted.sys.mode ≠ .lockdown ∧ joinTarget greeted = false ∧ relaysHello greeted 1 linkLocal0 helloOf = false
    ∧ (getEth greeted 1).hs = [] ∧ sessionsFull greeted 1 = false
    ∧ (∀ x ∈ greeted.tol.sess, ¬ (x.2.hello = helloOf ∧ x.2.helloSrc = 1 ∧ x.2.helloTag = 1)) ∧ helloFits 1 helloOf = true := by
  refine ⟨by decide, by decide, ?_, by decide, by decide, by decide, by decide +kernel⟩
  have : holdsForPartner greeted = false := by decide
  simp [relaysHello, this]

/-- A handshake that waits for its third message. -/
def shake : Handshake := { sid := 8, tag := 1, waiting := false }

theorem wit_step3 :
    let s : State := { port 1 { tolPort with hs := [shake] } with sched := { pitch := second }, pair := { addrHeld := true } }
    HelloIn 1 1 linkLocal0 8 {} s ∧ s.sys.mode ≠ .lockdown
      ∧ (getEth s 1).hs.find? (fun h => h.sid == 8 && !h.waiting && h.gate.isNone) = some shake
      ∧ (List.range 512).find? (fun n => (tget s.tol.sess n).isNone) = some 0 ∧ sessionsFull s 1 = false
      ∧ ∃ h ∈ (getEth s 1).hs, h.tag = 1 ∧ h.start + second ≤ s.sched.pitch := by
  refine ⟨⟨by decide, plain_in rfl rfl (by decide) (by decide), by decide, by decide +kernel, by decide, ?_⟩, by decide +kernel⟩
  intro a ha; cases ha

theorem wit_sessions :
    let s : State := { opened sess3 with sched := { pitch := 15000000 } }
    let full : Sess := { sess3 with txSeq := 0xFFFFFFFE, rxSeq := 2 ^ 31 }
    let upd : Sess := { sess3 with update := some 1, graceFrom := some 0 }
    getSess s 3 = some sess3 ∧ sess3.st = 2 ∧ sess3.lastRx + idleLimit sess3.idleCfg = s.sched.pitch
      ∧ sess3.lastRx + idleLimit sess3.idleCfg / 3 ≤ s.sched.pitch ∧ 0xFFFFFFFE ≤ full.txSeq ∧ getSess (opened full) 3 = some full
      ∧ sessById s 8 none = some (3, sess3) ∧ updateDue (opened full) full = true ∧ full.txEpoch ≠ 0xFFFFFFFF
      ∧ getSess (opened upd) 3 = some upd ∧ upd.held = [] ∧ dist upd.rxDseq upd.ackCum < 512 ∧ upd.update = some 1 ∧ upd.updateGate = none
      ∧ upd.graceFrom = some 0 ∧ 0 + second ≤ s.sched.pitch ∧ (∀ g ∈ ({ upd with older := [(1, 0, [])] } : Sess).older, g.2.1 + second ≤ s.sched.pitch) := by decide

theorem wit_reliable_frames : ∀ n ∈ [15, 16],
    let f : TxFrame := { dseq := 4, retx := n }
    let x : Sess := { sess3 with txDseq := 6, cum := 4, unacked := [f], pairMove := some 1 }
    let s : State := { opened x with sched := { pitch := 100000 } }
    getSess s 3 = some x ∧ x.st = 2 ∧ x.held = [] ∧ queueOf s 3 9 = some (0, queue9) ∧ queue9.st ≠ .tearing ∧ dist x.rxDseq x.ackCum < 512
      ∧ frameOk queue9 { dseq := x.rxDseq, qnum := 9, units := 1, first := 0, newPidx := 1, data := [] } = true ∧ s.sys.paired = false
      ∧ s.pair.keys = false ∧ Memory.wf s.mem = true
      ∧ dist x.txDseq x.cum < dist 7 x.cum ∧ dist 6 x.cum ≤ dist x.txDseq x.cum
      ∧ x.unacked.find? (fun f => f.dseq == 4) = some f ∧ rto x f ≤ 2 * (s.sched.pitch - f.sentAt) ∧ (maxRetx f.cfg ≤ f.retx ↔ n = 16) ∧ seqFits x f.body = true
      ∧ x.txSeq ≤ 0xFFFFFFFE ∧ x.pairMove = some 1 := by decide

/-! ### Timed rows -/

theorem wit_quorum_times :
    let s : State := { svc with quorum := { props := [(0, { expires := 9 }), (1, { state := 2, token := tok, tokenEnd := 9, expires := 20 })] },
                                sched := { pitch := 9 } }
    let e : State := { s with sched := { pitch := 8 } }
    tget s.quorum.props 0 = some { expires := 9 } ∧ (9 : Nat) ≤ s.sched.pitch ∧ e.sched.pitch < 9
      ∧ tget s.quorum.props 1 = some { state := 2, token := tok, tokenEnd := 9, expires := 20 } ∧ tok ≠ []
      ∧ rwqMask 0x180000 = some 0xFF ∧ rwqMask 0x10010 = none := by decide

theorem wit_life_times :
    let x : Transition := { old := 2, target := 3, left := 1 }
    let b : CairnEnt := { type := 1 }
    let s : State := { svc with life := { chal := some (tok, 0), trans := some x, code := 2, stable := 2500, holdOk := true },
                                dbg := { chal := some (tok, 0), enabled := 1 },
                                cairn := { buf := [b], next := 8159 }, sched := { pitch := 60 * second } }
    let p : State := { s with cairn := { buf := [{ b with target := some 0 }] } }
    s.life.chal = some (tok, 0) ∧ s.dbg.chal = some (tok, 0) ∧ s.life.code = 2 ∧ presentState s = 2 ∧ s.dbg.enabled.getLsbD 0 = true ∧ holdReady s = true
      ∧ State.reset.life.code ≠ 2 ∧ s.life.trans = some x ∧ x.paused = false ∧ s.board.vddGuard = true ∧ x.target ≤ 4 ∧ x.left ≤ 1
      ∧ 2500 ≤ s.life.stable ∧ s.cairn.buf = [b] ∧ b.target = none ∧ s.cairn.next < 8160 ∧ s.dbg.waitEn = 0
      ∧ p.cairn.buf = [{ b with target := some 0 }] ∧ p.board.vddGuard = true ∧ p.dbg.waitEn = 0 := by decide

/-! ### Internal queues and worlds -/

/-- An internal queue of tenant function 0. -/
def inner : Queue := { isInternal := true, session := 0, sizeLog2 := 12, base := 0x10002000000 }
def worlds (c : Core) (q : Queue) : State := { svc with qm := { queues := [(0, q)] }, world := { cores := [(2, c)], tfs := [(0, tfn)] } }

theorem wit_internal_queues :
    let s := worlds { base := true, wten := 0x100 } inner
    let b : State := { s with world := { s.world with iqBusy := true } }
    getQueue s 0 = some inner ∧ inner.isInternal = true ∧ ipidxAllowed s (some 2) inner = true ∧ pidxOk inner 64 = true ∧ pidxOk inner 65 = false
      ∧ inner.st ≠ .tearing ∧ (getCore s 2).base = true ∧ bitAt (getCore s 2).wten.toNat 8 = true
      ∧ fld (getCore s 2).wten.toNat 0 8 = inner.session ∧ bitAt (getCore (worlds { base := true } inner) 2).wten.toNat 8 = false
      ∧ b.world.iqBusy = true ∧ s.world.iqBusy = false ∧ getFn s 1 = none ∧ getFn s 0 = some tfn ∧ getQueue s 1 = none
      ∧ inner.st = .active ∧ inner.tearAsk = 0 := by decide

theorem wit_internal_queue_is_created : ∀ lg ∈ [12, 24],
    let s : State := { worlds {} inner with regs := [(0x120070, 0x10003000000)] }
    s.world.iqBusy = false ∧ getFn s 0 = some tfn ∧ 12 ≤ lg ∧ lg ≤ 24 ∧ arenaBase ≤ rw s 0x120070 ∧ rw s 0x120070 % 2 ^ lg = 0
      ∧ blockFree (ringsUsed s) (rw s 0x120070) (2 ^ lg) = true ∧ freeQueueSlot s = some 1 := by decide +kernel

/-- The anchor of an entry with tag 0xABC and three arguments in the summit SRAM, behind a gateway region. -/
def gate (c : Core) : State :=
  { svc with world := { cores := [(2, c)], everReady := true }, mem := [(0x100000, 0x0B), (0x100002, 0xC3), (0x100003, 0xAB)],
             rwq := [(regionOff 1 0 + 16, 0, 0x3E)] }

/-- A core in the base world at supervisor level whose x5 holds the address of the anchor. -/
def caller : Core := { base := true, priv := 1, pc := 0x500000, x := List.replicate 4 0 ++ [0x100000] ++ List.replicate 26 0 }

theorem wit_gateway :
    let s := gate caller
    let e : State := { s with world := { s.world with everReady := false } }
    let r : Core := { caller with base := false, priv := 3, wbinfo := 0x101 }
    coreRuns s 2 = true ∧ (getCore s 2).base = true ∧ e.world.everReady = false ∧ s.sys.summitRestarting = false ∧ s.world.everReady = true
      ∧ belayTarget s 2 caller 0xABC (caller.reg 5).toNat = true ∧ belayTarget s 2 caller 0xABD (caller.reg 5).toNat = false
      ∧ caller.priv < 4 ∧ caller.delegated false 24 = false ∧ caller.delegated false 2 = false ∧ Memory.wf s.mem = true
      ∧ coreRuns (gate r) 2 = true ∧ (getCore (gate r) 2).base = false ∧ (getCore (gate r) 2).priv = 3 ∧ (getCore (gate r) 2).wValid = true
      ∧ (getCore (gate r) 2).wPriv ≠ 2 ∧ customIllegal 0x300B = true := by decide +kernel

theorem wit_traps :
    let d : Core := { caller with csrB := [(0x302, 0x100)] }
    coreRuns (gate d) 2 = true ∧ (getCore (gate d) 2).priv < 4 ∧ d.delegated false 8 = true ∧ d.delegated false 9 = false ∧ d.base = true
      ∧ coreRuns (gate {}) 2 = true ∧ (getCore (gate {}) 2).base = false ∧ (getCore (gate {}) 2).priv = 3 ∧ (getCore (gate {}) 2).trapped = false
      ∧ (31 : Nat) ≤ (getCore (gate {}) 2).x.length := by decide

/-- A source for core 2 of the summit world, and one of the base world. -/
def irqs (c : Core) : State :=
  { gate c with world := { (gate c).world with irqs := [(4, { en := true, cores := 4, pend := true }),
                                                         (40, { en := true, base := true, cores := 4, pend := true })] } }

theorem wit_interrupts :
    let s := irqs caller
    let k : State := { s with world := { s.world with irqs := [(4, { claimed := true }), (127, { base := true, claimed := true })] } }
    topIrq s false 2 = some 4 ∧ topIrq s true 2 = some 40 ∧ topIrq s false 3 = none ∧ topIrq s true 3 = none
      ∧ s.sys.summitRestarting = false ∧ dieOn s = true ∧ domOn s 4 = true ∧ (getCore s 2).parked = false ∧ (getCore s 2).waits = false
      ∧ (getCore s 2).trapped = false ∧ (getCore s 2).base = true ∧ (getCore s 2).priv < 4
      ∧ (irqOf k 4).claimed = true ∧ (irqOf k 127).claimed = true := by decide

theorem wit_bank_registers :
    let m : Core := {}
    let u : Core := { base := true, priv := 0 }
    (m.csrOk 0x300 true && m.csrOk 0x340 true && m.csrOk 0xF14 false && m.csrOk 0xC01 false) = true ∧ m.csrOk 0xF14 true = false
      ∧ u.csrOk 0x300 false = false ∧ u.delegated false 2 = false ∧ u.priv < 4 ∧ coreRuns (gate u) 2 = true ∧ coreRuns (gate m) 2 = true
      ∧ m.csrOk 0x7B0 false = false ∧ (m.base = true ∨ m.trapped = false) := by decide

theorem wit_watchdogs_and_restarts :
    let w : State := { svc with world := { ready := true, swCount := 50000, bwCount := 50000 }, regs := [(0x120020, 0x1_0000_C350)] }
    let t : Core := { trapped := true, csrS := [(0x300, 8)] }
    let r : State := { svc with sys := { mode := .service, summitRestarting := true }, sched := { pitch := 20000 } }
    w.world.ready = true ∧ bitAt (rw w 0x120010) 32 = true ∧ max 1 (fld (rw w 0x120010) 0 32) = w.world.swCount
      ∧ bitAt (rw w 0x120020) 32 = true ∧ max 1 (fld (rw w 0x120020) 0 32) = w.world.bwCount
      ∧ coreRuns (irqs t) 2 = true ∧ (getCore (irqs t) 2).base = false ∧ (getCore (irqs t) 2).trapped = true ∧ t.delegated false 2 = false
      ∧ topIrq (irqs t) false 2 ≠ none ∧ bitAt ((getCore (irqs t) 2).csr 0x300) 3 = true
      ∧ svc.sys.summitRestarting = false ∧ dieOn svc = true ∧ r.sys.summitRestarting = true ∧ r.world.restartAt + 20000 = r.sched.pitch
      ∧ RestartLeft w ∧ RestartLeft r ∧ r.world.fails < 2 ∧ r.sys.mode ≠ .vault ∧ ({ r with world := { fails := 2 } } : State).world.fails = 2
      ∧ ({ svc with sys := { bootStep := 4 } } : State).sys.bootStep = 4 := by decide

/-! ### Accesses and registers -/

/-- A write and a read of the first and the last bytes of the summit SRAM by an engine and by core 0, and an access of no port. -/
def acc (k : AccKind) (addr : Nat) : Access := { master := 9, kind := k, addr, len := 8, data := List.replicate 8 1 }

theorem wit_accesses : ∀ a ∈ [acc .write 0x100000, acc .read 0x4FFFF8],
    let s : State := gate {}
    dieOn s = true ∧ (a.master < 8 → coreRuns s a.master = true) ∧ portFor s a = some 1 ∧ widthOk 1 a = true ∧ (acuRec s 1).wait = false ∧ a.atomic = false
      ∧ verdict s 1 a = .admitted 0 0 ∧ hbmDown s a.addr = false ∧ inColdStore a.addr = false ∧ cacheable 1 0 a s = false ∧ Memory.wf s.mem = true
      ∧ portFor s (acc a.kind 0x900000) = none ∧ widthOk 1 { a with master := 0, len := 3 } = false
      ∧ (acuRec { s with acu := { recs := [(1, { wait := true })] } } 1).wait = true
      ∧ (let b := { a with master := 15, addr := 0x1000000 }
         portFor s b = some 4 ∧ widthOk 4 b = true ∧ (acuRec s 4).wait = false ∧ verdict s 4 b = .denied 0 ∧ b.ctx = none) := by decide +kernel

/-- A proposal of an ACU register whose token has been issued. -/
def issuedAcu : Proposal := { issuedImage with image := [0x110000], digest := stageDigest svc [0x110000] }

/-- Core 0 reads and writes the SRAM and the cold store through lines of its own. -/
theorem wit_cached_accesses : ∀ a ∈ [{ acc .write 0x100008 with master := 0 }, { acc .read 0x4FFFF8 with master := 0 }],
    let s : State := gate {}
    let x : CacheLine := { core := 0, addr := 0x100000, bytes := List.replicate 64 1 }
    let l : State := { s with world := { s.world with lines := [x] } }
    coreRuns s 0 = true ∧ portFor s a = some 1 ∧ widthOk 1 a = true ∧ verdict s 1 a = .admitted 0 0 ∧ cacheable 1 0 a s = true
      ∧ lineOf s 0 (a.addr / 64 * 64) = none ∧ (readSpan s (a.addr / 64 * 64) 64).length = 64
      ∧ lineOf l 0 0x100000 = some x ∧ x.bytes.length = 64 := by decide +kernel

/-- An engine reads and writes a granule of the cold store. -/
theorem wit_cold_store_accesses : ∀ k ∈ [AccKind.read, .write],
    let s : State := { svc with hbm := { ready := true } }
    let a : Access := acc k coldBase
    dieOn s = true ∧ portFor s a = some 10 ∧ widthOk 10 a = true ∧ (acuRec s 10).wait = false ∧ (∃ m o, verdict s 10 a = .admitted m o)
      ∧ cacheable 10 0 a s = false ∧ hbmDown s a.addr = false ∧ inColdStore a.addr = true := by
  intro k hk
  refine ⟨?_, ?_, ?_, ?_, ⟨0, 0, ?_⟩, ?_, ?_, ?_⟩
  all_goals revert k; decide +kernel

theorem wit_epoch_switch :
    let s : State := { svc with quorum := { props := [(0, issuedAcu)] }, acu := { commit := some (tok, none) } }
    s.acu.waiting = [] ∧ s.acu.commit = some (tok, none) ∧ commitProp s tok = some (0, issuedAcu)
      ∧ (∀ o ∈ issuedAcu.image, 0x110000 ≤ o ∧ o < 0x113800) ∧ svc.acu.commit = none ∧ svc.acu.bootDone = false
      ∧ ({ svc with acu := { bootDone := true } } : State).acu.bootDone = true := by
  refine ⟨by decide, by decide, ?_, by decide, by decide, by decide, by decide⟩
  simp [commitProp, tokenProp, issuedAcu, issuedImage, tok, svc, State.reset]
  rfl

theorem wit_debug_access :
    let d : State := { svc with dbg := { enabled := 1 } }
    tapOn d = true ∧ tapDead d = false ∧ domOn d 19 = true ∧ dbgAdmits svc = false ∧ d.dbg.enabled.getLsbD 0 = true
      ∧ portFor d { acc .read 0x900000 with master := 0x1F, ctx := none } = none := by decide

theorem wit_registers :
    dieOn svc = true ∧ 0x10012 % 8 ≠ 0 ∧ rwBits 0xE0010 = some 0xF ∧ rwBits 0x10010 = some 0xFFFFFFFF ∧ rwqMask 0x10010 = none ∧ rwqMask 0x180000 = some 0xFF ∧ only64 0x10018 = true
      ∧ (0x1E0010 : Nat) < 0x200000 ∧ rwBits 0x1E0010 = some 0x7F
      ∧ (31 : Nat) ∈ ({ svc with evc := { due := [0, 31] } } : State).evc.due := by decide

/-- A device that restarts its summit world, with a region that lets the loader read the image in the HBM. -/
def reloading (perm : Nat) : State :=
  { svc with sys := { mode := .service, summitRestarting := true }, world := { fwLen := 4 },
             rwq := [(regionOff 9 0, 0, 0x10080000041), (regionOff 9 0 + 8, 0, 0x40000000), (regionOff 9 0 + 16, 0, perm)] }

theorem wit_firmware_copies :
    (reloading 4).sys.summitRestarting = true ∧ (engineAccess 0x1E .read 0x10080000000 4 none (reloading 4)).1 = true
      ∧ (engineAccess 0x1E .write 0x100000 4 none (reloading 4)).1 = true ∧ (engineAccess 0x1E .read 0x10080000000 4 none (reloading 8)).1 = false
      ∧ (reloading 4).sys.mode ≠ .vault ∧ portWaits (reloading 4) 0x10080000000 = false ∧ portWaits (reloading 4) 0x100000 = false
      ∧ portWaits { reloading 4 with acu := { recs := [(9, { wait := true })] } } 0x10080000000 = true := by decide +kernel

/-- The digest in the card is that of the image in the HBM. -/
theorem wit_right_image :
    let s : State := { reloading 4 with world := { fwLen := 4, fwDigest := imageDigest (protectedCopy (reloading 4)) } }
    s.sys.summitRestarting = true ∧ imageDigest (protectedCopy s) = s.world.fwDigest := ⟨rfl, rfl⟩

theorem wit_memory_without_keys :
    let a : Access := { master := 0x1E, kind := .read, addr := 0x10080000000, len := 4 }
    portFor (reloading 4) a = some 9 ∧ verdict (reloading 4) 9 a = .admitted 0 0 ∧ hbmDown (reloading 4) a.addr = true
      ∧ hbmDown { reloading 4 with hbm := { ready := true } } a.addr = false ∧ inColdStore coldBase = true ∧ inColdStore a.addr = false := by decide +kernel

/-! ### Units, power, tamper -/

theorem wit_units : ∀ u ∈ [0, 3, 4, 19, 20, 83, 84, 99, 100, 107, 111],
    let s (r : UnitRec) : State := { svc with units := [(u, r)] }
    (unitRec (s {}) u).en = true ∧ (unitRec (s { en := false }) u).en = false ∧ (unitRec (s { st := .draining }) u).st = .draining
      ∧ unitHeld (s { st := .draining }) u = false ∧ (unitRec (s { st := .scrubbing }) u).st = .scrubbing
      ∧ (unitRec (s { st := .inService }) u).st = .inService := by decide

theorem wit_power_requests :
    let l : State := { svc with clk := { doms := [(6, { ownerBase := true, st := 2, byBase := true }), (7, { autoOff := true }), (8, { ownerBase := true, lease := 1 })] } }
    let r : State := { svc with pair := { st := 1 } }
    reqRefusal svc 4 (reqAs 4 0) = 0 ∧ reqRefusal svc 19 (reqAs 19 3) = 0 ∧ reqRefusal svc 5 (reqAs 5 0) = 1 ∧ reqRefusal r 17 (reqAs 17 1) = 2
      ∧ reqRefusal l 7 (reqAs 7 0) = 3 ∧ (domRec l 6).ownerBase = true ∧ (domRec l 6).lease = 0 ∧ reqRefusal l 6 (reqAs 6 0) = 0
      ∧ switchable 4 = true ∧ switchable 19 = true ∧ switchable 18 = false ∧ (domRec svc 4).ownerBase = false ∧ (domRec l 8).lease ≠ 0
      ∧ BitVec.ofNat 8 0x80 &&& ~~~ (domRec l 6).lease ≠ 0 ∧ (domRec l 6).st = 2 ∧ (domRec l 6).byBase = true := by decide

theorem wit_domains : ∀ d ∈ [4, 6, 13, 14, 15, 16, 17, 19],
    let s (n : Nat) : State := { svc with clk := { doms := [(d, { st := n, req := 2, pend := n == 3 })] } }
    (domRec (s 2) d).st = 2 ∧ (domRec (s 2) d).req ≠ 0 ∧ (domRec (s 3) d).pend = true ∧ (domRec (s 3) d).autoOff = false
      ∧ (∀ x ∈ (s 3).world.lines, 4 ≤ x.core → x.dirty = false) ∧ domainQuiet (s 2) d = true ∧ (domRec (s 3) d).st = 3 ∧ (domRec (s 5) d).st = 5 ∧ (domRec (s 6) d).st = 6 := by decide

/-- Every source enabled; on battery too. -/
def sensing (vdd : Bool) (fails : Tab Nat) : State :=
  { svc with board := { vddGuard := vdd }, tam := { fails }, rwq := [(0x130000, 0, 0xFFFFFF), (0x130008, 0, 0xFFFFFF)] }

/-- Bytes of the loops of which loop `n` alone fails. -/
def loopBytes (n : Nat) : List Byte := (List.range 8).map fun m => if m = n then 0 else 1#8 <<< m

theorem wit_alarms : ∀ n ∈ [0, 7, 8, 9],
    filterN (sensing true [(n, 1)]) n ≤ min 4 (tgetD (sensing true [(n, 1)]).tam.fails n 0 + 1)
      ∧ (loopBytes n).length = 8 ∧ (∀ m < 8, loopPasses m (nthD (loopBytes n) m 0) = (m != n))
      ∧ srcSensed (sensing true [(n, 1)]) n = true ∧ inAlarm (sensing true [(n, 1)]) n = false ∧ (sensing true []).board.vddGuard = true
      ∧ dieOn (sensing true []) = true ∧ (∀ m < 8, loopPasses m (nthD (loopBytes 8) m 0) = true)
      ∧ tgetD (sensing true []).tam.fails n 0 + 1 < filterN (sensing true []) n ∧ srcSensed (sensing true []) n = true
      ∧ srcSensed (sensing false [(n, 1)]) n = true ∧ (sensing false [(n, 1)]).board.vddGuard = false
      ∧ (sensing false [(n, 1)]).board.xtal = true := by decide

theorem wit_more_alarms :
    let s := sensing true []
    let d : State := { s with tam := { active := 0x400 } }
    (∀ n ∈ [10, 18, 20, 21, 22], srcSensed s n = true ∧ inAlarm s n = false) ∧ disagrees d 0 = true ∧ srcSensed d 18 = true ∧ inAlarm d 18 = false
      ∧ disWindow d < 11 ∧ (10 : Nat) ≤ disWindow s ∧ endDisagreements s = s
      ∧ (4999 : Nat) < 5000 ∧ srcSensed s 11 = true ∧ inAlarm s 11 = false ∧ glitchNs s ≤ 4999
      ∧ (∀ r ∈ [({ src := 10, value := 811 } : Reading), { src := 10, value := 689 }, { src := 11, value := 5 }, { src := 12, value := 441 },
          { src := 13, value := -181 }, { src := 14, value := -20001 }, { src := 15, value := 2 }, { src := 15, which := 1, value := 20001 },
          { src := 16, value := 4 }, { src := 17 }], leavesWindow s r = true)
      ∧ (∀ r ∈ [({ src := 10, value := 810 } : Reading), { src := 10, value := 690 }, { src := 11, value := 4 }, { src := 12, value := 440 },
          { src := 13, value := -180 }, { src := 14, value := 20000 }, { src := 15, value := 1 }, { src := 16, value := 3 }], leavesWindow s r = false)
      ∧ vbatLimit s = 2600 ∧ vbatLimit (sensing false []) = 2200
      ∧ (srcLevel s 10 = 3 ∨ srcLevel s 10 < 3) ∧ (sensing false []).board.vddGuard = false := by decide

theorem wit_line :
    let s : State := { svc with tam := { line := true } }
    s.tam.line = true ∧ s.tam.holdDie = false ∧ s.tam.confirmed = false := by decide

/-! ### Entropy -/

/-- The conditioners in service, a healthy bank 15, and the output open. -/
def noisy (n : Nat) : State :=
  { svc with units := [(108, { st := .inService }), (109, { st := .inService })], ent := { banks := [(15, { st := 1 })], isOpen := true, pool := List.replicate n 7 } }

theorem wit_noise :
    let off : State := { noisy 0 with ent := { starting := false } }
    let s := noisy 64
    dieOn off = true ∧ domOn off 14 = true ∧ off.ent.starting = false ∧ off.ent.isOpen = false
      ∧ ({ s with ent := { starting := true } } : State).ent.starting = true ∧ (getBank s 15).st = 1
      ∧ (∀ e ∈ [(1, 41), (2, 795), (3, 4097), (4, 2049), (7, 0xF7FF)], testFails (getBank s 15) e.1 e.2 = true)
      ∧ inService s (108 + 1) = true ∧ unitIdle s s.sched.pitch (108 + 1) = true ∧ (unitRec s (108 + 1)).reserved = false ∧ nextBank s = some 15 ∧ 0 < poolRoom s
      ∧ (s.ent.banks.map fun p => p.2.pendingBlocks.length).foldl (· + ·) 0 < 1024
      ∧ s.ent.stopped = false ∧ ({ s with ent := { opening := true } } : State).ent.opening = true
      ∧ ({ s with ent := { opening := true } } : State).ent.isOpen = false := by decide

theorem wit_estimates : ∀ e ∈ [(524288, false), (600000, true)],
    let s := noisy 0
    let k := getBank s 15
    let ests := estimates s e.1 []
    let bad := fun i => estBad (nthD ests i 0) (if i = 0 then k.thr.1 else k.thr.2)
    k.st = 1 ∧ bad 0 = e.2 ∧ ∀ i < 4, bad (i + 1) = false := by decide +kernel

theorem wit_grants :
    let d : State := { noisy 32 with ent := { (noisy 32).ent with internalQ := [(.dbgChal, 32)] } }
    let e : State := { d with ent := { d.ent with pool := [] } }
    let j : State := { noisy 32 with ent := { (noisy 32).ent with jobQ := [(.job 0, 32)], share := 14 } }
    canGrant d 32 = true ∧ canGrant e 32 = false ∧ (noisy 32).ent.internalQ = [] ∧ canGrant j 32 = true ∧ j.ent.jobQ = [(.job 0, 32)] ∧ j.ent.share < 15
      ∧ (noisy 32).ent.jobQ = [] ∧ (noisy 32).ent.fifo.length ≤ 60
      ∧ inService (noisy 32) (108 + (noisy 32).ent.katCond) = true ∧ 2 ≤ condsUp (noisy 32)
      ∧ ({ noisy 32 with ent := { katIn := List.replicate 16 0 } } : State).ent.katIn.length = 16 ∧ condsUp svc < 2 ∧ ({ noisy 32 with ent := { katBusy := true } } : State).ent.katBusy = true := by decide

theorem wit_granted_jobs :
    let j : Job := { drawWait := true }
    let s : State := { noisy 32 with ent := { (noisy 32).ent with internalQ := [(.proposal 0, 32)] }, sched := { jobs := [(0, j)] } }
    canGrant s 32 = true ∧ getJob s 0 = some j ∧ j.drawWait = true
      ∧ ({ s with ent := { s.ent with fifo := [5], katOut := [5] } } : State).ent.fifo = [5] := by decide

theorem wit_entropy_wait : ∀ p ∈ [Phase.ready, Phase.held], ∀ k ∈ [false, true],
    let j : Job := { phase := p, entNeed := if k then 1 else 0, saltNeed := if k then 0 else 1 }
    let s : State := { withJob j with sys := { mode := .service, paired := k }, sched := { jobs := [(0, j)], pitch := 25000 },
                                      ent := { stopped := k }, clk := { doms := [(14, { st := 2 })] } }
    getJob s 0 = some j ∧ (0 < j.entNeed ∨ 0 < j.saltNeed) ∧ j.entSince + 25000 = s.sched.pitch
      ∧ (s.ent.stopped = true ∨ (domRec s 14).st ∈ [0, 2, 3]) ∧ j.forPartner = none ∧ j.hdr.opcode ≠ 0x030 := by decide

/-! ### TAP, telemetry, supplies, cards -/

theorem wit_tap :
    let o : State := { svc with ent := { isOpen := true, pool := List.replicate 32 7 } }
    tapOn o = true ∧ tapDead o = false ∧ canDrawNow o 32 = true ∧ canDrawNow svc 32 = false
      ∧ tapDead { svc with life := { code := 6 } } = true ∧ tapDead { svc with life := { code := 15 } } = true ∧ pinsAvailable svc = true
      ∧ pinsAvailable { svc with life := { code := 4 } } = false ∧ svc.sys.mode ≠ .vault := by decide

theorem wit_telemetry :
    let x : SmbXfer := {}
    svc.sys.mode ≠ .vault ∧ x.addr = 0x4C + b2n svc.mgmt.asel ∧ ({ addr := 0x4D } : SmbXfer).addr ≠ 0x4C + b2n svc.mgmt.asel
      ∧ x = { addr := 0x4C + b2n svc.mgmt.asel } := by decide

theorem wit_supplies :
    let v : State := { svc with sys := { mode := .vault } }
    let l : State := { svc with tam := { line := true, released := true, confirmed := true } }
    v.sys.mode = .vault ∧ v.board.vddGuard = true ∧ v.tam.line = false ∧ v.tam.holdDie = false
      ∧ svc.sys.mode ≠ .vault ∧ svc.sys.mode ≠ .lockdown ∧ svc.tam.holdDie = false ∧ svc.board.mainPower = true
      ∧ l.tam.line = true ∧ l.tam.released = true ∧ l.tam.confirmed = true ∧ l.tam.after = .systemReset ∧ l.tam.holdDie = false ∧ l.board.mainPower = true
      ∧ l.life.trans = none ∧ (∀ d < 20, (domRec l d).st ≠ 3)
      ∧ svc.board.vbat = true ∧ ({ svc with board := { vbat := false } } : State).board.vbat = false
      ∧ ({ svc with board := { vddGuard := false } } : State).board.vddGuard = false ∧ dieOn svc = true := by decide

theorem wit_cards : ∀ n ∈ [1, 2],
    let s : State := { State.reset with sys := { mode := .startup, bootStep := n }, hbm := { ready := true } }
    s.sys.mode = .startup ∧ s.sys.bootStep = n ∧ s.hbm.ready = true ∧ s.tam.line = false ∧ s.tam.active = 0 := by decide

/-! ### Segments, key loads, memory errors, fetch -/

/-- The job of a unit that runs a segment of an opcode, and its device. -/
def segJob (op : Nat) (r : Option Res) : Job := { phase := .running, hdr := { opcode := op, param0 := 2 }, result := r, input := List.replicate 8 1 }
def segmented (u op : Nat) (r : Option Res) : State :=
  { withJob (segJob op r) with units := [(u, { st := .inService, job := some 0, seg := true, mem := { tries := 203 } })] }

theorem wit_segments : ∀ u ∈ [0, 3, 4, 19, 20, 83, 84, 99, 100, 107], ∀ op ∈ [0x308, 0x411, 0x100], ∀ r ∈ [none, some {}],
    let s := segmented u op r
    (unitRec s u).job = some 0 ∧ getJob s 0 = some (segJob op r) ∧ (segJob op r).phase = .running ∧ (unitRec s u).seg = true
      ∧ serving s = true ∧ (unitRec s u).st ≠ .fenced ∧ (segJob op r).result = r := by decide

theorem wit_segments_write_their_output : ∀ u ∈ [0, 4, 20, 84, 100],
    let s := segmented u 0x100 (some {})
    let d : State := { s with rwq := [(regionOff 9 0, 0, 0)] }
    let w : State := { s with acu := { recs := [(9, { wait := true })] } }
    portWaits d (stageAddr d 0) = false ∧ portWaits w (stageAddr w 0) = true ∧
    (outputAccess u 0 (segJob 0x100 (some {})) s).1 = true ∧ (outputAccess u 0 (segJob 0x100 (some {})) d).1 = false
      ∧ ∀ a ∈ stageAddr d 0 :: burstsFrom (stageAddr d 0) 16, (portOf a).isSome = true ∧ portWaits d a = false := by decide +kernel

/-- A lane that holds a key and its complement, on a job of one AES block. -/
def laneJob (r : Option Res) : Job :=
  { phase := .running, hdr := { opcode := 0x100, inBytes := 16 }, result := r, input := List.replicate 16 1 }
def laneMem : UnitMem := { key := List.replicate 16 2, shadow := List.replicate 16 0xFD }

theorem wit_lanes_move_their_words :
    let j := laneJob (some {})
    let s : State := { withJob j with units := [(2, { st := .inService, job := some 0, seg := true, mem := laneMem })] }
    laneMem.shadow = laneMem.key.map (fun b => ~~~ b) ∧ (unitRec s 2).mem = laneMem
      ∧ laneBytes j.hdr laneMem 16 16 = 16 ∧ laneBytes j.hdr laneMem 7 20000 = 16384 ∧ laneBytes j.hdr laneMem 60000 70000 < 70000
      ∧ (laneOut s j laneMem.key 0 16 true).length = 16
      ∧ nthD ([0, 0, 4] : List Byte) 2 0 ≠ 0 ∧ (∀ i < 16, nthD ([] : List Byte) i 0 = 0) := by decide +kernel

theorem wit_rejected_attempts :
    attemptBudget ((segJob 0x411 none).hdr.p0 0 8) ≤ (unitRec (segmented 84 0x411 none) 84).mem.tries + 1
      ∧ (unitRec (segmented 84 0x411 none) 84).mem.tries + 0 < attemptBudget ((segJob 0x411 none).hdr.p0 0 8) := by decide

theorem wit_idle_lanes : ∀ st ∈ [UState.draining, .scrubbing],
    let s : State := { svc with units := [(3, { st })] }
    (unitRec s 3).job = none ∧ serving s = true ∧ (unitRec s 3).st = st ∧ ∃ b ∈ ([0, 1] : List Byte), b ≠ 0 := by decide

theorem wit_work_complete : ∀ h ∈ [({ opcode := 0x308, param0 := 1 } : Header), { opcode := 0x708 }], ∀ u ∈ [none, some 20],
    let j : Job := { phase := .running, hdr := h, result := some {}, unit := u }
    getJob (withJob j) 0 = some j ∧ j.phase = .running ∧ isUnquoted j.hdr = true ∧ j.result ≠ none ∧ j.workDone = false
      ∧ (outputAccess 20 0 j (withJob j)).1 = true := by decide +kernel

theorem wit_key_loads : ∀ ke ∈ [0, 7],
    let j : Job := { phase := .ready, hdr := { opcode := 0x100, keyA := keyHandle } }
    let p : Job := { phase := .ready, hdr := { opcode := 0x511 } }
    let s (j : Job) : State := { withJob j with vault := { objs := [(5, keyObj)] }, units := [(100 + ke, { st := .inService })] }
    getJob (s j) 0 = some j ∧ j.keyLoaded = false ∧ needsLoad j.hdr = true ∧ loadSlot (s j) ke = true ∧ (namedSlots j.hdr).any (s j).vault.awaited.contains = false ∧ recordGood (s j) 5 [] = true ∧ serving (s j) = true
      ∧ carriesPack j.hdr = false ∧ getJob (s p) 0 = some p ∧ needsLoad p.hdr = true ∧ carriesPack p.hdr = true
      ∧ ((namedSlots j.hdr).find? fun n => (tget (s j).vault.objs n).isSome && !isHot (s j) n) = some 5
      ∧ (keyReads 0 (some 5) (s j)).1 = true ∧ (keyReads 0 none (s p)).1 = true ∧ tget (s j).vault.objs 5 = some keyObj := by decide +kernel

theorem wit_memory_errors : ∀ n ∈ [0, 1],
    let j : Job := { running 0x100 with hbmErrs := n }
    let s : State := { withJob j with vault := { objs := [(5, keyObj)] }, sys := { mode := .service, paired := n == 0 } }
    tget s.vault.objs 5 = some keyObj ∧ (s.sys.paired = true ↔ n = 0) ∧ dieOn s = true ∧ s.hbm.errValid = false ∧ getJob s 0 = some j
      ∧ j.phase = .running ∧ (j.hbmErrs = 0 ↔ n = 0) ∧ ({ keyObj with mat := [] } : KeyObj).gen = keyObj.gen := by decide

theorem wit_streams_that_wait_out :
    let x : Stream := { slot := 2, sid := 3, opened := true }
    let j : Job := { phase := .ready, slot := 2, hdr := { streamId := 3, chain := 2 }, strm := some x.id }
    let s : State := { withJob j with strm := { tab := [x] }, sched := { jobs := [(0, j)], pitch := 5000000 } }
    findStream s 2 3 = some x ∧ x.opened = true ∧ streamRuns s 2 x.id = false
      ∧ x.lastRelease + 5000000 ≤ s.sched.pitch ∧ getJob s 0 = some j := by decide

theorem wit_overdue_sweeps :
    let s : State := { svc with sched := { pitch := 4000000 }, units := [(111, { st := .inService })] }
    inService s 111 = true ∧ (unitRec s 111).reserved = false ∧ (unitRec s 111).lastPass + 4000000 ≤ s.sched.pitch := by decide

/-- A queue whose ring holds, at index 0, the header of an entry of `n` units, and whose published units are `v`. -/
def ringQ (v : Nat) : Queue := { queue9 with visible := BitVec.ofNat 32 v }
def ring (v n wait : Nat) (js : Tab Job) : State :=
  { svc with qm := { queues := [(0, { ringQ v with wait })] }, mem := if n = 0 then [] else [(0x10002000000, BitVec.ofNat 8 n)],
             sched := { jobs := js }, hbm := { ready := true } }

theorem wit_entry_fetch : ∀ e ∈ [(1, 1), (2, 2), (1, 2), (1, 0)],
    let q := ringQ e.1
    let j : Job := {}
    let s := ring e.1 e.2 0 [(0, j)]
    let h := decodeHeader (ringRead s q q.cidx.toNat 1)
    serving s = true ∧ getQueue s 0 = some q
      ∧ (jobsOf s 0).find? (fun p => p.2.phase == .granted || p.2.phase == .fetchWait) = some (0, j) ∧ j.phase = .granted
      ∧ dist q.visible q.cidx ≠ 0 ∧ (engineAccess 8 .read (unitAddr q q.cidx.toNat) 64 (some 0) (setJob 0 { j with hdr := h, entry := q.cidx } s)).1 = true
      ∧ (engineBursts 8 .read (unitSpan q (q.cidx.toNat + 1) (h.lenUnits - 1)) (some 0) (setJob 0 { j with hdr := h, entry := q.cidx } s)).1 = true
      ∧ (lenUnitsOk q h = true ↔ e.2 ≠ 0) ∧ (h.lenUnits ≤ dist q.visible q.cidx ↔ e ≠ (1, 2)) ∧ q.cidx ∉ q.skip
      ∧ (∀ p ∈ s.sched.jobs, p.1 = 0 → p.2.saltNeed = 0) := by decide +kernel

theorem wit_context_wait : ∀ e ∈ [(1, 1), (1, 2), (1, 0)], ∀ w ∈ [50001, 0],
    let r := ring e.1 e.2 w []
    let q : Queue := { ringQ e.1 with wait := w, lateRefuse := w == 0 }
    let s : State := { r with qm := { queues := [(0, q)] } }
    let h := decodeHeader (ringRead s q q.cidx.toNat 1)
    serving s = true ∧ getQueue s 0 = some q ∧ q.st = .active ∧ fld (rw s 0x10010) 0 32 = 50000 ∧ (q.lateRefuse = true ∨ 50000 < q.wait)
      ∧ (engineAccess 8 .read (unitAddr q q.cidx.toNat) 64 none s).1 = true
      ∧ (lenUnitsOk q h = true ↔ e.2 ≠ 0) ∧ dist q.visible q.cidx ≠ 0 ∧ (h.lenUnits ≤ dist q.visible q.cidx ↔ e.2 ≠ 2)
      ∧ portWaits { s with acu := { recs := [(9, { wait := true })] } } (unitAddr q q.cidx.toNat) = true := by decide +kernel

theorem wit_call_wait :
    let s : State := { ring 0 0 50000 [(0, tenantJob)] with sched := { jobs := [(0, tenantJob)], pitch := 50001 } }
    getQueue s 0 = some { ringQ 0 with wait := 50000 } ∧ callWaited s (fld (rw s 0x10010) 0 32) 0 = some (0, tenantJob) ∧ serving s = true
      ∧ (ringQ 0).lateRefuse = false := by decide

/-! ### Steps -/

theorem wit_step : ({ svc with pending := [.quoCmtGo] } : State).pending = .quoCmtGo :: [] ∧ svc.pending = [] := by decide

theorem wit_invariant : Memory.wf State.reset.mem = true ∧ (∀ p ∈ State.reset.cnt, p.2 < 2 ^ 48) ∧ (∀ p ∈ State.reset.evc.vals, p.2 < 2 ^ 48)
    ∧ step State.reset = .next State.reset := by
  refine ⟨by decide, by decide, by decide, ?_⟩
  rfl

theorem wit_boundary : dieOn State.reset = true ∧ serving State.reset = false ∧ dieOn { State.reset with sys := { mode := .vault } } = false := by decide

theorem wit_rows_that_leave_memory : mayWrite .quoCmtGo = false ∧ setsTime .quoCmtGo = false := by decide

/-! ### Single steps. The expected values are the spec's. -/

/-- The state after a command. -/
def after (i : Instr) (s : State) : State :=
  match exec i s with
  | .next t => t
  | _ => State.reset

/-- IDCODE 0x196408B3, low byte first (17 R521). -/
theorem test_idcode : (after .idcode svc).out = [.tap [0xB3, 0x08, 0x64, 0x19]] := by decide

/-- PITCH_COUNT rises at a boundary (02 R44). -/
theorem test_boundary : (after (.pitchBoundary {}) State.reset).sched.pitch = 1 := by decide +kernel

/-- A reserved bit of PITCH_CTXWAIT is not written (02 R66). -/
theorem test_register_mask : rw (after (.registerWrite 0x10010 .whole 0x1_0000_0007) svc) 0x10010 = 7 := by decide +kernel

/-- A half write of a register that takes only 64-bit accesses changes nothing (00 R14). -/
theorem test_register_half : (after (.registerWrite 0x10018 .low 5) svc).regs = [] := by decide +kernel

/-- Execution starts after the ANCHOR, and a register that is no argument is cleared (13 R376). -/
theorem test_belay : (getCore (after (.belay 2 10 5 0xABC) (gate caller)) 2).pc = 0x100004
    ∧ (getCore (after (.belay 2 10 5 0xABC) (gate caller)) 2).reg 5 = 0 := by decide +kernel

/-- A tag that differs traps with cause 24 (13 R377). -/
theorem test_belay_wrong_tag : (getCore (after (.belay 2 10 5 0xABD) (gate caller)) 2).csr 0x342 = 24 := by decide +kernel

/-- QUERY_QUEUE answers the state 1 = active, the size, the slot (04 R137, R149). -/
theorem test_query_queue : ((getJob (after (.queryQueue 0) (withQueue queue9 (qJob 5 9))) 0).bind fun k => k.result.map fun r => r.out.take 4)
    = some [1, 12, 0, 0] := by decide +kernel

/-- A stateful key gives out each leaf once (09 R270). -/
theorem test_leaf : ((getJob (after (.lmsSign 0) { withJob { phase := .ready, hdr := { opcode := 0x431, keyA := BitVec.ofNat 64 (handleOf 5 (lmsKey 1023)) } }
    with vault := { objs := [(5, lmsKey 1023)] } }) 0).bind fun k => k.leaf) = some 1023 := by decide +kernel

/-- KEY_DESTROY raises the generation of the slot (11 R314). -/
theorem test_key_destroy : tget (after (.keyDestroy 0) (withKey 0x504)).vault.gens 5 = some 8
    ∧ (after (.keyDestroy 0) (withKey 0x504)).vault.objs = [] := by decide +kernel

/-- A bus read of ENT_DATA with no word sets EMPTY_RD and gives 0 (10 R299). -/
theorem test_ent_data_empty : (after (.entDataRead true true) svc).out = [.read 0] := by decide +kernel

/-- A lane that is disabled drains (06 R202). -/
theorem test_lane_disable : (unitRec (after (.laneDisable 3) { svc with units := [(3, { st := .inService })] }) 3).st = .draining := by decide +kernel

/-- The BASE owner's request to power up a domain that is off (18 R533). -/
theorem test_power_up : (domRec (after (.pwrReqSummit 6 0) { svc with clk := { doms := [(6, { st := 0, req := 2 })] } }) 6).st = 5 := by decide +kernel

/-- A LINE-level source erases the keys and drives the line (15 R456, R458). -/
theorem test_detector : (after (.detectorAlarm [{ src := 10, value := 700, which := 1 }]) { withKey 0x100 with rwq := [(0x130000, 0, 0xFFFFFF), (0x130010, 0, 0x300 * 2 ^ 32)] }).vault.objs = [] := by
  decide +kernel

/-- The CRC-8 that SMBus names for PEC, of "123456789": the published check value 0xF4. -/
theorem test_pec : [49, 50, 51, 52, 53, 54, 55, 56, 57].foldl pecStep 0 = (0xF4 : Byte) := by decide +kernel

/-- SMBus 0x00 reads the identity 0x9640 (18 R546). -/
theorem test_smbus_id : (after (.smbusReadId {}) svc).out = [.smbus [0x40, 0x96]]
    ∧ (after (.smbusReadId { addr := 0x4D }) svc).out = [] := by decide

/-- The patrol scrub goes on after the last of the 2^28 lines, and one pass is counted (02 R68, 19 R559). -/
def scrubbed : State := after (.pitchBoundary { background := { scrubSlots := 2 } }) { State.reset with hbm := { ready := true, scrubLine := 2 ^ 28 - 1 } }

theorem test_scrub : scrubbed.hbm.scrubLine = 1 ∧ scrubbed.sched.scrubPasses = 1 := by decide +kernel

end Sys2Proof.Tests
end

section
/-! Writes of registers: what is stored, what is staged, and what the voiding of proposals leaves as it is
(00 R12-R16, 12 R357, 16 R486, R487). -/

namespace Sys2Proof.Machine

/-! ### One equation per command -/

theorem exec_registerWrite (off : Nat) (h : Half) (v : Word) (s : State) :
    exec (.registerWrite off h v) s = execRegisterWrite off h v s := rfl

theorem exec_pitchCtxwaitWrite (v : Word) (s : State) :
    exec (.pitchCtxwaitWrite v) s = .next (ctxwaitWrite v.toNat s) := rfl

theorem exec_pitchPcapWrite (v : Word) (s : State) :
    exec (.pitchPcapWrite v) s = .next (pcapWrite v.toNat s) := rfl

theorem exec_evcValWrite (n : Nat) (v : Word) (s : State) :
    exec (.evcValWrite n v) s = .next (evcSet n v.toNat s) := rfl

theorem exec_evcCtlClear (s : State) : exec .evcCtlClear s = .next (evcClear s) := rfl

theorem exec_eventCounterOverflow (n : Nat) (s : State) :
    exec (.eventCounterOverflow n) s = execEventCounterOverflow n s := rfl

/-- On a running die an aligned write reaches the register (00 R14). -/
theorem exec_registerWrite_aligned {off : Nat} (h : Half) (v : Word) {s : State} (hoff : off < 0x200000)
    (hal : off % 8 = 0) (hon : dieOn s = true) : exec (.registerWrite off h v) s = .next (csrWrite {} off h v s) := by
  rw [exec_registerWrite]
  simp [execRegisterWrite, hoff, hal, hon]

/-- On a running die an unaligned write gets an error response alone (00 R14). -/
theorem exec_registerWrite_unaligned {off : Nat} (h : Half) (v : Word) {s : State} (hoff : off < 0x200000)
    (hal : off % 8 ≠ 0) (hon : dieOn s = true) : exec (.registerWrite off h v) s = .next (emit .busError s) := by
  rw [exec_registerWrite]
  simp [execRegisterWrite, hoff, hal, hon]

/-! ### The three ways of a register write -/

theorem csrWrite_half_of_only64 (c : Writer) {off : Nat} {h : Half} (v : Word) (s : State) (h64 : only64 off = true)
    (hh : h ≠ .whole) : csrWrite c off h v s = fault64 off s := by
  simp [csrWrite, h64, hh]

theorem csrWrite_staged (c : Writer) {off m : Nat} (v : Word) (s : State) (hq : rwqMask off = some m) :
    csrWrite c off .whole v s = stagedWrite off (rwMerge (staged s off) (2 ^ 64 - 1) .whole v) s := by
  simp [csrWrite, hq]

theorem csrWrite_plain (c : Writer) {off m : Nat} (v : Word) (s : State) (hq : rwqMask off = none)
    (hb : rwBits off = some m) :
    csrWrite c off .whole v s = bankSelected off (setRw off (rwMerge (rw s off) m .whole v) s) := by
  simp [csrWrite, hq, hb]

/-! ### Values of 64 bits -/

theorem rwBits_lt {off m : Nat} (h : rwBits off = some m) : m < 2 ^ 64 := by
  unfold rwBits at h
  split at h
  -- The registers EVC_CFGn are a range of offsets, decided by a test of its own.
  all_goals try split at h
  all_goals cases h
  all_goals decide

theorem rwReset_lt (off : Nat) : rwReset off < 2 ^ 64 := by
  unfold rwReset
  iterate 8 refine iteInduction (motive := (· < 2 ^ 64)) (fun _ => by decide) fun _ => ?_
  decide

theorem acuBoot_lt {n : Nat} (h : n < 14) : (acuBoot n).1 < 2 ^ 48 := by
  unfold acuBoot
  split <;> dsimp only <;> omega

theorem putF_lt (v lo w : Nat) : putF v lo w < 2 ^ (lo + w) := by
  rw [putF, Nat.shiftLeft_eq, Nat.add_comm, Nat.pow_add]
  exact Nat.mul_lt_mul_of_pos_right (Nat.mod_lt _ (Nat.two_pow_pos w)) (Nat.two_pow_pos lo)

/-- The words of an access region under the boot rules (13 R407) fit 64 bits. -/
theorem acuBootWord_lt {n : Nat} (h : n < 14) :
    1 + putF (acuBoot n).2.1 2 6 + (acuBoot n).1 < 2 ^ 64
      ∧ 2 + putF (acuBoot n).2.2.1 2 3 + putF (acuBoot n).2.2.2 6 2 < 2 ^ 64 := by
  have hbase := acuBoot_lt h
  have hlg := putF_lt (acuBoot n).2.1 2 6
  have hperm := putF_lt (acuBoot n).2.2.1 2 3
  have hmt := putF_lt (acuBoot n).2.2.2 6 2
  omega

theorem rwqReset_lt (off : Nat) : rwqReset off < 2 ^ 64 := by
  unfold rwqReset
  iterate 11 refine iteInduction (motive := (· < 2 ^ 64)) (fun _ => by decide) fun _ => ?_
  refine iteInduction (motive := (· < 2 ^ 64)) (fun hacu => ?_) fun _ => by decide
  -- With the offset inside the region as a number of its own, no subtraction of a large numeral is left to unfold.
  obtain ⟨d, rfl⟩ := Nat.exists_eq_add_of_le hacu.1
  rw [Nat.add_sub_cancel_left] at hacu ⊢
  obtain ⟨hbase, hperm⟩ := acuBootWord_lt (n := d / 0x400) (by omega)
  dsimp only
  split
  · exact hbase
  · decide
  · exact hperm

theorem rw_lt (s : State) (off : Nat) : rw s off < 2 ^ 64 := BitVec.isLt _

/-- A whole write of an RW register: the written bits among the writable ones replace the old ones (00 R13). -/
theorem rwMerge_whole (old : Nat) {m : Nat} (v : Word) (hm : m < 2 ^ 64) :
    rwMerge old m .whole v = (old &&& (2 ^ 64 - 1 - m)) ||| (v.toNat &&& m) := by
  have : m &&& (2 ^ 64 - 1) = m := by rw [Nat.and_two_pow_sub_one_eq_mod, Nat.mod_eq_of_lt hm]
  simp only [rwMerge, halfBits, placed, this]

theorem rwMerge_all (old : Nat) (v : Word) : rwMerge old (2 ^ 64 - 1) .whole v = v.toNat := by
  rw [rwMerge_whole old v (by decide), Nat.and_two_pow_sub_one_eq_mod, Nat.mod_eq_of_lt v.isLt]
  simp

theorem rwMerge_whole_lt {old m : Nat} (v : Word) (ho : old < 2 ^ 64) (hm : m < 2 ^ 64) :
    rwMerge old m .whole v < 2 ^ 64 := by
  rw [rwMerge_whole old v hm]
  exact Nat.or_lt_two_pow (Nat.lt_of_le_of_lt Nat.and_le_left ho) (Nat.lt_of_le_of_lt Nat.and_le_left v.isLt)

/-! ### ENT_EST1 after a write of ENT_BSEL (10 R304) -/

@[simp] theorem bankSelected_regs (off : Nat) (s : State) : (bankSelected off s).regs = s.regs := by
  unfold bankSelected; split <;> rfl

@[simp] theorem rw_bankSelected (off o : Nat) (s : State) : rw (bankSelected off s) o = rw s o := by simp [rw]

theorem bankSelected_ent (off : Nat) (s : State) :
    (bankSelected off s).ent = if off = 0xE0010 then { s.ent with est1Held := none } else s.ent := by
  unfold bankSelected; split <;> rfl

/-- A plain RW register that is stored leaves every other part of the block, but for the estimate that ENT_BSEL
selects. -/
theorem bankSelected_setRw_frame (off v : Nat) (s : State) :
    { bankSelected off (setRw off v s) with regs := s.regs, ent := s.ent } = s := by
  unfold bankSelected; split <;> rfl

/-! ### Staged values and values in force -/

theorem staged_setStaged (off : Nat) {v : Nat} (s : State) (hv : v < 2 ^ 64) : staged (setStaged off v s) off = v := by
  unfold staged setStaged rwqPut
  dsimp only
  split
  next h =>
    have hr := rwqReset_lt off
    simp only [tgetD, tget_tdel_self, Option.getD_none, BitVec.toNat_ofNat]
    omega
  next => simpa [tgetD] using hv

theorem inForce_lt (s : State) (off : Nat) : inForce s off < 2 ^ 64 := BitVec.isLt _

/-- A staged write puts nothing in force (00 R16). -/
theorem inForce_setStaged (off v o : Nat) (s : State) : inForce (setStaged off v s) o = inForce s o := by
  by_cases ho : o = off
  · subst ho
    have hf : inForce s o < 2 ^ 64 := inForce_lt s o
    rw [inForce, setStaged, rwqPut]
    dsimp only
    split
    next h =>
      have hr := rwqReset_lt o
      simp only [tgetD, tget_tdel_self, Option.getD_none, BitVec.toNat_ofNat]
      omega
    next => simpa [tgetD] using hf
  · unfold inForce setStaged rwqPut
    dsimp only
    split
    · simp [tgetD, tget_tdel_ne _ ho]
    · simp [tgetD, tget_tput_ne _ _ ho]

/-! ### What the voiding of proposals leaves -/

/-- The state without the parts that the end of a proposal may change: the quorum state, the pending bits of the
interrupt sources, the rope mirror with what leaves on it, and the counters. An operation that keeps it leaves every
other part of the block. -/
def besideQuorum (s : State) : State :=
  { s with quorum := {}, world := { s.world with irqs := [] }, pair := {}, evc := {}, cnt := [], out := [] }

theorem besideQuorum_bump (b i k : Nat) (s : State) : besideQuorum (bump b i k s) = besideQuorum s := by
  unfold bump; split <;> rfl

theorem besideQuorum_evcAdd (src k : Nat) (s : State) : besideQuorum (evcAdd src k s) = besideQuorum s := by
  unfold evcAdd; split <;> rfl

theorem besideQuorum_raise (n : Nat) (s : State) : besideQuorum (raise n s) = besideQuorum s := by
  unfold raise; split <;> rfl

theorem besideQuorum_setRope (p : Nat) (r : RopePort) (s : State) : besideQuorum (setRope p r s) = besideQuorum s := by
  unfold setRope; split <;> rfl

theorem besideQuorum_addLoads (n : Nat) :
    ∀ (l : List Nat) (s : State), besideQuorum (l.foldl (addLoad n) s) = besideQuorum s
  | [], _ => rfl
  | p :: l, s => (besideQuorum_addLoads n l (addLoad n s p)).trans (besideQuorum_setRope _ _ s)

theorem besideQuorum_ropeOut (e : OutEv) (l : List Nat) (s : State) : besideQuorum (ropeOut e l s) = besideQuorum s := by
  simp only [ropeOut, besideQuorum_evcAdd, besideQuorum_bump]
  exact besideQuorum_addLoads _ l s

theorem besideQuorum_ropeEmit (cls seq : Nat) (b : RopeBody) (l : List Nat) (s : State) :
    besideQuorum (ropeEmit cls seq b l s) = besideQuorum s := by
  unfold ropeEmit
  dsimp only
  split
  · exact besideQuorum_setRope _ _ s
  · exact besideQuorum_ropeOut _ l s

theorem besideQuorum_ropeSend (cls : Nat) (b : RopeBody) (s : State) : besideQuorum (ropeSend cls b s) = besideQuorum s := by
  unfold ropeSend
  split
  · rfl
  · simp only [besideQuorum_bump, besideQuorum_ropeEmit]; rfl

theorem besideQuorum_mirror (c : Change) (s : State) : besideQuorum (mirror c s) = besideQuorum s := by
  unfold mirror
  split
  · exact besideQuorum_ropeSend _ _ s
  · rfl

theorem besideQuorum_placeJournal (r : JRec) (s : State) : besideQuorum (placeJournal r s) = besideQuorum s := by
  simp only [besideQuorum, placeJournal]

theorem besideQuorum_journal (id ev scope index cls status : Nat) (digest : List Byte) (s : State) :
    besideQuorum (journal id ev scope index cls status digest s) = besideQuorum s := by
  rw [journal, besideQuorum_mirror, besideQuorum_placeJournal]

theorem besideQuorum_mirrorQuorum (s : State) : besideQuorum (mirrorQuorum s) = besideQuorum s := by
  rw [mirrorQuorum, besideQuorum_raise]
  split
  · rfl
  · exact besideQuorum_mirror _ s

theorem besideQuorum_closeProp (slot : Nat) (p : Proposal) (ev : Nat) (s : State) :
    besideQuorum (closeProp slot p ev s) = besideQuorum s := by
  unfold closeProp
  dsimp only
  rw [besideQuorum_mirrorQuorum]
  repeat' split
  all_goals
    simp only [besideQuorum_evcAdd, besideQuorum_bump, besideQuorum_journal]
    rfl

theorem besideQuorum_closeProps (p : Proposal → Bool) :
    ∀ (l : Tab Proposal) (s : State),
      besideQuorum (l.foldl (fun t e => if p e.2 then closeProp e.1 e.2 5 t else t) s) = besideQuorum s
  | [], _ => rfl
  | e :: l, s => by
    rw [List.foldl_cons, besideQuorum_closeProps p l]
    split
    · exact besideQuorum_closeProp e.1 e.2 5 s
    · rfl

theorem besideQuorum_voidProps (p : Proposal → Bool) (s : State) : besideQuorum (voidProps p s) = besideQuorum s :=
  besideQuorum_closeProps p s.quorum.props s

@[simp] theorem voidProps_regs (p : Proposal → Bool) (s : State) : (voidProps p s).regs = s.regs :=
  (congrArg State.regs (besideQuorum_voidProps p s) :)

@[simp] theorem voidProps_rwq (p : Proposal → Bool) (s : State) : (voidProps p s).rwq = s.rwq :=
  (congrArg State.rwq (besideQuorum_voidProps p s) :)

@[simp] theorem voidProps_mem (p : Proposal → Bool) (s : State) : (voidProps p s).mem = s.mem :=
  (congrArg State.mem (besideQuorum_voidProps p s) :)

/-! ### A staged write (00 R16) -/

theorem stagedWrite_eq {off m : Nat} (v : Nat) (s : State) (hq : rwqMask off = some m) :
    ∃ p, stagedWrite off v s = setStaged off (v &&& m) (voidProps p s) := by
  rw [stagedWrite, hq]
  exact ⟨_, rfl⟩

/-- A whole write of a two-party register stages the writable bits and puts nothing in force. -/
theorem csrWrite_staged_effect (c : Writer) {off m : Nat} (v : Word) (s : State) (hq : rwqMask off = some m) :
    let t := csrWrite c off .whole v s
    staged t off = v.toNat &&& m ∧ (∀ o, inForce t o = inForce s o) ∧ t.regs = s.regs ∧ t.mem = s.mem := by
  dsimp only
  rw [csrWrite_staged c v s hq, rwMerge_all]
  obtain ⟨p, hp⟩ := stagedWrite_eq v.toNat s hq
  rw [hp]
  refine ⟨staged_setStaged off _ (Nat.lt_of_le_of_lt Nat.and_le_left v.isLt), fun o => ?_, by simp, by simp⟩
  rw [inForce_setStaged, inForce, voidProps_rwq, ← inForce]

/-! ### Event counters (16 R486) -/

theorem getLsbD_or_twoPow (x : W32) {n : Nat} (h : n < 32) : (x ||| BitVec.ofNat 32 (2 ^ n)).getLsbD n = true := by
  rw [BitVec.getLsbD_or, BitVec.getLsbD_ofNat]
  simp [h]

/-- An overflow that is due is reported: its bit, and source 5. -/
theorem execEventCounterOverflow_due {n : Nat} {s : State} (h : n ∈ s.evc.due) :
    execEventCounterOverflow n s = .next (raise 5 { s with evc := { s.evc with
      ovf := s.evc.ovf ||| BitVec.ofNat 32 (2 ^ n), due := s.evc.due.erase n } }) := by
  simp [execEventCounterOverflow, h]

/-- A plain register that is written whole (00 R13): its value, every other register, and the rest of the block. -/
theorem csrWrite_plain_effect (c : Writer) {off m : Nat} (v : Word) (s : State) (hq : rwqMask off = none)
    (hb : rwBits off = some m) :
    let t := csrWrite c off .whole v s
    rw t off = (rw s off &&& (2 ^ 64 - 1 - m)) ||| (v.toNat &&& m) ∧ (∀ o, o ≠ off → rw t o = rw s o)
      ∧ { t with regs := s.regs, ent := s.ent } = s
      ∧ t.ent = if off = 0xE0010 then { s.ent with est1Held := none } else s.ent := by
  have hm := rwBits_lt hb
  dsimp only
  rw [csrWrite_plain c v s hq hb]
  refine ⟨?_, fun o ho => ?_, bankSelected_setRw_frame off _ s, bankSelected_ent off _⟩
  · rw [rw_bankSelected, rw_setRw s off _ (rwReset_lt off), Nat.mod_eq_of_lt (rwMerge_whole_lt v (rw_lt s off) hm),
      rwMerge_whole _ v hm]
  · rw [rw_bankSelected, rw_setRw_ne s _ ho]

/-! ### The statements -/

/-- Settles O41, by the three ways that a register write can go and one equation for each row of one register. -/
theorem registerRowsWriteTheirRegisters : Obligations.RegisterRowsWriteTheirRegisters := by
  unfold Obligations.RegisterRowsWriteTheirRegisters
  refine ⟨?plain, ?unaligned, ?staged, ?half, ?ctxwait, ?pcap, ?evcVal, ?evcClear, ?overflow⟩
  case plain =>
    intro off m v s hoff hal hon hb hq
    exact ⟨_, exec_registerWrite_aligned .whole v hoff hal hon, csrWrite_plain_effect {} v s hq hb⟩
  case unaligned =>
    intro off h v s hoff hal hon
    exact exec_registerWrite_unaligned h v hoff hal hon
  case staged =>
    intro off m v s hoff hal hon hq
    exact ⟨_, exec_registerWrite_aligned .whole v hoff hal hon, csrWrite_staged_effect {} v s hq⟩
  case half =>
    intro off h v s hoff hal hon h64 hh
    refine ⟨_, exec_registerWrite_aligned h v hoff hal hon, ?_⟩
    rw [csrWrite_half_of_only64 {} v s h64 hh]
    simp [fault64]
  case ctxwait =>
    intro v s
    refine ⟨_, exec_pitchCtxwaitWrite v s, ?_, fun o ho => rw_setRw_ne s _ ho, rfl⟩
    rw [ctxwaitWrite, rw_setRw s _ _ (rwReset_lt _)]
    omega
  case pcap => exact exec_pitchPcapWrite
  case evcVal =>
    intro n v s hn
    rw [exec_evcValWrite, evcSet, if_pos hn]
  case evcClear => exact exec_evcCtlClear
  case overflow =>
    intro n s hn hdue
    refine ⟨_, (exec_eventCounterOverflow n s).trans (execEventCounterOverflow_due hdue), ?_, raise_pend _ 5 (by omega), ?_, ?_⟩
    · rw [raise_evc]
      exact getLsbD_or_twoPow s.evc.ovf hn
    · rw [raise_evc]
    · rw [raise_evc]

/-- Settles O56, by the two equations of `step`. -/
theorem stepRunsTheFrontCommand : Obligations.StepRunsTheFrontCommand := by
  unfold Obligations.StepRunsTheFrontCommand
  refine ⟨fun c rest s h => ?_, fun s h => ?_⟩ <;> rw [step, h]

end Sys2Proof.Machine
end

section
/-! The queue commands: what a firmware entry that has no mirrored result answers, and what each queue command
makes of the queues (04 R137-R142). -/

namespace Sys2Proof.Machine

/-! ### Firmware entries without a mirrored result -/

@[simp] theorem mirror_qm (c : Change) (s : State) : (mirror c s).qm = s.qm :=
  (congrArg State.qm (besideQuorum_mirror c s) :)

@[simp] theorem mirrorMade_qm (s0 : State) (j : Job) (r : Res) (s : State) : (mirrorMade s0 j r s).qm = s.qm := by
  unfold mirrorMade
  dsimp only
  split
  · exact mirror_qm _ s
  · rfl

@[simp] theorem stageDone_qm (ctx : Nat) (j : Job) (r : Res) (s : State) : (stageDone ctx j r s).qm = s.qm := rfl

@[simp] theorem stageOwn_qm (s0 : State) (ctx : Nat) (j : Job) (r : Res) (s : State) :
    (stageOwn s0 ctx j r s).qm = s.qm := by
  simp [stageOwn]

theorem stageDone_holds (ctx : Nat) (j : Job) (r : Res) (s : State) : Holds (stageDone ctx j r s) ctx r :=
  (stage_spec ctx _ r s).1

/-- No slot without an object in `s` has one in a state with the same vault. -/
theorem createdObjs_of_vault_eq {s t : State} (h : t.vault = s.vault) (j : Job) : createdObjs s t j = [] := by
  simp [createdObjs, h]

/-- An entry that has changed nothing but its job has nothing to mirror. -/
theorem mirrorMade_setJob (ctx : Nat) (k j : Job) (r : Res) (s : State) :
    mirrorMade s j r (setJob ctx k s) = setJob ctx k s := by
  have hg : gate1 (setJob ctx k s) = gate1 s := rfl
  simp [mirrorMade, createdObjs_of_vault_eq (setJob_vault s ctx k), hg]

theorem stageOwn_setJob_jobAlone (ctx : Nat) (k j : Job) (r : Res) (s : State) :
    JobAlone ctx s (stageOwn s ctx j r (setJob ctx k s)) := by
  rw [stageOwn, mirrorMade_setJob]
  refine ⟨rfl, fun c hc => ?_⟩
  exact (getJob_setJob_ne _ _ hc).trans (getJob_setJob_ne _ _ hc)

theorem asAdmin_fresh {op ctx : Nat} {s : State} {j : Job} (f : Job → State) (h : adminFor s ctx op = some j)
    (hr : j.result = none) : asAdmin op ctx f s = f (beginAdmin j s) := by
  have hn : replayResult j = none := by simp [replayResult, hr]
  simp only [asAdmin, h, hn]

theorem runAdmin_fresh {op ctx : Nat} {s : State} {j : Job} (f : Job → State → State × Res)
    (h : adminFor s ctx op = some j) (hr : j.result = none) :
    runAdmin op ctx f s =
      let r := f (beginAdmin j s) (setJob ctx (beginAdmin j s) s)
      stageOwn s ctx ((getJob r.1 ctx).getD (beginAdmin j s)) r.2 r.1 :=
  asAdmin_fresh _ h hr

/-- A row that completes at once answers what its function gives for the job whose execution has begun: it is enough
that `P` holds of that result and of every state in which the answered job is staged. -/
theorem adminAnswers_of_runAdmin {op : Nat} {c : Nat → Instr} {f : Job → State → State × Res}
    {P : Nat → Job → State → State → Res → Prop} (hc : ∀ ctx s, exec (c ctx) s = .next (runAdmin op ctx f s))
    (hP : ∀ (ctx : Nat) (s : State) (j k : Job), j.result = none →
      let r := f (beginAdmin j s) (setJob ctx (beginAdmin j s) s)
      P ctx j s (stageOwn s ctx k r.2 r.1) r.2) :
    AdminAnswers [(op, c)] P := by
  intro p hp ctx s j h hr
  obtain rfl := List.mem_singleton.mp hp
  rw [hc, runAdmin_fresh f h hr]
  exact ⟨_, _, rfl, stageDone_holds .., hP ctx s j _ hr⟩

/-! ### One equation per command -/

theorem exec_createQueue (ctx : Nat) (s : State) :
    exec (.createQueue ctx) s = .next (runAdmin 1 ctx createQueue s) := rfl

theorem exec_resizeQueue (ctx : Nat) (s : State) :
    exec (.resizeQueue ctx) s = .next (runAdmin 2 ctx resizeQueue s) := rfl

theorem exec_resetQueue (ctx : Nat) (s : State) : exec (.resetQueue ctx) s = .next (tearQueue 3 1 ctx s) := rfl

theorem exec_destroyQueue (ctx : Nat) (s : State) : exec (.destroyQueue ctx) s = .next (tearQueue 4 2 ctx s) := rfl

theorem exec_queryQueue (ctx : Nat) (s : State) :
    exec (.queryQueue ctx) s = .next (runAdmin 5 ctx queryQueue s) := rfl

/-! ### CREATE_QUEUE (04 R137-R139) -/

@[simp] theorem mirrorQueue_qm (q : Queue) (s : State) : (mirrorQueue q s).qm = s.qm := mirror_qm _ s

/-- The queue that CREATE_QUEUE makes on the ring at `base`: active, with every index at INIT_IDX. -/
def createdQueue (j : Job) (s : State) (base : Nat) : Queue :=
  let idx : W32 := BitVec.ofNat 32 (j.hdr.p1 0 32)
  { sizeLog2 := sizeOf j, qnum := qnumOf j, session := jobSession s j, part := (jobSender s j).part, base := base
    applied := idx, visible := idx, cidx := idx, chead := idx, rhead := idx }

section
variable {j : Job} {s : State} {slot base : Nat} {q : Queue} (hr : j.result = none)
include hr

theorem createQueue_of_qnum_zero (h0 : qnumOf j = 0) : createQueue j s = fail stBadQueue s := by
  simp [createQueue, hr, h0]

theorem createQueue_of_in_use (h0 : qnumOf j ≠ 0) (hq : queueOf s (jobSession s j) (qnumOf j) = some (slot, q))
    (hst : q.st = .active) (hask : q.tearAsk = 0) : createQueue j s = fail stBadQueue s := by
  simp [createQueue, hr, h0, hq, hst, hask]

theorem createQueue_of_new (h0 : qnumOf j ≠ 0) (hq : queueOf s (jobSession s j) (qnumOf j) = none)
    (hslot : freeQueueSlot s = some slot) (hbase : allocRing s (sizeOf j) = some base) :
    createQueue j s =
      let q := createdQueue j s base
      (mirrorQueue q (setQueue slot q s), ringOut slot (sizeOf j)) := by
  simp [createQueue, createdQueue, hr, h0, hq, hslot, hbase]

/-! ### RESIZE_QUEUE (04 R140) -/

theorem resizeQueue_of_busy (h0 : qnumOf j ≠ 0) (hq : queueOf s (jobSession s j) (qnumOf j) = some (slot, q))
    (hb : q.applied ≠ q.chead) : resizeQueue j s = fail stQueueBusy s := by
  simp [resizeQueue, hr, h0, hq, hb]

theorem resizeQueue_of_idle (h0 : qnumOf j ≠ 0) (hq : queueOf s (jobSession s j) (qnumOf j) = some (slot, q))
    (hi : q.applied = q.chead) (hbase : allocRing s (sizeOf j) = some base) :
    resizeQueue j s =
      let q1 := { q with sizeLog2 := sizeOf j, base := base, ahead := [] }
      (mirrorQueue q1 (setQueue slot q1 s), ringOut slot (sizeOf j)) := by
  simp [resizeQueue, hr, h0, hq, hi, hbase]

end

/-! ### RESET_QUEUE and DESTROY_QUEUE (04 R142, R146) -/

/-- What the session of the job keeps of a teardown of this kind that ended before the command came (04 R146). -/
def endedTeardown (kind : Nat) (j : Job) (s : State) : Option (Nat × Bool × Res) :=
  (getSess s (jobSession s j)).bind fun x => x.torn.find? fun e => e.1 == qnumOf j && e.2.1 == decide (kind = 2)

/-- `tearQueue` looks for an ended teardown together with its session, so as to take it from there. -/
theorem torn_lookup_none {kind : Nat} {j : Job} {s : State} (he : endedTeardown kind j s = none) :
    ((getSess s (jobSession s j)).bind fun x =>
      (x.torn.find? fun e => e.1 == qnumOf j && e.2.1 == decide (kind = 2)).map fun e => (x, e.2.2)) = none :=
  Option.bind_eq_none_iff.mpr fun x hx => Option.map_eq_none_iff.mpr (Option.bind_eq_none_iff.mp he x hx)

theorem torn_lookup_some {kind : Nat} {j : Job} {s : State} {e : Nat × Bool × Res} (he : endedTeardown kind j s = some e) :
    ∃ x, ((getSess s (jobSession s j)).bind fun x =>
      (x.torn.find? fun e => e.1 == qnumOf j && e.2.1 == decide (kind = 2)).map fun e => (x, e.2.2)) = some (x, e.2.2) := by
  obtain ⟨x, hx, hf⟩ := Option.bind_eq_some_iff.mp he
  exact ⟨x, by simp only [hx, hf, Option.bind_some, Option.map_some]⟩

section
variable {op kind ctx slot : Nat} {j : Job} {s : State} {q : Queue} {e : Nat × Bool × Res}
  (h : adminFor s ctx op = some j) (hr : j.result = none)
include h hr

theorem tearQueue_of_ended (he : endedTeardown kind j s = some e) :
    ∃ x, tearQueue op kind ctx s = stageDone ctx (beginAdmin j s) e.2.2 (setSess (jobSession s j) x s) := by
  obtain ⟨x, hx⟩ := torn_lookup_some (j := beginAdmin j s) he
  rw [tearQueue, asAdmin_fresh _ h hr]
  simp only [hx]
  exact ⟨_, rfl⟩

theorem tearQueue_of_active (he : endedTeardown kind j s = none) (h0 : qnumOf j ≠ 0)
    (hq : queueOf s (jobSession s j) (qnumOf j) = some (slot, q)) (hst : q.st = .active) :
    tearQueue op kind ctx s =
      setJob ctx (beginAdmin j s) (setQueue slot { q with tearAsk := kind, tearJob := some ctx } s) := by
  have hn := torn_lookup_none (j := beginAdmin j s) he
  have hf : ((queueOf s (jobSession s (beginAdmin j s)) (qnumOf (beginAdmin j s))).filter
      fun _ => qnumOf (beginAdmin j s) != 0) = some (slot, q) :=
    Option.filter_eq_some_iff.mpr ⟨hq, bne_iff_ne.mpr h0⟩
  rw [tearQueue, asAdmin_fresh _ h hr]
  simp only [hn, hf, hst, if_true]

theorem tearQueue_of_missing (he : endedTeardown kind j s = none) (hq : queueOf s (jobSession s j) (qnumOf j) = none) :
    tearQueue op kind ctx s = stageDone ctx (beginAdmin j s) { status := stBadQueue } s := by
  have hn := torn_lookup_none (j := beginAdmin j s) he
  have hq' : queueOf s (jobSession s (beginAdmin j s)) (qnumOf (beginAdmin j s)) = none := hq
  rw [tearQueue, asAdmin_fresh _ h hr]
  simp only [hn, hq', Option.filter_none]

end

/-! ### QUERY_QUEUE (04 R138) -/

theorem queryQueue_state (j : Job) (s : State) : (queryQueue j s).1 = s := by
  unfold queryQueue
  split <;> rfl

theorem queryQueue_of_missing {j : Job} {s : State} (hq : queueOf s (jobSession s j) (qnumOf j) = none) :
    queryQueue j s = fail stBadQueue s := by
  simp [queryQueue, hq]

/-- The 24 bytes of an existing queue: 20 of its record, then the jobs in flight and two zeros. -/
theorem queryQueue_of_found {j : Job} {s : State} {slot : Nat} {q : Queue}
    (hq : queueOf s (jobSession s j) (qnumOf j) = some (slot, q)) :
    let r := (queryQueue j s).2
    r.status = stOk ∧ r.out.length = 24
      ∧ r.out.take 20 = leBytes 1 q.st.code ++ leBytes 1 q.sizeLog2 ++ leBytes 2 slot ++ leBytes 4 q.applied.toNat
          ++ leBytes 4 q.visible.toNat ++ leBytes 4 q.cidx.toNat ++ leBytes 4 q.chead.toNat := by
  simp only [queryQueue, hq]
  refine ⟨rfl, by simp, ?_⟩
  rw [List.append_assoc]
  exact List.take_left' (by simp)

/-! ### The statement -/

/-- Settles O16, by the outcomes of the five commands on a job whose execution has begun. -/
theorem queueCommandsAnswer : Obligations.QueueCommandsAnswer := by
  unfold Obligations.QueueCommandsAnswer
  refine ⟨adminAnswers_of_runAdmin exec_createQueue ?create, adminAnswers_of_runAdmin exec_resizeQueue ?resize, ?tear,
    adminAnswers_of_runAdmin exec_queryQueue ?query⟩
  case create =>
    intro ctx s j k hr r
    rw [stageOwn_qm]
    refine ⟨fun h0 => ?_, fun slot q h0 hq hst hask => ?_, fun slot base h0 hq hslot hbase => ?_⟩
    · have e : r = fail stBadQueue _ := createQueue_of_qnum_zero hr h0
      rw [e]
      exact ⟨rfl, rfl⟩
    · have e : r = fail stBadQueue _ := createQueue_of_in_use hr h0 hq hst hask
      rw [e]
      exact ⟨rfl, rfl⟩
    · have e := createQueue_of_new (j := beginAdmin j s) (s := setJob ctx (beginAdmin j s) s) hr h0 hq hslot hbase
      rw [show r = _ from e]
      refine ⟨rfl, rfl, createdQueue _ _ base, ?_, rfl, rfl, rfl, rfl, rfl, rfl, rfl, rfl⟩
      rw [mirrorQueue_qm]
      exact tget_tput_self ..
  case resize =>
    intro ctx s j k hr r slot q h0 hq
    rw [stageOwn_qm]
    refine ⟨fun hb => ?_, fun base hi hbase => ?_⟩
    · have e : r = fail stQueueBusy _ := resizeQueue_of_busy hr h0 hq hb
      rw [e]
      exact ⟨rfl, rfl⟩
    · have e := resizeQueue_of_idle (j := beginAdmin j s) (s := setJob ctx (beginAdmin j s) s) hr h0 hq hi hbase
      rw [show r = _ from e]
      refine ⟨rfl, ?_⟩
      rw [mirrorQueue_qm]
      rfl
  case tear =>
    intro p hp ctx s j h hr ended
    have hc : exec (p.2.1 ctx) s = .next (tearQueue p.1 p.2.2 ctx s) := by
      obtain rfl | rfl : p = _ ∨ p = _ := by simpa using hp
      · exact exec_resetQueue ctx s
      · exact exec_destroyQueue ctx s
    rw [hc]
    refine ⟨fun e he => ?_, fun he => ⟨fun slot q h0 hq hst => ?_, fun hq => ?_⟩⟩
    · obtain ⟨x, hx⟩ := tearQueue_of_ended h hr he
      rw [hx]
      exact ⟨_, rfl, rfl, stageDone_holds ..⟩
    · rw [tearQueue_of_active h hr he h0 hq hst]
      exact ⟨_, rfl, tget_tput_self .., _, getJob_setJob .., rfl, rfl⟩
    · rw [tearQueue_of_missing h hr he hq]
      exact ⟨_, rfl, rfl, stageDone_holds ..⟩
  case query =>
    intro ctx s j k hr r
    have hs : r.1 = setJob ctx (beginAdmin j s) s := queryQueue_state _ _
    refine ⟨?_, fun hq => ?_, fun slot q hq => queryQueue_of_found hq⟩
    · rw [hs]
      exact stageOwn_setJob_jobAlone ..
    · exact congrArg Prod.snd (queryQueue_of_missing (j := beginAdmin j s) (s := setJob ctx (beginAdmin j s) s) hq)

end Sys2Proof.Machine
end

section
/-! Byte strings cut into blocks and put under key streams: what XOR gives twice, and how long the blocks are and
what is made of them. -/

namespace Sys2Proof.Machine

/-! ### XOR -/

@[simp] theorem xorBytes_length (a b : List Byte) : (xorBytes a b).length = min a.length b.length :=
  List.length_zipWith

/-- XOR with a key stream that covers the data, twice, gives the data back. -/
theorem xorBytes_cancel : ∀ {d k : List Byte}, d.length ≤ k.length → xorBytes (xorBytes d k) k = d
  | [], _, _ => rfl
  | x :: d, [], h => absurd h (by simp)
  | x :: d, y :: k, h => by
    have ih : xorBytes (xorBytes d k) k = d := xorBytes_cancel (Nat.le_of_succ_le_succ h)
    simpa [xorBytes, BitVec.xor_assoc] using ih

/-- Under a key stream that begins with a block of `n` bytes, the first `n` bytes of the data take that block. -/
theorem xorBytes_append_right (d : List Byte) {o : List Byte} (r : List Byte) {n : Nat} (ho : o.length = n) :
    xorBytes d (o ++ r) = xorBytes (d.take n) o ++ xorBytes (d.drop n) r := by
  subst ho
  rw [← List.take_append_drop o.length (xorBytes d (o ++ r))]
  simp [xorBytes, List.take_zipWith, List.drop_zipWith]

/-! ### Blocks -/

theorem ceilDiv_eq (a : Nat) {n : Nat} (hn : 0 < n) : ceilDiv a n = (a + n - 1) / n := if_neg (Nat.ne_of_gt hn)

@[simp] theorem ceilDiv_zero (n : Nat) : ceilDiv 0 n = 0 := by
  obtain rfl | hn := Nat.eq_zero_or_pos n
  · rfl
  · rw [ceilDiv_eq 0 hn]
    exact Nat.div_eq_of_lt (by omega)

/-- A first block of `n` leaves one block less. -/
theorem ceilDiv_eq_succ {a n : Nat} (hn : 0 < n) (ha : 0 < a) : ceilDiv a n = ceilDiv (a - n) n + 1 := by
  rw [ceilDiv_eq a hn, ceilDiv_eq (a - n) hn, show a + n - 1 = a - 1 + n by omega, Nat.add_div_right _ hn]
  refine congrArg (· + 1) ?_
  obtain h | h := Nat.le_total a n
  · have hl : a - 1 < n := by omega
    have hr : a - n + n - 1 < n := by omega
    rw [Nat.div_eq_of_lt hl, Nat.div_eq_of_lt hr]
  · exact congrArg (· / n) (by omega)

theorem le_mul_ceilDiv (a : Nat) {n : Nat} (hn : 0 < n) : a ≤ n * ceilDiv a n := by
  have hdiv := Nat.div_add_mod (a + n - 1) n
  have hmod := Nat.mod_lt (a + n - 1) hn
  rw [ceilDiv_eq a hn]
  omega

theorem mul_lt_of_lt_ceilDiv {a n i : Nat} (hn : 0 < n) (h : i < ceilDiv a n) : n * i < a := by
  rw [ceilDiv_eq a hn] at h
  have hle : (i + 1) * n ≤ a + n - 1 := (Nat.le_div_iff_mul_le hn).mp h
  rw [Nat.succ_mul, Nat.mul_comm] at hle
  omega

@[simp] theorem length_blocksOf (n : Nat) (b : List Byte) : (blocksOf n b).length = ceilDiv b.length n := by
  simp [blocksOf]

theorem length_of_mem_blocksOf {n : Nat} {b x : List Byte} (h : x ∈ blocksOf n b) :
    ∃ i < ceilDiv b.length n, x.length = min n (b.length - n * i) := by
  obtain ⟨i, hi, rfl⟩ := List.mem_map.mp h
  exact ⟨i, List.mem_range.mp hi, by simp [sliceB]⟩

theorem length_le_of_mem_blocksOf {n : Nat} {b x : List Byte} (h : x ∈ blocksOf n b) : x.length ≤ n := by
  obtain ⟨i, _, hx⟩ := length_of_mem_blocksOf h
  exact hx ▸ Nat.min_le_left ..

/-- The blocks of whole blocks are all whole. -/
theorem length_eq_of_mem_blocksOf {n : Nat} {b x : List Byte} (hn : 0 < n) (hb : n ∣ b.length)
    (h : x ∈ blocksOf n b) : x.length = n := by
  obtain ⟨i, hi, hx⟩ := length_of_mem_blocksOf h
  obtain ⟨k, hk⟩ := hb
  have hik : i < k := Nat.lt_of_mul_lt_mul_left (hk ▸ mul_lt_of_lt_ceilDiv hn hi)
  rw [hx, hk, ← Nat.mul_sub]
  exact Nat.min_eq_left (Nat.le_mul_of_pos_right n (Nat.sub_pos_of_lt hik))

/-- Larger blocks cut from whole blocks of `m` bytes are whole blocks of `m` bytes, the last one too. -/
theorem dvd_length_of_mem_blocksOf {m n : Nat} {b x : List Byte} (hn : m ∣ n) (hb : m ∣ b.length)
    (h : x ∈ blocksOf n b) : m ∣ x.length := by
  obtain ⟨i, _, hx⟩ := length_of_mem_blocksOf h
  rw [hx, Nat.min_def]
  split
  · exact hn
  · exact Nat.dvd_sub hb (Nat.dvd_mul_right_of_dvd hn i)

/-- Data that are not empty are a first block and the blocks of the rest. -/
theorem blocksOf_eq_cons {n : Nat} {b : List Byte} (hn : 0 < n) (hb : b ≠ []) :
    blocksOf n b = b.take n :: blocksOf n (b.drop n) := by
  have hc : ceilDiv b.length n = ceilDiv (b.drop n).length n + 1 := by
    rw [List.length_drop]
    exact ceilDiv_eq_succ hn (List.length_pos_iff.mpr hb)
  have hhead : sliceB b (n * 0) n = b.take n := by rw [Nat.mul_zero, sliceB, List.drop_zero]
  have htail (i : Nat) : sliceB b (n * (i + 1)) n = sliceB (b.drop n) (n * i) n := by
    rw [sliceB, sliceB, List.drop_drop, Nat.mul_succ, Nat.add_comm]
  rw [blocksOf, hc, List.range_succ_eq_map, List.map_cons, List.map_map, hhead]
  exact congrArg (b.take n :: ·) (List.map_congr_left fun i _ => htail i)

@[simp] theorem blocksOf_nil (n : Nat) : blocksOf n [] = [] := by
  rw [blocksOf, List.length_nil, ceilDiv_zero]
  rfl

/-- Induction over the blocks of some data. -/
theorem blocks_induction {P : List Byte → Prop} {n : Nat} (hn : 0 < n) (nil : P [])
    (block : ∀ b, b ≠ [] → P (b.drop n) → P b) (b : List Byte) : P b := by
  by_cases hb : b = []
  · exact hb ▸ nil
  · exact block b hb (blocks_induction hn nil block (b.drop n))
termination_by b.length
decreasing_by
  have := List.length_pos_iff.mpr hb
  rw [List.length_drop]
  omega

theorem flatten_blocksOf {n : Nat} (hn : 0 < n) (b : List Byte) : (blocksOf n b).flatten = b := by
  induction b using blocks_induction hn with
  | nil => simp
  | block b hb ih => rw [blocksOf_eq_cons hn hb, List.flatten_cons, ih, List.take_append_drop]

/-! ### What is made of blocks, block by block -/

/-- Blocks that are replaced by as long ones, at any position. -/
theorem length_flatten_mapIdx {l : List (List Byte)} (f : Nat → List Byte → List Byte)
    (h : ∀ i, ∀ x ∈ l, (f i x).length = x.length) : (l.mapIdx f).flatten.length = l.flatten.length := by
  rw [List.length_flatten, List.length_flatten]
  refine congrArg List.sum (List.ext_getElem (by simp) fun i h1 h2 => ?_)
  simpa using h i _ (List.getElem_mem _)

theorem length_flatten_map {l : List (List Byte)} (f : List Byte → List Byte)
    (h : ∀ x ∈ l, (f x).length = x.length) : (l.map f).flatten.length = l.flatten.length := by
  rw [List.length_flatten, List.length_flatten, List.map_map]
  exact congrArg List.sum (List.map_congr_left h)

/-- Blocks that are combined with the blocks of another list, none shorter. -/
theorem length_flatten_zipWith (f : List Byte → List Byte → List Byte) : ∀ {l m : List (List Byte)},
    l.length ≤ m.length → (∀ x ∈ l, ∀ y ∈ m, (f x y).length = x.length) →
    (List.zipWith f l m).flatten.length = l.flatten.length
  | [], _, _, _ => by simp
  | x :: l, [], hl, _ => absurd hl (by simp)
  | x :: l, y :: m, hl, h => by
    have ih := length_flatten_zipWith f (l := l) (m := m) (Nat.le_of_succ_le_succ hl)
      fun a ha b hb => h a (.tail _ ha) b (.tail _ hb)
    simp [h x (.head _) y (.head _), ih]

/-- A chain that appends as many bytes as each block has. -/
theorem length_foldl_append (f : List Byte × List Byte → List Byte → List Byte × List Byte) :
    ∀ {l : List (List Byte)} (r : List Byte × List Byte),
    (∀ r, ∀ x ∈ l, (f r x).2.length = r.2.length + x.length) →
    (l.foldl f r).2.length = r.2.length + l.flatten.length
  | [], r, _ => by simp
  | x :: l, r, h => by
    rw [List.foldl_cons, length_foldl_append f (l := l) _ fun r y hy => h r y (.tail _ hy), h r x (.head _)]
    simp [Nat.add_assoc]

/-! ### Key streams of blocks -/

section
variable {m : Nat} {f : Nat → List Byte}

theorem length_keyStream (hf : ∀ i, (f i).length = m) (n : Nat) :
    ((List.range n).map f).flatten.length = m * n := by
  have h : (List.range n).map (List.length ∘ f) = List.replicate n m :=
    List.eq_replicate_iff.mpr ⟨by simp, fun x hx => by
      obtain ⟨i, _, rfl⟩ := List.mem_map.mp hx
      exact hf i⟩
  rw [List.length_flatten, List.map_map, h, List.sum_replicate_nat, Nat.mul_comm]

theorem le_length_keyStream (hm : 0 < m) (hf : ∀ i, (f i).length = m) (n : Nat) :
    n ≤ ((List.range (ceilDiv n m)).map f).flatten.length := by
  rw [length_keyStream hf]
  exact le_mul_ceilDiv n hm

/-- Data under a key stream of enough blocks are as long as before. -/
theorem length_under_keyStream (hm : 0 < m) (hf : ∀ i, (f i).length = m) (d : List Byte) :
    (xorBytes d ((List.range (ceilDiv d.length m)).map f).flatten).length = d.length := by
  rw [xorBytes_length]
  exact Nat.min_eq_left (le_length_keyStream hm hf _)

end

end Sys2Proof.Machine
end

section
/-! The modes of the block ciphers: how long what they make is, and the key streams that undo themselves (06 R185,
R186, R188, R191). -/

namespace Sys2Proof.Machine

@[simp] theorem aesBlock_length (key b : List Byte) : (aesBlock key b).length = 16 := crypto_length ..
@[simp] theorem aesInverse_length (key b : List Byte) : (aesInverse key b).length = 16 := crypto_length ..
@[simp] theorem chachaBlock_length (key nonce : List Byte) (i : Nat) : (chachaBlock key nonce i).length = 64 :=
  crypto_length ..

/-! ### ECB, CBC and XTS over whole blocks -/

section
variable {c : Cipher} {d : List Byte} (hc : 0 < c.len) (hd : c.len ∣ d.length)
include hc hd

theorem ecbEnc_length (key : List Byte) (he : ∀ b, (c.enc key b).length = c.len) : (ecbEnc c key d).length = d.length := by
  rw [ecbEnc, length_flatten_map _ fun x hx => ?_, flatten_blocksOf hc]
  rw [he, length_eq_of_mem_blocksOf hc hd hx]

theorem ecbDec_length (key : List Byte) (he : ∀ b, (c.dec key b).length = c.len) : (ecbDec c key d).length = d.length := by
  rw [ecbDec, length_flatten_map _ fun x hx => ?_, flatten_blocksOf hc]
  rw [he, length_eq_of_mem_blocksOf hc hd hx]

theorem cbcEnc_length (key iv : List Byte) (he : ∀ b, (c.enc key b).length = c.len) :
    (cbcEnc c key iv d).length = d.length := by
  rw [cbcEnc, length_foldl_append _ _ fun r x hx => ?_, flatten_blocksOf hc, List.length_nil, Nat.zero_add]
  rw [List.length_append, he, length_eq_of_mem_blocksOf hc hd hx]

theorem cbcDec_length (key : List Byte) {iv : List Byte} (he : ∀ b, (c.dec key b).length = c.len)
    (hiv : iv.length = c.len) : (cbcDec c key iv d).length = d.length := by
  have hl {x : List Byte} (hx : x ∈ blocksOf c.len d) : x.length = c.len := length_eq_of_mem_blocksOf hc hd hx
  rw [cbcDec, length_flatten_zipWith _ (by simp) fun x hx p hp => ?_, flatten_blocksOf hc]
  have hp' : p.length = c.len := (List.mem_cons.mp hp).elim (fun e => e ▸ hiv) hl
  rw [xorBytes_length, he, hp', hl hx, Nat.min_self]

end

/-- XTS over data units of whole blocks. -/
theorem xtsMode_length {f : List Byte → List Byte → List Byte} (key : List Byte) (dun : Nat) {du : Nat} {d : List Byte}
    (hf : ∀ k b, (f k b).length = 16) (hpos : 0 < du) (hdu : 16 ∣ du) (hd : 16 ∣ d.length) :
    (xtsMode f key dun du d).length = d.length := by
  rw [xtsMode, length_flatten_mapIdx _ fun i x hx => ?_, flatten_blocksOf hpos]
  have hx16 : 16 ∣ x.length := dvd_length_of_mem_blocksOf hdu hd hx
  rw [length_flatten_mapIdx _ fun j y hy => ?_, flatten_blocksOf (by decide)]
  have hy16 : y.length = 16 := length_eq_of_mem_blocksOf (by decide) hx16 hy
  simp [hf, hy16]

/-! ### CFB and OFB -/

@[simp] theorem cfbEnc_length (key iv d : List Byte) : (cfbEnc key iv d).length = d.length := by
  rw [cfbEnc, length_foldl_append _ _ fun r x hx => ?_, flatten_blocksOf (by decide), List.length_nil, Nat.zero_add]
  simp [length_le_of_mem_blocksOf hx]

@[simp] theorem cfbDec_length (key iv d : List Byte) : (cfbDec key iv d).length = d.length := by
  rw [cfbDec, length_flatten_zipWith _ (by simp) fun x hx p _ => ?_, flatten_blocksOf (by decide)]
  simp [length_le_of_mem_blocksOf hx]

/-- The key stream of OFB: `n` blocks, each the encryption of the one before. -/
def ofbStream (key : List Byte) : List Byte → Nat → List Byte
  | _, 0 => []
  | v, n + 1 => aesBlock key v ++ ofbStream key (aesBlock key v) n

@[simp] theorem ofbStream_length (key : List Byte) : ∀ (v : List Byte) (n : Nat), (ofbStream key v n).length = 16 * n
  | _, 0 => rfl
  | v, n + 1 => by simp [ofbStream, ofbStream_length key _ n, Nat.mul_succ, Nat.add_comm]

/-- OFB is an XOR with its key stream. -/
theorem ofbMode_eq (key iv d : List Byte) :
    ofbMode key iv d = xorBytes d (ofbStream key iv (blocksOf 16 d).length) := by
  suffices h : ∀ v acc, ((blocksOf 16 d).foldl (fun (r : List Byte × List Byte) p =>
      let o := aesBlock key r.1
      (o, r.2 ++ xorBytes p o)) (v, acc)).2 = acc ++ xorBytes d (ofbStream key v (blocksOf 16 d).length) from h iv []
  induction d using blocks_induction (n := 16) (by decide) with
  | nil => simp [xorBytes]
  | block d hd ih =>
    intro v acc
    rw [blocksOf_eq_cons (by decide) hd, List.foldl_cons, List.length_cons, ofbStream,
      xorBytes_append_right d _ (aesBlock_length ..), ih, List.append_assoc]

theorem le_length_ofbStream (key v d : List Byte) : d.length ≤ (ofbStream key v (blocksOf 16 d).length).length := by
  rw [ofbStream_length, length_blocksOf]
  exact le_mul_ceilDiv _ (by decide)

@[simp] theorem ofbMode_length (key iv d : List Byte) : (ofbMode key iv d).length = d.length := by
  rw [ofbMode_eq, xorBytes_length]
  exact Nat.min_eq_left (le_length_ofbStream ..)

theorem ofbMode_ofbMode (key iv d : List Byte) : ofbMode key iv (ofbMode key iv d) = d := by
  rw [ofbMode_eq key iv (ofbMode key iv d), length_blocksOf, ofbMode_length, ← length_blocksOf, ofbMode_eq]
  exact xorBytes_cancel (le_length_ofbStream ..)

/-! ### Counter modes -/

@[simp] theorem ctrMode_length (key b d : List Byte) : (ctrMode key b d).length = d.length :=
  length_under_keyStream (by decide) (fun _ => aesBlock_length ..) d

@[simp] theorem gcmCrypt_length (key iv d : List Byte) : (gcmCrypt key iv d).length = d.length := ctrMode_length ..

@[simp] theorem ccmCrypt_length (key nonce d : List Byte) : (ccmCrypt key nonce d).length = d.length :=
  length_under_keyStream (by decide) (fun _ => aesBlock_length ..) d

@[simp] theorem sivCrypt_length (key nonce tag d : List Byte) : (sivCrypt key nonce tag d).length = d.length :=
  length_under_keyStream (by decide) (fun _ => aesBlock_length ..) d

@[simp] theorem chachaCrypt_length (key nonce d : List Byte) : (chachaCrypt key nonce d).length = d.length :=
  length_under_keyStream (by decide) (fun _ => chachaBlock_length ..) d

theorem ctrMode_ctrMode (key b d : List Byte) : ctrMode key b (ctrMode key b d) = d := by
  rw [ctrMode, ctrMode_length]
  exact xorBytes_cancel (le_length_keyStream (by decide) (fun _ => aesBlock_length ..) _)

theorem gcmCrypt_gcmCrypt (key iv d : List Byte) : gcmCrypt key iv (gcmCrypt key iv d) = d := ctrMode_ctrMode ..

theorem ccmCrypt_ccmCrypt (key nonce d : List Byte) : ccmCrypt key nonce (ccmCrypt key nonce d) = d := by
  rw [ccmCrypt, ccmCrypt_length]
  exact xorBytes_cancel (le_length_keyStream (by decide) (fun _ => aesBlock_length ..) _)

theorem chachaCrypt_chachaCrypt (key nonce d : List Byte) : chachaCrypt key nonce (chachaCrypt key nonce d) = d := by
  rw [chachaCrypt, chachaCrypt_length]
  exact xorBytes_cancel (le_length_keyStream (by decide) (fun _ => chachaBlock_length ..) _)

/-! ### Tags -/

@[simp] theorem gcmTag_length (key iv aad ct : List Byte) : (gcmTag key iv aad ct).length = 16 := by
  simp [gcmTag]

/-- The MAC of CCM is one block, whatever it is taken over. -/
theorem length_foldl_aesBlock (key : List Byte) (l : List (List Byte)) (y : List Byte) (hy : y.length = 16) :
    (l.foldl (fun y x => aesBlock key (xorBytes y x)) y).length = 16 :=
  List.foldlRecOn l _ (motive := fun y : List Byte => y.length = 16) hy fun _ _ _ _ => aesBlock_length ..

@[simp] theorem ccmTag_length (key nonce aad d : List Byte) (t : Nat) : (ccmTag key nonce aad d t).length = min 16 t := by
  simp [ccmTag, length_foldl_aesBlock, Nat.min_comm]

@[simp] theorem sivTag_length (key nonce aad d : List Byte) : (sivTag key nonce aad d).length = 16 := aesBlock_length ..

@[simp] theorem chachaTag_length (key nonce aad ct : List Byte) : (chachaTag key nonce aad ct).length = 16 :=
  crypto_length ..

/-! ### KW and KWP -/

theorem kwpIcv_length (n : Nat) : (kwpIcv n).length = 8 := by simp [kwpIcv]

/-- The semiblock that step `t` replaces lies inside the `n` semiblocks. -/
theorem semiblock_le {m : List Byte} {n t : Nat} (hm : m.length = 8 * n) (hn : n ≠ 0) :
    8 * ((t - 1) % n) + 8 ≤ m.length := by
  have := Nat.mod_lt (t - 1) (Nat.pos_of_ne_zero hn)
  omega

/-- A semiblock replaced by one of eight bytes. -/
theorem length_replace_semiblock {m b : List Byte} {i : Nat} (hi : i + 8 ≤ m.length) (hb : b.length = 8) :
    (m.take i ++ b ++ m.drop (i + 8)).length = m.length := by
  simp only [List.length_append, List.length_take, List.length_drop]
  omega

/-- The steps of the wrapping function, in either direction, keep the check value at eight bytes and the semiblocks
as many as they are. -/
theorem length_foldl_steps {n : Nat} {f : List Byte × List Byte → Nat → List Byte × List Byte}
    (hf : ∀ r t, r.2.length = 8 * n → n ≠ 0 → (f r t).1.length = 8 ∧ (f r t).2.length = r.2.length)
    {l : List Nat} (hl : n = 0 → l = []) {r : List Byte × List Byte} (h1 : r.1.length = 8) (h2 : r.2.length = 8 * n) :
    (l.foldl f r).1.length = 8 ∧ (l.foldl f r).2.length = 8 * n :=
  List.foldlRecOn l f (motive := fun r => r.1.length = 8 ∧ r.2.length = 8 * n) ⟨h1, h2⟩ fun r hr t ht => by
    obtain ⟨hf1, hf2⟩ := hf r t hr.2 fun h0 => List.ne_nil_of_mem ht (hl h0)
    exact ⟨hf1, hf2.trans hr.2⟩

theorem kwStep_length (key : List Byte) {n : Nat} (r : List Byte × List Byte) (t : Nat) (h : r.2.length = 8 * n)
    (hn : n ≠ 0) : (kwStep key n r t).1.length = 8 ∧ (kwStep key n r t).2.length = r.2.length :=
  ⟨by simp [kwStep], length_replace_semiblock (semiblock_le h hn) (by simp)⟩

theorem kwBack_length (key : List Byte) {n : Nat} (r : List Byte × List Byte) (t : Nat) (h : r.2.length = 8 * n)
    (hn : n ≠ 0) : (kwBack key n r t).1.length = 8 ∧ (kwBack key n r t).2.length = r.2.length :=
  ⟨by simp [kwBack], length_replace_semiblock (semiblock_le h hn) (by simp)⟩

/-- A wrapping of whole semiblocks is one semiblock longer. -/
theorem kwSeal_length (key : List Byte) {icv m : List Byte} (hi : icv.length = 8) (hm : 8 ∣ m.length) :
    (kwSeal key icv m).length = m.length + 8 := by
  obtain ⟨n, hn⟩ := hm
  rw [kwSeal, hn, Nat.mul_div_cancel_left _ (by decide)]
  split
  · next h => rw [h, aesBlock_length]
  · obtain ⟨h1, h2⟩ := length_foldl_steps (l := List.range' 1 (6 * n)) (r := (icv, m)) (kwStep_length key)
      (fun h => by rw [h]; rfl) hi hn
    rw [List.length_append, h1, h2, Nat.add_comm]

/-- What a wrapping of whole semiblocks covers is one semiblock shorter. -/
theorem kwOpen_length (key : List Byte) {w : List Byte} (hw : 8 ∣ w.length) :
    (kwOpen key w).2.length = w.length - 8 := by
  obtain ⟨k, hk⟩ := hw
  rw [kwOpen, hk, Nat.mul_div_cancel_left _ (by decide)]
  split
  · next h =>
    rw [List.length_drop, aesInverse_length]
    omega
  · obtain rfl | hpos := Nat.eq_zero_or_pos k
    · simp [hk]
    · have h1 : (w.take 8).length = 8 := by
        rw [List.length_take]
        omega
      have h2 : (w.drop 8).length = 8 * (k - 1) := by
        rw [List.length_drop]
        omega
      obtain ⟨-, h⟩ := length_foldl_steps (l := (List.range' 1 (6 * (k - 1))).reverse) (r := (w.take 8, w.drop 8))
        (kwBack_length key) (fun h => by rw [h]; rfl) h1 h2
      omega

theorem padBlocks_length (n : Nat) (b : List Byte) : (padBlocks n b).length = n * ceilDiv b.length n := by
  rw [padBlocks, padTo_length, Nat.mul_comm]

theorem kwpWrap_length (kek m : List Byte) : (kwpWrap kek m).length = kwpLen m.length := by
  have hp : (padBlocks 8 m).length = 8 * ceilDiv m.length 8 := padBlocks_length 8 m
  rw [kwpWrap, kwSeal_length kek (kwpIcv_length _) ⟨_, hp⟩, hp, kwpLen]

end Sys2Proof.Machine
end

section
/-! The rows of the symmetric opcodes: the frame of a row that only counts its blocks, and what each shape of
operation answers (06 R184-R199). -/

namespace Sys2Proof.Machine

/-! ### Rows that change nothing but their job and the counters -/

/-- Between the two states only the counters of jobs and events differ. -/
def CountersOnly (s t : State) : Prop := { t with cnt := s.cnt, evc := s.evc } = s

theorem countersOnly_bump (b i k : Nat) (s : State) : CountersOnly s (bump b i k s) := by
  unfold bump
  split <;> rfl

theorem countersOnly_evcAdd (src k : Nat) (s : State) : CountersOnly s (evcAdd src k s) := by
  unfold evcAdd
  split <;> rfl

theorem CountersOnly.trans {s t u : State} (h : CountersOnly s t) (h' : CountersOnly t u) : CountersOnly s u :=
  (congrArg (fun x : State => { x with cnt := s.cnt, evc := s.evc }) h' :).trans h

theorem countersOnly_countBlocks (j : Job) (n : Nat) (s : State) : CountersOnly s (countBlocks j n s) := by
  unfold countBlocks
  dsimp only
  split
  · exact (countersOnly_bump ..).trans (countersOnly_evcAdd ..)
  · rfl

theorem countersOnly_countSym (j : Job) (s : State) : CountersOnly s (countSym j s) := countersOnly_countBlocks ..

/-- An entry that has changed nothing but counters has nothing to mirror. -/
theorem mirrorMade_of_countersOnly {s t : State} (h : CountersOnly s t) (j : Job) (r : Res) : mirrorMade s j r t = t := by
  have hv : t.vault = s.vault := (congrArg State.vault h :)
  have hg : gate1 t = gate1 s := (congrArg gate1 h :)
  simp [mirrorMade, createdObjs_of_vault_eq hv, hg]

theorem jobOnly_stage {s t : State} (h : CountersOnly s t) (ctx : Nat) (j : Job) (r : Res) :
    JobOnly ctx s (stage ctx j r t) := by
  refine ⟨(congrArg (fun x : State => { x with sched := { x.sched with jobs := s.sched.jobs } }) h :), fun c hc => ?_⟩
  exact ((stage_spec ctx j r t).2.1 c hc).trans (congrArg (getJob · c) h :)

theorem jobOnly_answered {s t : State} (h : CountersOnly s t) (ctx : Nat) (j : Job) (r : Res) :
    JobOnly ctx s (answered s ctx j (t, r)) := by
  rw [answered, mirrorMade_of_countersOnly h]
  exact jobOnly_stage h ..

theorem answered_holds (s : State) (ctx : Nat) (j : Job) (r : State × Res) : Holds (answered s ctx j r) ctx r.2 :=
  (stage_spec ..).1

/-- The rows run `f` on the jobs of their opcodes. -/
def RowsRun (f : Job → State → State × Res) (rows : List OpRow) : Prop :=
  ∀ p ∈ rows, ∀ ctx s, exec (p.2 ctx) s = .next (runOp p.1 ctx f s)

/-- Rows that run an operation which changes counters alone answer its result, and only the job and the counters
differ. -/
theorem answers_of_rowsRun {rows : List OpRow} {f : Job → State → State × Res} (hrun : RowsRun f rows)
    (hf : ∀ j s, CountersOnly s (f j s).1) :
    Answers rows fun ctx j s t r => j.hdr.opcode ∈ rows.map Prod.fst ∧ r = (f j s).2 ∧ JobOnly ctx s t := by
  intro p hp ctx s j h
  obtain ⟨-, -, hop, -⟩ := jobFor_spec h
  rw [hrun p hp, runOp_eq f h]
  exact ⟨_, _, rfl, answered_holds .., hop ▸ List.mem_map_of_mem hp, rfl, jobOnly_answered (hf j s) ..⟩

theorem answers_imp {rows : List OpRow} {P Q : Nat → Job → State → State → Res → Prop} (h : Answers rows P)
    (hPQ : ∀ ctx j s t r, P ctx j s t r → Q ctx j s t r) : Answers rows Q := by
  intro p hp ctx s j hj
  obtain ⟨t, r, he, hr, hP⟩ := h p hp ctx s j hj
  exact ⟨t, r, he, hr, hPQ _ _ _ _ _ hP⟩

theorem RowsRun.of_subset {rows rows' : List OpRow} {f : Job → State → State × Res} (h : RowsRun f rows)
    (hs : rows' ⊆ rows) : RowsRun f rows' := fun p hp => h p (hs hp)

/-! ### One equation per command -/

theorem rowsRun_symDecrypt : RowsRun symDecrypt
    [(0x101, .aesEcbDecrypt), (0x105, .aesCbcDecrypt), (0x109, .aesCfbDecrypt), (0x10D, .aesOfbDecrypt),
      (0x111, .aesCtrDecrypt), (0x119, .xtsAesDecrypt), (0x151, .tdeaEcbDecrypt), (0x155, .tdeaCbcDecrypt)] := by
  simp only [RowsRun, List.forall_mem_cons, List.not_mem_nil, false_implies, implies_true, and_true]
  exact ⟨fun _ _ => rfl, fun _ _ => rfl, fun _ _ => rfl, fun _ _ => rfl, fun _ _ => rfl, fun _ _ => rfl,
    fun _ _ => rfl, fun _ _ => rfl⟩

theorem rowsRun_symEncrypt : RowsRun symEncrypt
    [(0x100, .aesEcbEncrypt), (0x104, .aesCbcEncrypt), (0x108, .aesCfbEncrypt), (0x10C, .aesOfbEncrypt),
      (0x110, .aesCtrEncrypt), (0x118, .xtsAesEncrypt), (0x150, .tdeaEcbEncrypt), (0x154, .tdeaCbcEncrypt)] := by
  simp only [RowsRun, List.forall_mem_cons, List.not_mem_nil, false_implies, implies_true, and_true]
  exact ⟨fun _ _ => rfl, fun _ _ => rfl, fun _ _ => rfl, fun _ _ => rfl, fun _ _ => rfl, fun _ _ => rfl,
    fun _ _ => rfl, fun _ _ => rfl⟩

theorem rowsRun_symSeal : RowsRun symSeal
    [(0x120, .aesGcmEncrypt), (0x128, .aesCcmEncrypt), (0x12C, .aesGcmSivEncrypt), (0x140, .chacha20Poly1305Encrypt)] := by
  simp only [RowsRun, List.forall_mem_cons, List.not_mem_nil, false_implies, implies_true, and_true]
  exact ⟨fun _ _ => rfl, fun _ _ => rfl, fun _ _ => rfl, fun _ _ => rfl⟩

theorem rowsRun_singleton {op : Nat} {c : Nat → Instr} {f : Job → State → State × Res}
    (h : ∀ ctx s, exec (c ctx) s = .next (runOp op ctx f s)) : RowsRun f [(op, c)] :=
  fun _ hp => List.mem_singleton.mp hp ▸ h

theorem rowsRun_symMac : RowsRun symMac [(0x124, .aesGmacGenerate)] := rowsRun_singleton fun _ _ => rfl
theorem rowsRun_symVerify : RowsRun symVerify [(0x125, .aesGmacVerify)] := rowsRun_singleton fun _ _ => rfl
theorem rowsRun_kwWrap : RowsRun (symWrap 0) [(0x130, .aesKwWrap)] := rowsRun_singleton fun _ _ => rfl
theorem rowsRun_kwUnwrap : RowsRun (symUnwrap 0) [(0x131, .aesKwUnwrap)] := rowsRun_singleton fun _ _ => rfl
theorem rowsRun_kwpWrap : RowsRun (symWrap 1) [(0x132, .aesKwpWrap)] := rowsRun_singleton fun _ _ => rfl
theorem rowsRun_kwpUnwrap : RowsRun (symUnwrap 1) [(0x133, .aesKwpUnwrap)] := rowsRun_singleton fun _ _ => rfl

/-! ### What each shape with a choice answers -/

theorem symMac_eq (j : Job) (s : State) : symMac j s =
    (countSym j s, if j.hdr.isLast then { out := (symIn s j).iv ++ tagOut j.hdr (symIn s j) } else {}) := by
  unfold symMac
  dsimp only
  split <;> rfl

theorem symVerify_eq (j : Job) (s : State) : symVerify j s =
    (countSym j s, if !j.hdr.isLast || tagOk j.hdr (symIn s j) (inputTag j) then {} else { status := stAuthFail }) := by
  unfold symVerify
  dsimp only
  split <;> rfl

theorem symUnwrap_of_ok {alg : Nat} {j : Job} (s : State) (h : unwrapOk alg (keyMat j) j.input = true) :
    symUnwrap alg j s =
      (countSym j s, { out := if alg = 0 then (kwOpen (keyMat j) j.input).2 else kwpUnwrap (keyMat j) j.input }) := by
  simp [symUnwrap, h]

theorem symUnwrap_of_not_ok {alg : Nat} {j : Job} (s : State) (h : unwrapOk alg (keyMat j) j.input = false) :
    symUnwrap alg j s = (countSym j s, { status := stAuthFail }) := by
  simp [symUnwrap, h]

theorem countersOnly_symUnwrap (alg : Nat) (j : Job) (s : State) : CountersOnly s (symUnwrap alg j s).1 := by
  cases h : unwrapOk alg (keyMat j) j.input with
  | true => exact symUnwrap_of_ok s h ▸ countersOnly_countSym j s
  | false => exact symUnwrap_of_not_ok s h ▸ countersOnly_countSym j s

/-- An unwrap answers the status of its check value, and no output where it fails. -/
theorem symUnwrap_status (alg : Nat) (j : Job) (s : State) :
    (symUnwrap alg j s).2.status = (if unwrapOk alg (keyMat j) j.input then stOk else stAuthFail)
      ∧ (unwrapOk alg (keyMat j) j.input = false → (symUnwrap alg j s).2.out = []) := by
  cases h : unwrapOk alg (keyMat j) j.input with
  | true => simp [symUnwrap_of_ok s h, stOk]
  | false => simp [symUnwrap_of_not_ok s h]

/-! ### Lengths of ciphers and tags -/

/-- Only the opcodes 0x100 and 0x104 pad. -/
theorem paddedData_eq {j : Job} {ops : List Nat} (hop : j.hdr.opcode ∈ ops) (h : 0x100 ∉ ops ∧ 0x104 ∉ ops) :
    paddedData j = entryData j := by
  have h0 : j.hdr.opcode ≠ 0x100 := ne_of_mem_of_not_mem hop h.1
  have h4 : j.hdr.opcode ≠ 0x104 := ne_of_mem_of_not_mem hop h.2
  simp [paddedData, h0, h4]

/-- Whole blocks before and in an entry are whole blocks in all. -/
theorem dvd_length_all {n : Nat} {s : State} {j : Job} (h : WholeBlocks n s j) : n ∣ (symIn s j).all.length := by
  obtain ⟨hb, hd⟩ := h
  rw [SymIn.all, List.length_append]
  exact Nat.dvd_add (Nat.dvd_of_mod_eq_zero hb) (Nat.dvd_of_mod_eq_zero hd)

/-- Where the cipher keeps the length of a stream, an entry adds as much as its data. -/
theorem cipherOut_length {h : Header} {x : SymIn} (hw : (cipherWhole h x).length = x.all.length) :
    (cipherOut h x).length = x.data.length := by
  simp [cipherOut, hw, SymIn.all]

/-- The opcodes whose mode adds a key stream to the data, whole blocks or not. -/
def keyStreamOps : List Nat := [0x108, 0x109, 0x10C, 0x10D, 0x110, 0x111, 0x120, 0x128, 0x12C, 0x140]

/-- The opcodes whose mode works on whole blocks of AES, and of TDEA. -/
def aesBlockOps : List Nat := [0x100, 0x101, 0x104, 0x105, 0x118, 0x119]
def tdeaOps : List Nat := [0x150, 0x151, 0x154, 0x155]

/-- The opcodes that make a tag. -/
def tagOps : List Nat := [0x120, 0x124, 0x128, 0x12C, 0x140]

theorem cipherWhole_length_of_keyStream {h : Header} {x : SymIn} (hop : h.opcode ∈ keyStreamOps) :
    (cipherWhole h x).length = x.all.length := by
  simp only [keyStreamOps, List.mem_cons, List.not_mem_nil, or_false] at hop
  rcases hop with e | e | e | e | e | e | e | e | e | e <;> simp [cipherWhole, e]

theorem cipherWhole_length_of_aes_blocks {h : Header} {x : SymIn} (hop : h.opcode ∈ aesBlockOps) (hx : 16 ∣ x.all.length)
    (hiv : h.opcode = 0x105 → x.iv.length = 16) (hdu : h.opcode = 0x118 ∨ h.opcode = 0x119 → 4 ≤ h.p1 0 5) :
    (cipherWhole h x).length = x.all.length := by
  have hu (hp : 4 ≤ h.p1 0 5) : 16 ∣ 2 ^ h.p1 0 5 := Nat.pow_dvd_pow 2 hp
  have haes : 0 < aes.len := by decide
  simp only [aesBlockOps, List.mem_cons, List.not_mem_nil, or_false] at hop
  rcases hop with e | e | e | e | e | e <;> simp only [cipherWhole, e]
  · exact ecbEnc_length haes hx _ fun _ => aesBlock_length ..
  · exact ecbDec_length haes hx _ fun _ => aesInverse_length ..
  · exact cbcEnc_length haes hx _ _ fun _ => aesBlock_length ..
  · exact cbcDec_length haes hx _ (fun _ => aesInverse_length ..) (hiv e)
  · exact xtsMode_length _ _ aesBlock_length (Nat.two_pow_pos _) (hu (hdu (.inl e))) hx
  · exact xtsMode_length _ _ aesInverse_length (Nat.two_pow_pos _) (hu (hdu (.inr e))) hx

theorem cipherWhole_length_of_tdea_blocks {h : Header} {x : SymIn} (hop : h.opcode ∈ tdeaOps)
    (hx : 8 ∣ x.all.length) (hiv : h.opcode = 0x155 → x.iv.length = 8) :
    (cipherWhole h x).length = x.all.length := by
  have htdea : 0 < tdea.len := by decide
  simp only [tdeaOps, List.mem_cons, List.not_mem_nil, or_false] at hop
  rcases hop with e | e | e | e <;> simp only [cipherWhole, e]
  · exact ecbEnc_length htdea hx _ fun _ => crypto_length ..
  · exact ecbDec_length htdea hx _ fun _ => crypto_length ..
  · exact cbcEnc_length htdea hx _ _ fun _ => crypto_length ..
  · exact cbcDec_length htdea hx _ (fun _ => crypto_length ..) (hiv e)

/-- A decryption answers as many bytes as its data. -/
theorem symDecrypt_length {s : State} {j : Job} {ops : List Nat} (hop : j.hdr.opcode ∈ ops)
    (h : 0x100 ∉ ops ∧ 0x104 ∉ ops) (hw : (cipherWhole j.hdr (symIn s j)).length = (symIn s j).all.length) :
    (symDecrypt j s).2.out.length = (entryData j).length :=
  (cipherOut_length hw).trans (congrArg List.length (paddedData_eq hop h))

/-- An encryption answers what it puts before its ciphertext and as many bytes as its padded data. -/
theorem symEncrypt_length {s : State} {j : Job} (hw : (cipherWhole j.hdr (symIn s j)).length = (symIn s j).all.length) :
    (symEncrypt j s).2.out.length = (headOf j).length + (paddedData j).length :=
  List.length_append.trans (congrArg ((headOf j).length + ·) (cipherOut_length hw))

/-- The tag of a GMAC or of an authenticated encryption has the length asked for, at most 16 bytes. -/
theorem tagOut_length {h : Header} (x : SymIn) (hop : h.opcode ∈ tagOps) :
    (tagOut h x).length = min 16 (tagLen h) := by
  simp only [tagOps, List.mem_cons, List.not_mem_nil, or_false] at hop
  rcases hop with e | e | e | e | e <;> simp [tagOut, tagLen, e, Nat.min_comm]

/-- The length that the check value of KWP names lies inside what the wrapping covers. -/
theorem kwpInner_le_of_unwrapOk {kek w : List Byte} (h : unwrapOk 1 kek w = true) :
    kwpInner kek w ≤ (kwOpen kek w).2.length := by
  simp only [unwrapOk, Nat.one_ne_zero, if_false, Bool.and_eq_true, decide_eq_true_eq] at h
  obtain ⟨⟨-, hle⟩, -⟩ := h
  exact hle

end Sys2Proof.Machine
end

section
/-! What the symmetric opcodes answer (06 R184-R199). -/

namespace Sys2Proof.Machine

/-- Settles O1, by the lengths of the modes and the frame of a row that only counts its blocks. -/
theorem decryptOpcodesAnswer : Obligations.DecryptOpcodesAnswer := by
  unfold Obligations.DecryptOpcodesAnswer
  have answers {rows : List OpRow} (hs : rows ⊆ _) :=
    answers_of_rowsRun (rowsRun_symDecrypt.of_subset hs) countersOnly_countSym
  refine ⟨answers_imp (answers fun _ h => h) ?all, answers_imp (answers (by simp)) ?keyStream,
    answers_imp (answers (by simp)) ?aes, answers_imp (answers (by simp)) ?tdea⟩
  case all =>
    rintro ctx j s t r ⟨-, rfl, hframe⟩
    exact ⟨rfl, rfl, hframe⟩
  case keyStream =>
    rintro ctx j s t r ⟨hop, rfl, -⟩
    have hsub : [0x109, 0x10D, 0x111] ⊆ keyStreamOps := by decide
    exact symDecrypt_length hop (by decide) (cipherWhole_length_of_keyStream (hsub hop))
  case aes =>
    rintro ctx j s t r ⟨hop, rfl, -⟩ hblocks hiv hdu
    have hsub : [0x101, 0x105, 0x119] ⊆ aesBlockOps := by decide
    have hne : j.hdr.opcode ≠ 0x118 := ne_of_mem_of_not_mem hop (by decide)
    exact symDecrypt_length hop (by decide)
      (cipherWhole_length_of_aes_blocks (hsub hop) (dvd_length_all hblocks) hiv fun h => hdu (h.resolve_left hne))
  case tdea =>
    rintro ctx j s t r ⟨hop, rfl, -⟩ hblocks hiv
    have hsub : [0x151, 0x155] ⊆ tdeaOps := by decide
    exact symDecrypt_length hop (by decide) (cipherWhole_length_of_tdea_blocks (hsub hop) (dvd_length_all hblocks) hiv)

/-- Settles O2, by the lengths of the modes, and by key streams that cover the data and depend on its length alone. -/
theorem encryptOpcodesAnswer : Obligations.EncryptOpcodesAnswer := by
  unfold Obligations.EncryptOpcodesAnswer
  have answers {rows : List OpRow} (hs : rows ⊆ _) :=
    answers_of_rowsRun (rowsRun_symEncrypt.of_subset hs) countersOnly_countSym
  refine ⟨answers_imp (answers fun _ h => h) ?all, answers_imp (answers (by simp)) ?keyStream,
    answers_imp (answers (by simp)) ?aes, answers_imp (answers (by simp)) ?tdea,
    fun key b d => ⟨ctrMode_ctrMode .., ofbMode_ofbMode .., gcmCrypt_gcmCrypt .., ccmCrypt_ccmCrypt ..,
      chachaCrypt_chachaCrypt ..⟩⟩
  case all =>
    rintro ctx j s t r ⟨-, rfl, hframe⟩
    exact ⟨rfl, rfl, hframe⟩
  case keyStream =>
    rintro ctx j s t r ⟨hop, rfl, -⟩
    have hsub : [0x108, 0x10C, 0x110] ⊆ keyStreamOps := by decide
    exact symEncrypt_length (cipherWhole_length_of_keyStream (hsub hop))
  case aes =>
    rintro ctx j s t r ⟨hop, rfl, -⟩ hblocks hdu
    have hsub : [0x100, 0x104, 0x118] ⊆ aesBlockOps := by decide
    have hne (n : Nat) (hn : n ∉ [0x100, 0x104, 0x118]) : j.hdr.opcode ≠ n := ne_of_mem_of_not_mem hop hn
    exact symEncrypt_length (cipherWhole_length_of_aes_blocks (hsub hop) (dvd_length_all hblocks)
      (fun h => absurd h (hne _ (by decide)))
      fun h => hdu.resolve_right (not_not_intro (h.resolve_right (hne _ (by decide)))))
  case tdea =>
    rintro ctx j s t r ⟨hop, rfl, -⟩ hblocks
    have hsub : [0x150, 0x154] ⊆ tdeaOps := by decide
    have hne : j.hdr.opcode ≠ 0x155 := ne_of_mem_of_not_mem hop (by decide)
    exact symEncrypt_length (cipherWhole_length_of_tdea_blocks (hsub hop) (dvd_length_all hblocks) fun h => absurd h hne)

/-- Settles O3, by the lengths of the key stream modes and of the tags. -/
theorem sealOpcodesAnswer : Obligations.SealOpcodesAnswer := by
  unfold Obligations.SealOpcodesAnswer
  refine answers_imp (answers_of_rowsRun rowsRun_symSeal countersOnly_countSym) ?_
  rintro ctx j s t r ⟨hop, rfl, hframe⟩
  refine ⟨hframe, rfl, rfl, ?_⟩
  have hct : [0x120, 0x128, 0x12C, 0x140] ⊆ keyStreamOps := by decide
  have htag : [0x120, 0x128, 0x12C, 0x140] ⊆ tagOps := by decide
  have hbody : (cipherOut j.hdr (symIn s j)).length = (entryData j).length :=
    (cipherOut_length (cipherWhole_length_of_keyStream (hct hop))).trans
      (congrArg List.length (paddedData_eq hop (by decide)))
  have htail : (if j.hdr.isLast then tagOut j.hdr (symIn s j) else []).length =
      if j.hdr.isLast then min 16 (tagLen j.hdr) else 0 := by
    rw [apply_ite List.length, tagOut_length _ (htag hop), List.length_nil]
  rw [symSeal, List.length_append, List.length_append, hbody, htail, headOf]

/-- Settles O5, by the length of the tag and of the wrapping function in both directions. -/
theorem macAndWrapOpcodesAnswer : Obligations.MacAndWrapOpcodesAnswer := by
  unfold Obligations.MacAndWrapOpcodesAnswer
  refine ⟨answers_imp (answers_of_rowsRun rowsRun_symMac fun j s => symMac_eq j s ▸ countersOnly_countSym j s) ?gmac,
    answers_imp (answers_of_rowsRun rowsRun_symVerify fun j s => symVerify_eq j s ▸ countersOnly_countSym j s) ?verify,
    answers_imp (answers_of_rowsRun rowsRun_kwWrap countersOnly_countSym) ?kwWrap,
    answers_imp (answers_of_rowsRun rowsRun_kwpWrap countersOnly_countSym) ?kwpWrap,
    answers_imp (answers_of_rowsRun rowsRun_kwUnwrap (countersOnly_symUnwrap 0)) ?kwUnwrap,
    answers_imp (answers_of_rowsRun rowsRun_kwpUnwrap (countersOnly_symUnwrap 1)) ?kwpUnwrap⟩
  case gmac =>
    rintro ctx j s t r ⟨hop, rfl, hframe⟩
    have htag : (tagOut j.hdr (symIn s j)).length = min 16 (tagLen j.hdr) := by
      have hsub : [0x124] ⊆ tagOps := by decide
      exact tagOut_length _ (hsub hop)
    rw [symMac_eq]
    refine ⟨hframe, ?_⟩
    cases j.hdr.isLast with
    | true => exact ⟨rfl, rfl, List.length_append.trans (congrArg _ htag)⟩
    | false => exact ⟨rfl, rfl, rfl⟩
  case verify =>
    rintro ctx j s t r ⟨-, rfl, hframe⟩
    rw [symVerify_eq]
    refine ⟨hframe, ?_⟩
    cases !j.hdr.isLast || tagOk j.hdr (symIn s j) (inputTag j) <;> exact ⟨rfl, rfl⟩
  case kwWrap =>
    rintro ctx j s t r ⟨-, rfl, -⟩
    exact ⟨rfl, fun hlen => kwSeal_length _ rfl (Nat.dvd_of_mod_eq_zero hlen)⟩
  case kwpWrap =>
    rintro ctx j s t r ⟨-, rfl, -⟩
    exact ⟨rfl, kwpWrap_length ..⟩
  case kwUnwrap =>
    rintro ctx j s t r ⟨-, rfl, hframe⟩
    obtain ⟨hstatus, hfail⟩ := symUnwrap_status 0 j s
    refine ⟨hframe, hstatus, hfail, fun hok hlen => ?_⟩
    rw [symUnwrap_of_ok s hok]
    exact kwOpen_length _ (Nat.dvd_of_mod_eq_zero hlen)
  case kwpUnwrap =>
    rintro ctx j s t r ⟨-, rfl, hframe⟩
    obtain ⟨hstatus, hfail⟩ := symUnwrap_status 1 j s
    refine ⟨hframe, hstatus, hfail, fun hok => ?_⟩
    rw [symUnwrap_of_ok s hok]
    exact List.length_take_of_le (kwpInner_le_of_unwrapOk hok)

end Sys2Proof.Machine
end

section
/-! Unit enables: what they write, and that they write one unit's record (06 R202, R203). -/

namespace Sys2Proof.Machine

/-! ### One equation per command -/

theorem exec_laneDisable {n : Nat} (h : n < 4) (s : State) : exec (.laneDisable n) s = .next (disableUnit n s) :=
  congrArg Host.Outcome.next (if_pos h)

theorem exec_laneEnable {n : Nat} (h : n < 4) (s : State) : exec (.laneEnable n) s = .next (enableUnit n s) :=
  congrArg Host.Outcome.next (if_pos h)

theorem exec_hashCoreDisable {n : Nat} (h : n < 16) (s : State) :
    exec (.hashCoreDisable n) s = .next (disableUnit (4 + n) s) := congrArg Host.Outcome.next (if_pos h)

theorem exec_hashCoreEnable {n : Nat} (h : n < 16) (s : State) :
    exec (.hashCoreEnable n) s = .next (enableUnit (4 + n) s) := congrArg Host.Outcome.next (if_pos h)

theorem exec_pkeCoreDisable {n : Nat} (h : n < 64) (s : State) :
    exec (.pkeCoreDisable n) s = .next (disableUnit (20 + n) s) := congrArg Host.Outcome.next (if_pos h)

theorem exec_pkeCoreEnable {n : Nat} (h : n < 64) (s : State) :
    exec (.pkeCoreEnable n) s = .next (enableUnit (20 + n) s) := congrArg Host.Outcome.next (if_pos h)

theorem exec_latSliceDisable {n : Nat} (h : n < 16) (s : State) :
    exec (.latSliceDisable n) s = .next (disableUnit (84 + n) s) := congrArg Host.Outcome.next (if_pos h)

theorem exec_latSliceEnable {n : Nat} (h : n < 16) (s : State) :
    exec (.latSliceEnable n) s = .next (enableUnit (84 + n) s) := congrArg Host.Outcome.next (if_pos h)

theorem exec_keSlotDisable {n : Nat} (h : n < 8) (s : State) :
    exec (.keSlotDisable n) s = .next (disableUnit (100 + n) s) := congrArg Host.Outcome.next (if_pos h)

theorem exec_keSlotEnable {n : Nat} (h : n < 8) (s : State) :
    exec (.keSlotEnable n) s = .next (enableUnit (100 + n) s) := congrArg Host.Outcome.next (if_pos h)

theorem exec_unitDrainEnd (u : Nat) (s : State) : exec (.unitDrainEnd u) s = .next (drainEnd u s) := rfl

theorem exec_unitScrubEnd (u : Nat) (s : State) : exec (.unitScrubEnd u) s = .next (scrubEnd u s) := rfl

/-! ### What the operations write -/

theorem unitOnly_setUnit (u : Nat) (r : UnitRec) (s : State) : UnitOnly u s (setUnit u r s) :=
  ⟨rfl, fun _ h => getUnit_setUnit_ne s r h⟩

theorem enableUnit_of_en {u : Nat} {s : State} (h : (unitRec s u).en = true) : enableUnit u s = s := if_pos h

theorem enableUnit_of_not_en {u : Nat} {s : State} (h : (unitRec s u).en = false) :
    enableUnit u s = setUnit u { unitRec s u with
      en := true
      enableAt := decide ((unitRec s u).st = .off)
      pendingEn := decide ((unitRec s u).st = .draining ∨ (unitRec s u).st = .scrubbing) } s := by
  have hb (a b : UState) : (a == b) = decide (a = b) := rfl
  simp [enableUnit, h, hb]

theorem drainEnd_of_free {u : Nat} {s : State} (hst : (unitRec s u).st = .draining) (hfree : unitHeld s u = false) :
    drainEnd u s = setUnit u { unitRec s u with st := .scrubbing } s := if_pos ⟨hst, hfree⟩

theorem scrubEnd_of_scrubbing {u : Nat} {s : State} (hst : (unitRec s u).st = .scrubbing) :
    scrubEnd u s = setUnit u { unitRec s u with
      st := .off, mem := {}, enableAt := (unitRec s u).pendingEn, pendingEn := false } s := if_pos hst

/-- A command that stores a record answers a state in which that unit alone has it. -/
theorem unitOnly_of_exec {i : Instr} {u : Nat} {r : UnitRec} {s : State} (h : exec i s = .next (setUnit u r s)) :
    ∃ t, exec i s = .next t ∧ UnitOnly u s t ∧ unitRec t u = r :=
  ⟨_, h, unitOnly_setUnit u r s, getUnit_setUnit ..⟩

/-- Settles O42, by what the four operations write. -/
theorem unitEnablesSwitchTheirUnits : Obligations.UnitEnablesSwitchTheirUnits := by
  unfold Obligations.UnitEnablesSwitchTheirUnits
  refine ⟨fun p hp n s hn => ?_, fun u s => ⟨fun hst hfree => ?_, fun hst => ?_⟩⟩
  · have hexec : exec (p.2.2.1 n) s = .next (disableUnit (p.2.1 + n) s)
        ∧ exec (p.2.2.2 n) s = .next (enableUnit (p.2.1 + n) s) := by
      simp only [List.mem_cons, List.not_mem_nil, or_false] at hp
      rcases hp with rfl | rfl | rfl | rfl | rfl
      · exact (Nat.zero_add n).symm ▸ ⟨exec_laneDisable hn s, exec_laneEnable hn s⟩
      · exact ⟨exec_hashCoreDisable hn s, exec_hashCoreEnable hn s⟩
      · exact ⟨exec_pkeCoreDisable hn s, exec_pkeCoreEnable hn s⟩
      · exact ⟨exec_latSliceDisable hn s, exec_latSliceEnable hn s⟩
      · exact ⟨exec_keSlotDisable hn s, exec_keSlotEnable hn s⟩
    obtain ⟨hdisable, henable⟩ := hexec
    refine ⟨unitOnly_of_exec hdisable, fun hen => ?_, fun hen => unitOnly_of_exec ?_⟩
    · exact ⟨_, henable, enableUnit_of_en hen⟩
    · rw [henable, enableUnit_of_not_en hen]
  · exact unitOnly_of_exec (drainEnd_of_free hst hfree ▸ exec_unitDrainEnd u s)
  · exact unitOnly_of_exec (scrubEnd_of_scrubbing hst ▸ exec_unitScrubEnd u s)

end Sys2Proof.Machine
end

section
/-! The rows of the hash engine that answer or check a value: what they work on does not depend on the counters, and a
value leaves or is compared at the last entry alone (07 R216, R222). -/

namespace Sys2Proof.Machine

/-! ### What an entry that generates or checks a value answers -/

/-- The operation changes counters alone and answers `g`. -/
def CountsAndAnswers (f : Job → State → State × Res) (g : State → Job → Res) : Prop :=
  ∀ j s, CountersOnly s (f j s).1 ∧ (f j s).2 = g s j

/-- The result of a generate entry: the value of the asked length, at the last entry. -/
def generateRes (val : State → Job → List Byte) (s : State) (j : Job) : Res :=
  if j.hdr.isLast then { out := (val s j).take (hashOutLen j.hdr) } else {}

/-- The result of a verify entry: `bad` at a last entry whose value is not the expected one. -/
def verifyRes (val : State → Job → List Byte) (bad : Nat) (s : State) (j : Job) : Res :=
  if !j.hdr.isLast || (val s j).take (hashOutLen j.hdr) == expected j then {} else { status := bad }

theorem generateRes_spec (val : State → Job → List Byte) (s : State) (j : Job) :
    (generateRes val s j).status = stOk
      ∧ (generateRes val s j).out = if j.hdr.isLast then (val s j).take (hashOutLen j.hdr) else [] := by
  unfold generateRes
  split <;> exact ⟨rfl, rfl⟩

theorem verifyRes_spec (val : State → Job → List Byte) (bad : Nat) (s : State) (j : Job) :
    (verifyRes val bad s j).out = []
      ∧ (verifyRes val bad s j).status =
        if j.hdr.isLast = true ∧ (val s j).take (hashOutLen j.hdr) ≠ expected j then bad else stOk := by
  unfold verifyRes
  cases hlast : j.hdr.isLast with
  | false => exact ⟨rfl, rfl⟩
  | true =>
    by_cases hv : (val s j).take (hashOutLen j.hdr) = expected j
    · simp [hv, stOk]
    · simp [hv]

/-! ### The operations -/

theorem countersOnly_countHash (j : Job) (n : Nat) (s : State) : CountersOnly s (countHash j n s) := by
  unfold countHash
  split
  · split
    · exact (countersOnly_bump ..).trans (countersOnly_evcAdd ..)
    · rfl
  · rfl

theorem countsAndAnswers_hashGen (val : State → Job → List Byte) : CountsAndAnswers (hashGen val) (generateRes val) := by
  intro j s
  unfold hashGen generateRes
  dsimp only
  split <;> exact ⟨countersOnly_countHash .., rfl⟩

theorem countsAndAnswers_hashCheck (val : State → Job → List Byte) (bad : Nat) :
    CountsAndAnswers (hashCheck val bad) (verifyRes val bad) := by
  intro j s
  unfold hashCheck verifyRes
  dsimp only
  split <;> exact ⟨countersOnly_countHash .., rfl⟩

/-- On a lane the blocks are counted first; a result that does not depend on the counters stays. -/
theorem CountsAndAnswers.onLane {f : Job → State → State × Res} {g : State → Job → Res} (h : CountsAndAnswers f g)
    (hg : ∀ {s t : State} (j : Job), CountersOnly s t → g t j = g s j) : CountsAndAnswers (onLane f) g := by
  intro j s
  obtain ⟨hstate, hres⟩ := h j (countBlocks j (entryData j).length s)
  have hcount := countersOnly_countBlocks j (entryData j).length s
  exact ⟨hcount.trans hstate, hres.trans (hg j hcount)⟩

/-- The message of a stream does not depend on the counters, so neither does its CMAC. -/
theorem cmacOf_of_countersOnly {s t : State} (j : Job) (h : CountersOnly s t) : cmacOf t j = cmacOf s j :=
  (congrArg (cmacOf · j) h :)

theorem countsAndAnswers_cmacGen : CountsAndAnswers (onLane (hashGen cmacOf)) (generateRes cmacOf) :=
  (countsAndAnswers_hashGen cmacOf).onLane fun j h => by rw [generateRes, generateRes, cmacOf_of_countersOnly j h]

theorem countsAndAnswers_cmacVerify :
    CountsAndAnswers (onLane (hashCheck cmacOf stAuthFail)) (verifyRes cmacOf stAuthFail) :=
  (countsAndAnswers_hashCheck cmacOf stAuthFail).onLane fun j h => by rw [verifyRes, verifyRes, cmacOf_of_countersOnly j h]

/-! ### The rows -/

section
variable {op : Nat} {c : Nat → Instr} {f : Job → State → State × Res} {val : State → Job → List Byte}

theorem answers_of_countsAndAnswers {g : State → Job → Res} (hf : CountsAndAnswers f g)
    (hrow : ∀ ctx s, exec (c ctx) s = .next (runOp op ctx f s)) :
    Answers [(op, c)] fun ctx j s t r => JobOnly ctx s t ∧ r = g s j := by
  refine answers_imp (answers_of_rowsRun (rowsRun_singleton hrow) fun j s => (hf j s).1) ?_
  rintro ctx j s t r ⟨-, rfl, hframe⟩
  exact ⟨hframe, (hf j s).2⟩

theorem answers_of_generateRes (hf : CountsAndAnswers f (generateRes val))
    (hrow : ∀ ctx s, exec (c ctx) s = .next (runOp op ctx f s)) :
    Answers [(op, c)] fun ctx j s t r =>
      JobOnly ctx s t ∧ r.status = stOk ∧ r.out = if j.hdr.isLast then (val s j).take (hashOutLen j.hdr) else [] := by
  refine answers_imp (answers_of_countsAndAnswers hf hrow) ?_
  rintro ctx j s t r ⟨hframe, rfl⟩
  exact ⟨hframe, generateRes_spec val s j⟩

theorem answers_of_verifyRes {bad : Nat} (hf : CountsAndAnswers f (verifyRes val bad))
    (hrow : ∀ ctx s, exec (c ctx) s = .next (runOp op ctx f s)) :
    Answers [(op, c)] fun ctx j s t r =>
      JobOnly ctx s t ∧ r.out = []
        ∧ r.status = if j.hdr.isLast = true ∧ (val s j).take (hashOutLen j.hdr) ≠ expected j then bad else stOk := by
  refine answers_imp (answers_of_countsAndAnswers hf hrow) ?_
  rintro ctx j s t r ⟨hframe, rfl⟩
  exact ⟨hframe, verifyRes_spec val bad s j⟩

end

/-- Settles O6, by the result of a generate and of a verify entry, which on a lane does not depend on the counters. -/
theorem hashOpcodesAnswer : Obligations.HashOpcodesAnswer := by
  unfold Obligations.HashOpcodesAnswer
  simp only [List.forall_mem_cons, List.not_mem_nil, false_implies, implies_true, and_true]
  refine ⟨⟨?hash, ?xof, ?hmac, ?kmac, ?cmac⟩, ?hashVerify, ?hmacVerify, ?kmacVerify, ?cmacVerify⟩
  case hash => exact answers_of_generateRes (countsAndAnswers_hashGen hashOf) fun _ _ => rfl
  case xof => exact answers_of_generateRes (countsAndAnswers_hashGen xofOf) fun _ _ => rfl
  case hmac => exact answers_of_generateRes (countsAndAnswers_hashGen hmacOf) fun _ _ => rfl
  case kmac => exact answers_of_generateRes (countsAndAnswers_hashGen kmacOf) fun _ _ => rfl
  case cmac => exact answers_of_generateRes countsAndAnswers_cmacGen fun _ _ => rfl
  case hashVerify => exact answers_of_verifyRes (countsAndAnswers_hashCheck hashOf stVerifyFail) fun _ _ => rfl
  case hmacVerify => exact answers_of_verifyRes (countsAndAnswers_hashCheck hmacOf stAuthFail) fun _ _ => rfl
  case kmacVerify => exact answers_of_verifyRes (countsAndAnswers_hashCheck kmacOf stAuthFail) fun _ _ => rfl
  case cmacVerify => exact answers_of_verifyRes countsAndAnswers_cmacVerify fun _ _ => rfl

end Sys2Proof.Machine
end

section
/-! Derivations to bytes: how long what the derivation functions make is, and the frame of a derivation with DEST 0
(07 R217, R219). -/

namespace Sys2Proof.Machine

/-! ### Rows by what their operation gives -/

/-- A row that runs an operation answers its result, in the state that stages it: it is enough that `P` holds of them. -/
theorem answers_of_runOp {op : Nat} {c : Nat → Instr} {f : Job → State → State × Res}
    {P : Nat → Job → State → State → Res → Prop}
    (hP : ∀ ctx s j, P ctx j s (answered s ctx j (f j s)) (f j s).2)
    (hrow : ∀ ctx s, exec (c ctx) s = .next (runOp op ctx f s)) : Answers [(op, c)] P := by
  intro p hp ctx s j h
  obtain rfl := List.mem_singleton.mp hp
  rw [hrow, runOp_eq f h]
  exact ⟨_, _, rfl, answered_holds .., hP ctx s j⟩

theorem answers_cons {p : OpRow} {rows : List OpRow} {P : Nat → Job → State → State → Res → Prop}
    (hp : Answers [p] P) (hrows : Answers rows P) : Answers (p :: rows) P :=
  List.forall_mem_cons.mpr ⟨hp p (List.mem_singleton_self p), hrows⟩

/-! ### Lengths of the derivation functions -/

@[simp] theorem digest_length (alg : Nat) (m : List Byte) : (digest alg m).length = algLen alg := crypto_length ..

@[simp] theorem hmac_length (alg : Nat) (key m : List Byte) : (hmac alg key m).length = algLen alg := crypto_length ..

@[simp] theorem kmac_length (alg : Nat) (key m custom : List Byte) (n : Nat) : (kmac alg key m custom n).length = n :=
  crypto_length ..

/-- `b` is at most `n` bytes, and just as many where the function has an output block of `len` bytes. -/
def FillsUpTo (len n : Nat) (b : List Byte) : Prop := b.length ≤ n ∧ (0 < len → b.length = n)

theorem fillsUpTo_of_length_eq {len n : Nat} {b : List Byte} (h : b.length = n) : FillsUpTo len n b :=
  ⟨Nat.le_of_eq h, fun _ => h⟩

theorem fillsUpTo_kdfBlocks {f : Nat → List Byte} {len : Nat} (hf : ∀ i, (f (i + 1)).length = len) (n : Nat) :
    FillsUpTo len n (kdfBlocks f len n) :=
  ⟨List.length_take_le .., fun hlen => List.length_take_of_le (le_length_keyStream hlen hf n)⟩

/-- From its first link on, a chain has blocks of the length that its function makes. -/
theorem chainAt_succ_length {f : Nat → List Byte → List Byte} {len : Nat} (hf : ∀ i x, (f i x).length = len)
    (x0 : List Byte) (i : Nat) : (chainAt f x0 (i + 1)).length = len := hf ..

theorem fillsUpTo_kdfCtr (alg : Nat) (k fixed : List Byte) (n : Nat) :
    FillsUpTo (algLen alg) n (kdfCtr alg k fixed n) :=
  fillsUpTo_kdfBlocks (fun _ => hmac_length ..) n

theorem fillsUpTo_kdfFb (alg : Nat) (k iv fixed : List Byte) (n : Nat) :
    FillsUpTo (algLen alg) n (kdfFb alg k iv fixed n) :=
  fillsUpTo_kdfBlocks (chainAt_succ_length (fun _ _ => hmac_length ..) iv) n

theorem fillsUpTo_kdfDp (alg : Nat) (k fixed : List Byte) (n : Nat) :
    FillsUpTo (algLen alg) n (kdfDp alg k fixed n) :=
  fillsUpTo_kdfBlocks (fun _ => hmac_length ..) n

theorem fillsUpTo_hkdfExpand (alg : Nat) (prk info : List Byte) (n : Nat) :
    FillsUpTo (algLen alg) n (hkdfExpand alg prk info n) :=
  fillsUpTo_kdfBlocks (chainAt_succ_length (fun _ _ => hmac_length ..) []) n

theorem fillsUpTo_oneStep (opt alg : Nat) (salt k info : List Byte) (n : Nat) :
    FillsUpTo (algLen alg) n (oneStep opt alg salt k info n) := by
  unfold oneStep
  dsimp only
  split
  · exact fillsUpTo_kdfBlocks (fun _ => digest_length ..) n
  · split
    · exact fillsUpTo_kdfBlocks (fun _ => hmac_length ..) n
    · exact fillsUpTo_of_length_eq (kmac_length ..)

theorem fillsUpTo_ctrOf (j : Job) (k : List Byte) (n : Nat) : FillsUpTo (algLen (algOf j)) n (ctrOf j k n) := by
  unfold ctrOf
  split
  · exact fillsUpTo_of_length_eq (kmac_length ..)
  · exact fillsUpTo_kdfCtr ..

/-! ### The operations with DEST 0 -/

section
variable {j : Job} (hdest : destOf j.hdr = 0)
include hdest

theorem deriveOut_of_bytes (bits : Nat) (b : List Byte) (s : State) : deriveOut j bits b s = (s, { out := b }) :=
  if_pos hdest

theorem deriveLen_of_bytes : deriveLen j = j.hdr.p0 16 16 := if_pos hdest

theorem kdfJob_of_bytes (f : Job → List Byte → Nat → List Byte) (s : State) :
    kdfJob f j s = (countHash j j.input.length s, { out := f j (keyMat j) (j.hdr.p0 16 16) }) := by
  rw [kdfJob, deriveOut_of_bytes hdest, deriveLen_of_bytes hdest]

theorem pbkdfJob_of_bytes (alg : Nat) (s : State) :
    pbkdfJob alg j s = (countHash j j.input.length s,
      { out := crypto .pbkdf2 [alg, j.hdr.p1 0 32] [kdfRest j, kdfPre j] (j.hdr.p0 16 16) }) := by
  rw [pbkdfJob, deriveOut_of_bytes hdest, deriveLen_of_bytes hdest]

end

/-! ### The rows -/

section
variable {op : Nat} {c : Nat → Instr}

theorem answers_of_kdfJob {f : Job → List Byte → Nat → List Byte}
    (hf : ∀ j k n, FillsUpTo (algLen (algOf j)) n (f j k n))
    (hrow : ∀ ctx s, exec (c ctx) s = .next (runOp op ctx (kdfJob f) s)) :
    Answers [(op, c)] fun ctx j s t r =>
      destOf j.hdr = 0 → JobOnly ctx s t ∧ r.status = stOk ∧ r.out.length ≤ j.hdr.p0 16 16
        ∧ (0 < algLen (algOf j) → r.out.length = j.hdr.p0 16 16) := by
  refine answers_of_runOp (fun ctx s j hdest => ?_) hrow
  rw [kdfJob_of_bytes hdest]
  exact ⟨jobOnly_answered (countersOnly_countHash ..) .., rfl, hf ..⟩

theorem answers_of_pbkdfJob {alg : Nat}
    (hrow : ∀ ctx s, exec (c ctx) s = .next (runOp op ctx (pbkdfJob alg) s)) :
    Answers [(op, c)] fun ctx j s t r =>
      destOf j.hdr = 0 → JobOnly ctx s t ∧ r.status = stOk ∧ r.out.length = j.hdr.p0 16 16 := by
  refine answers_of_runOp (fun ctx s j hdest => ?_) hrow
  rw [pbkdfJob_of_bytes hdest]
  exact ⟨jobOnly_answered (countersOnly_countHash ..) .., rfl, crypto_length ..⟩

end

/-- Settles O7, by the lengths of the derivation functions: output blocks, as many as OUT_LEN needs, cut to it. -/
theorem derivationsAnswerBytes : Obligations.DerivationsAnswerBytes := by
  unfold Obligations.DerivationsAnswerBytes
  constructor
  · refine answers_cons (answers_of_kdfJob fillsUpTo_ctrOf fun _ _ => rfl) ?_
    refine answers_cons (answers_of_kdfJob (fun _ _ _ => fillsUpTo_kdfFb ..) fun _ _ => rfl) ?_
    refine answers_cons (answers_of_kdfJob (fun _ _ _ => fillsUpTo_kdfDp ..) fun _ _ => rfl) ?_
    refine answers_cons (answers_of_kdfJob (fun _ _ _ => fillsUpTo_hkdfExpand ..) fun _ _ => rfl) ?_
    exact answers_of_kdfJob (fun _ _ _ => fillsUpTo_oneStep ..) fun _ _ => rfl
  · refine answers_cons (answers_of_pbkdfJob fun _ _ => rfl) ?_
    exact answers_of_pbkdfJob fun _ _ => rfl

end Sys2Proof.Machine
end

section
/-! The objects that a creation makes: what stands in the slots of its plan afterwards, and that its output begins with
their handles (07 R219, 11 R317, R325, R331). -/

namespace Sys2Proof.Machine

/-! ### What leaves the vault as it is -/

@[simp] theorem mirror_vault (c : Change) (s : State) : (mirror c s).vault = s.vault :=
  (congrArg State.vault (besideQuorum_mirror c s) :)

@[simp] theorem mirrorMade_vault (s0 : State) (j : Job) (r : Res) (s : State) : (mirrorMade s0 j r s).vault = s.vault := by
  unfold mirrorMade
  dsimp only
  split
  · exact mirror_vault _ s
  · rfl

@[simp] theorem answered_vault (s0 : State) (ctx : Nat) (j : Job) (r : State × Res) :
    (answered s0 ctx j r).vault = r.1.vault := mirrorMade_vault ..

@[simp] theorem refillSalts_vault (k : Nat) (s : State) : (refillSalts k s).vault = s.vault := by
  unfold refillSalts
  split <;> rfl

@[simp] theorem reserveDraw_vault (ctx n : Nat) (s : State) : (reserveDraw ctx n s).vault = s.vault := by
  unfold reserveDraw
  split <;> rfl

@[simp] theorem getJob_reserveDraw (ctx n c : Nat) (s : State) : getJob (reserveDraw ctx n s) c = getJob s c := by
  unfold reserveDraw
  split <;> rfl

/-! ### One object in its slot -/

@[simp] theorem touchHot_objs (pins : List Nat) (slot : Nat) (s : State) :
    (touchHot pins slot s).vault.objs = s.vault.objs := by
  simp [touchHot]

theorem storeObj_objs (slot : Nat) (o : KeyObj) (s : State) :
    (storeObj slot o s).vault.objs = tput s.vault.objs slot (keptCount s.vault slot o) := by
  simp [storeObj, putObj]

/-- A live object of a partition, family and class, with its link. -/
def IsLive (part fam cls : Nat) (link : Option Nat) (o : KeyObj) : Prop :=
  o.part = part ∧ o.fam = fam ∧ o.cls = cls ∧ o.link = link ∧ o.lost = false

theorem newObj_isLive (s : State) (slot part fam cls param policy cap : Nat) (label : Word) (mat salt : List Byte)
    (link : Option Nat) :
    IsLive part fam cls link (newObj s slot part fam cls param policy cap label mat salt link) := by
  unfold newObj
  dsimp only
  split <;> exact ⟨rfl, rfl, rfl, rfl, rfl⟩

/-- The object that is created for a plan: its counters are those of the plan, and the rest is that of a new object. -/
theorem createIn_self (slot part : Nat) (p : Plan) (link : Option Nat) (s : State) :
    ∃ o, tget (createIn slot part p link s).vault.objs slot = some o ∧ IsLive part p.fam p.cls link o := by
  rw [createIn, refillSalts_vault, storeObj_objs, tget_tput_self]
  exact ⟨_, rfl, newObj_isLive s slot part p.fam p.cls p.param p.policy p.cap p.label p.mat (s.vault.salts.headD []) link⟩

theorem createIn_ne {slot n : Nat} (part : Nat) (p : Plan) (link : Option Nat) (s : State) (h : n ≠ slot) :
    tget (createIn slot part p link s).vault.objs n = tget s.vault.objs n := by
  rw [createIn, refillSalts_vault, storeObj_objs, tget_tput_ne _ _ h]

/-! ### Handles -/

/-- The eight bytes of the handle of the object in a slot. -/
def slotHandle (t : State) (n : Nat) : List Byte := leBytes 8 (((tget t.vault.objs n).map (handleOf n)).getD 0)

@[simp] theorem slotHandle_length (t : State) (n : Nat) : (slotHandle t n).length = 8 := leBytes_length ..

theorem sliceB_append_left {b : List Byte} (r : List Byte) {n : Nat} (hb : b.length = n) : sliceB (b ++ r) 0 n = b := by
  rw [sliceB, List.drop_zero, List.take_left' hb]

theorem sliceB_append_middle {a b : List Byte} (r : List Byte) {off n : Nat} (ha : a.length = off) (hb : b.length = n) :
    sliceB (a ++ (b ++ r)) off n = b := by
  rw [sliceB, List.drop_left' ha, List.take_left' hb]

/-- A live object that stands in its slot is made where the output has its handle. -/
theorem made_of_slotHandle {t : State} {slot part fam cls off : Nat} {link : Option Nat} {out : List Byte} {o : KeyObj}
    (ho : tget t.vault.objs slot = some o) (hlive : IsLive part fam cls link o)
    (hout : sliceB out off 8 = slotHandle t slot) : Made t slot part fam cls link out off := by
  obtain ⟨hpart, hfam, hcls, hlink, hlost⟩ := hlive
  refine ⟨o, ho, hpart, hfam, hcls, hlink, hlost, ?_⟩
  rw [hout, slotHandle, ho, Option.map_some, Option.getD_some]

/-- Only the table of objects decides what is made. -/
theorem made_of_vault_eq {t u : State} {slot part fam cls off : Nat} {link : Option Nat} {out : List Byte}
    (h : Made t slot part fam cls link out off) (hv : u.vault = t.vault) : Made u slot part fam cls link out off := by
  rw [Made, hv]
  exact h

/-! ### The objects of a plan -/

theorem createPlanned_one (x : Nat) (l : List Nat) (part : Nat) (a : Plan) (s : State) :
    createPlanned (x :: l) part [a] s =
      (createIn x part a none s, slotHandle (createIn x part a none s) x) := rfl

theorem createPlanned_pair (x y : Nat) (l : List Nat) (part : Nat) (a b : Plan) (s : State) :
    createPlanned (x :: y :: l) part [a, b] s =
      let t := createIn y part b (some x) (createIn x part a (some y) s)
      (t, slotHandle t x ++ slotHandle t y) := rfl

/-- Only XTS material is refused for equal halves. -/
theorem makeKeys_of_fam_ne {j : Job} {plans : List Plan} (pre pub : List Byte) (s : State) (h : ∀ p ∈ plans, p.fam ≠ 2) :
    makeKeys j plans pre pub s =
      let r := createPlanned j.resSlots j.hdr.part plans s
      (r.1, { out := pre ++ r.2 ++ pub }) := by
  have hhalves : ¬ plans.any equalHalves = true := by simp +contextual [equalHalves, h]
  rw [makeKeys, if_neg hhalves]

section
variable {j : Job} {a b : Plan} {x y : Nat} {l : List Nat}

theorem makeKeys_one (pub : List Byte) (s : State) (ha : a.fam ≠ 2) (hslots : j.resSlots = x :: l) :
    let q := makeKeys j [a] [] pub s
    q.2.status = stOk ∧ Made q.1 x j.hdr.part a.fam a.cls none q.2.out 0 := by
  obtain ⟨o, ho, hlive⟩ := createIn_self x j.hdr.part a none s
  rw [makeKeys_of_fam_ne [] pub s (by simp [ha]), hslots, createPlanned_one]
  exact ⟨rfl, made_of_slotHandle ho hlive (sliceB_append_left pub (slotHandle_length ..))⟩

/-- The second object of a pair takes a slot of its own, so the first one stands. -/
theorem makeKeys_pair (pub : List Byte) (s : State) (ha : a.fam ≠ 2) (hb : b.fam ≠ 2) (hxy : x ≠ y)
    (hslots : j.resSlots = x :: y :: l) :
    let q := makeKeys j [a, b] [] pub s
    q.2.status = stOk ∧ Made q.1 x j.hdr.part a.fam a.cls (some y) q.2.out 0
      ∧ Made q.1 y j.hdr.part b.fam b.cls (some x) q.2.out 8 := by
  obtain ⟨o, ho, holive⟩ := createIn_self x j.hdr.part a (some y) s
  obtain ⟨p, hp, hplive⟩ := createIn_self y j.hdr.part b (some x) (createIn x j.hdr.part a (some y) s)
  have hx := (createIn_ne j.hdr.part b (some x) (createIn x j.hdr.part a (some y) s) hxy).trans ho
  rw [makeKeys_of_fam_ne [] pub s (by simp [ha, hb]), hslots, createPlanned_pair]
  dsimp only
  rw [List.nil_append, List.append_assoc]
  refine ⟨rfl, made_of_slotHandle hx holive ?first, made_of_slotHandle hp hplive ?second⟩
  case first => exact sliceB_append_left _ (slotHandle_length ..)
  case second => exact sliceB_append_middle _ (slotHandle_length ..) (slotHandle_length ..)

end

/-! ### Operations that make the objects of a template -/

/-- The operation's outcome is that of making the objects of the job's template: one, or two for DEST 2. -/
def MakesTemplate (j : Job) (q : State × Res) : Prop :=
  ∃ a b pub u, q = makeKeys j (if destOf j.hdr = 2 then [a, b] else [a]) [] pub u
    ∧ a.fam = (jobTemplate j).fam ∧ a.cls = (jobTemplate j).cls
    ∧ b.fam = (jobTemplate j).fam ∧ b.cls = (jobTemplate j).cls2

theorem makesTemplate_symPlans (j : Job) (bits : Nat) (mat : List Byte) (s : State) :
    MakesTemplate j (makeKeys j (symPlans (jobTemplate j) (destOf j.hdr) bits mat) [] [] s) :=
  ⟨_, _, _, _, rfl, rfl, rfl, rfl, rfl⟩

theorem makesTemplate_pairPlans (j : Job) (param bits : Nat) (priv pub : List Byte) (s : State) :
    MakesTemplate j (makeKeys j (pairPlans (jobTemplate j) (destOf j.hdr) param bits priv pub) [] pub s) :=
  ⟨_, _, _, _, rfl, rfl, rfl, rfl, rfl⟩

theorem makesTemplate_deriveOut {j : Job} (hdest : destOf j.hdr ≠ 0) (bits : Nat) (b : List Byte) (s : State) :
    MakesTemplate j (deriveOut j bits b s) := by
  rw [deriveOut, if_neg hdest]
  exact makesTemplate_symPlans ..

theorem makesTemplate_kdfJob (f : Job → List Byte → Nat → List Byte) (j : Job) (s : State) (hdest : destOf j.hdr ≠ 0) :
    MakesTemplate j (kdfJob f j s) := makesTemplate_deriveOut hdest ..

theorem makesTemplate_pbkdfJob (alg : Nat) (j : Job) (s : State) (hdest : destOf j.hdr ≠ 0) :
    MakesTemplate j (pbkdfJob alg j s) := makesTemplate_deriveOut hdest ..

theorem makesTemplate_mlkemKeygen (j : Job) (s : State) (hdest : destOf j.hdr ≠ 0) : MakesTemplate j (mlkemKeygen j s) := by
  rw [mlkemKeygen, if_neg hdest]
  exact makesTemplate_pairPlans ..

/-- What KeysAreMade says of a template's objects: one for DEST 1, two that are linked to one another for DEST 2. -/
def TemplateMade (j : Job) (t : State) (r : Res) : Prop :=
  let m := jobTemplate j
  (∀ x l, destOf j.hdr = 1 → m.fam ≠ 2 → j.resSlots = x :: l →
    r.status = stOk ∧ Made t x j.hdr.part m.fam m.cls none r.out 0)
  ∧ ∀ x y l, destOf j.hdr = 2 → m.fam ≠ 2 → x ≠ y → j.resSlots = x :: y :: l →
    r.status = stOk ∧ Made t x j.hdr.part m.fam m.cls (some y) r.out 0
      ∧ Made t y j.hdr.part m.fam m.cls2 (some x) r.out 8

theorem templateMade_of_makesTemplate {j : Job} {q : State × Res} (h : destOf j.hdr ≠ 0 → MakesTemplate j q)
    {t : State} (ht : t.vault = q.1.vault) : TemplateMade j t q.2 := by
  refine ⟨fun x l hdest hfam hslots => ?one, fun x y l hdest hfam hxy hslots => ?pair⟩
  case one =>
    obtain ⟨a, b, pub, u, rfl, hafam, hacls, -, -⟩ := h (by omega)
    have hone : destOf j.hdr ≠ 2 := by omega
    rw [if_neg hone] at ht ⊢
    rw [← hafam] at hfam ⊢
    obtain ⟨hstatus, hmade⟩ := makeKeys_one pub u hfam hslots
    exact ⟨hstatus, hacls ▸ made_of_vault_eq hmade ht⟩
  case pair =>
    obtain ⟨a, b, pub, u, rfl, hafam, hacls, hbfam, hbcls⟩ := h (by omega)
    rw [if_pos hdest] at ht ⊢
    obtain ⟨hstatus, hx, hy⟩ := makeKeys_pair pub u (hafam ▸ hfam) (hbfam ▸ hfam) hxy hslots
    exact ⟨hstatus, hafam ▸ hacls ▸ made_of_vault_eq hx ht, hbfam ▸ hbcls ▸ made_of_vault_eq hy ht⟩

/-! ### The rows -/

theorem answers_of_makesTemplate {op : Nat} {c : Nat → Instr} {f : Job → State → State × Res}
    (hf : ∀ j s, destOf j.hdr ≠ 0 → MakesTemplate j (f j s))
    (hrow : ∀ ctx s, exec (c ctx) s = .next (runOp op ctx f s)) :
    Answers [(op, c)] fun _ j _ t r => TemplateMade j t r :=
  answers_of_runOp (fun _ s j => templateMade_of_makesTemplate (hf j s) (answered_vault ..)) hrow

section
variable {ctx : Nat} {s : State} {j : Job} (h : jobFor s ctx 0x308 = some j)
include h

theorem exec_rsaKeygen_of_accepted (ha : rsaAccepts j = true) :
    exec (.rsaKeygen ctx) s = .next (answered s ctx j (rsaKeygen j s)) := by
  change execRsaKeygen ctx s = _
  rw [← runOp_eq rsaKeygen h]
  simp [execRsaKeygen, h, ha]

/-- Primes out of their bounds are rejected like any candidate: the unit's segment ends, and the job is held. -/
theorem exec_rsaKeygen_of_rejected (ha : rsaAccepts j = false) :
    exec (.rsaKeygen ctx) s = .next (j.unit.elim s fun u => segmentRejected u 1 ctx j s) := by
  change execRsaKeygen ctx s = _
  simp only [execRsaKeygen, h, ha]
  cases j.unit <;> rfl

end

/-- A job without a result that has lost its candidates makes no key and has no result. -/
theorem segmentRejected_rsaKeygen {j : Job} (u n ctx : Nat) (s : State) (hop : j.hdr.opcode = 0x308)
    (hr : j.result = none) :
    (segmentRejected u n ctx j s).vault = s.vault
      ∧ ∃ k, getJob (segmentRejected u n ctx j s) ctx = some k ∧ k.result = none := by
  simp [segmentRejected, hop, hr]

theorem rootDerive_of_not_bound {j : Job} {s : State} (h : tget s.vault.binds (j.hdr.p0 0 6) ≠ some j.hdr.part) :
    rootDerive j s = fail stPartitionDenied s := if_pos h

theorem rootDerive_of_bound {j : Job} {s : State} (h : tget s.vault.binds (j.hdr.p0 0 6) = some j.hdr.part) :
    ∃ mat, rootDerive j s = makeKeys j [planOf (jobTemplate j) (jobTemplate j).cls 0 0 mat] [] [] s :=
  ⟨_, if_neg (not_not_intro h)⟩

/-- The object of a pack that is restored: what the pack carries of it, with IMPORTED set (11 R331). -/
def restoredPlan (o : KeyObj) : Plan where
  fam := o.fam
  cls := o.cls
  param := o.param
  policy := o.policy % 2048 + polImported
  cap := o.cap
  label := o.label
  mat := o.mat
  invLead := o.invLead
  invSecond := o.invSecond

theorem restorePack_eq {j : Job} {o : KeyObj} (s : State) (h : j.keyA = some o) :
    restorePack j s = makeKeys j [restoredPlan o] [] [] (bump 15 5 1 s) := by
  rw [restorePack, h]
  rfl

/-- Settles O11, by the objects that a plan leaves in its slots: one after the other, each in a slot of its own. -/
theorem keysAreMade : Obligations.KeysAreMade := by
  unfold Obligations.KeysAreMade
  refine ⟨?rows, fun ctx s j h => ⟨fun ha => ?rsa, fun ha => ?rsaRejected⟩, ?rootDerive, ?restorePack⟩
  case rows =>
    simp only [List.forall_mem_cons, List.not_mem_nil, false_implies, implies_true, and_true]
    have derivation {op c f} := answers_of_makesTemplate (op := op) (c := c) (makesTemplate_kdfJob f)
    have password {op c alg} := answers_of_makesTemplate (op := op) (c := c) (makesTemplate_pbkdfJob alg)
    refine ⟨derivation fun _ _ => rfl, derivation fun _ _ => rfl, derivation fun _ _ => rfl, derivation fun _ _ => rfl,
      derivation fun _ _ => rfl, password fun _ _ => rfl, password fun _ _ => rfl, ?ec, ?mlkem, ?mldsa, ?slhdsa, ?generate⟩
    case ec => exact answers_of_makesTemplate (f := ecKeygen) (fun _ _ _ => makesTemplate_pairPlans ..) fun _ _ => rfl
    case mlkem => exact answers_of_makesTemplate makesTemplate_mlkemKeygen fun _ _ => rfl
    case mldsa => exact answers_of_makesTemplate (f := mldsaKeygen) (fun _ _ _ => makesTemplate_pairPlans ..) fun _ _ => rfl
    case slhdsa => exact answers_of_makesTemplate (f := slhdsaKeygen) (fun _ _ _ => makesTemplate_pairPlans ..) fun _ _ => rfl
    case generate => exact answers_of_makesTemplate (f := keyGenerate) (fun _ _ _ => makesTemplate_symPlans ..) fun _ _ => rfl
  case rsa =>
    refine ⟨_, _, exec_rsaKeygen_of_accepted h ha, answered_holds .., ?_⟩
    exact templateMade_of_makesTemplate (fun _ => makesTemplate_pairPlans ..) (answered_vault ..)
  case rsaRejected =>
    obtain ⟨hj, -, hop, hr⟩ := jobFor_spec h
    refine ⟨_, exec_rsaKeygen_of_rejected h ha, ?_⟩
    cases j.unit with
    | none => exact ⟨rfl, fun k hk => Option.some.inj (hj.symm.trans hk) ▸ hr⟩
    | some u =>
      obtain ⟨hvault, i, hi, hires⟩ := segmentRejected_rsaKeygen u 1 ctx s hop hr
      exact ⟨hvault, fun k hk => Option.some.inj (hi.symm.trans hk) ▸ hires⟩
  case rootDerive =>
    refine answers_of_runOp (f := rootDerive) (fun ctx s j => ⟨fun hbind => ?_, fun x l hbind hfam hslots => ?_⟩) fun _ _ => rfl
    · rw [answered_vault, rootDerive_of_not_bound hbind]
      exact ⟨rfl, rfl⟩
    · obtain ⟨mat, hmat⟩ := rootDerive_of_bound hbind
      rw [hmat]
      obtain ⟨hstatus, hmade⟩ := makeKeys_one (a := planOf (jobTemplate j) _ 0 0 mat) [] s hfam hslots
      exact ⟨hstatus, made_of_vault_eq hmade (answered_vault ..)⟩
  case restorePack =>
    refine answers_of_runOp (f := restorePack) (fun ctx s j o x l ho hfam hslots => ?_) fun _ _ => rfl
    rw [restorePack_eq s ho]
    obtain ⟨hstatus, hmade⟩ := makeKeys_one (a := restoredPlan o) [] (bump 15 5 1 s) hfam hslots
    exact ⟨hstatus, made_of_vault_eq hmade (answered_vault ..)⟩

end Sys2Proof.Machine
end

section
/-! The public-key and lattice opcodes whose operations leave the state as it is: signatures, OAEP and verifications,
and the key agreements with DEST 0 (08 R232-R241, 09 R262, R264, R276). -/

namespace Sys2Proof.Machine

/-! ### Operations that leave the state as it is -/

/-- The operation leaves the state as it is, and `P` holds of what it answers. -/
def RunsAlone (f : Job → State → State × Res) (P : Job → Res → Prop) : Prop := ∀ j s, ∃ r, f j s = (s, r) ∧ P j r

theorem jobAlone_stage (ctx : Nat) (j : Job) (r : Res) (s : State) : JobAlone ctx s (stage ctx j r s) := by
  obtain ⟨-, hothers, hstate⟩ := stage_spec ctx j r s
  exact ⟨hstate, hothers⟩

/-- An entry that has changed nothing has nothing to mirror: only its job is written. -/
theorem jobAlone_answered (s : State) (ctx : Nat) (j : Job) (r : Res) : JobAlone ctx s (answered s ctx j (s, r)) := by
  have hsame : CountersOnly s s := rfl
  rw [answered, mirrorMade_of_countersOnly hsame]
  exact jobAlone_stage ..

theorem answers_of_runsAlone {op : Nat} {c : Nat → Instr} {f : Job → State → State × Res} {P : Job → Res → Prop}
    (hf : RunsAlone f P) (hrow : ∀ ctx s, exec (c ctx) s = .next (runOp op ctx f s)) :
    Answers [(op, c)] fun ctx j s t r => JobAlone ctx s t ∧ P j r := by
  refine answers_of_runOp (fun ctx s j => ?_) hrow
  obtain ⟨r, hr, hP⟩ := hf j s
  rw [hr]
  exact ⟨jobAlone_answered .., hP⟩

/-! ### Signatures (08 R233, 09 R262) -/

/-- The operation answers OK and as many bytes as `n` says. -/
abbrev AnswersLength (f : Job → State → State × Res) (n : Job → Nat) : Prop :=
  RunsAlone f fun j r => r.status = stOk ∧ r.out.length = n j

theorem rsaSign_answersLength : AnswersLength rsaSign modBytes :=
  fun _ _ => ⟨_, rfl, rfl, crypto_length ..⟩

theorem ecdsaSign_answersLength : AnswersLength ecdsaSign fun j => 2 * (curveLens j).2 :=
  fun _ _ => ⟨_, rfl, rfl, crypto_length ..⟩

theorem eddsaSign_answersLength : AnswersLength eddsaSign fun j => if psetOf j = 10 then 64 else 114 :=
  fun _ _ => ⟨_, rfl, rfl, crypto_length ..⟩

theorem latSign_answersLength (f : CryptoFn) : AnswersLength (latSign f) fun j => latOut j.hdr :=
  fun _ _ => ⟨_, rfl, rfl, crypto_length ..⟩

/-! ### OAEP (08 R240, R241) -/

theorem oaepEncrypt_of_inlineOk {j : Job} (s : State) (h : rsaInlineOk j.hdr (modBytes j) (pubKey j) = true) :
    ∃ b, oaepEncrypt j s = (s, { out := b }) ∧ b.length = modBytes j :=
  ⟨_, if_neg (by simp [h]), crypto_length ..⟩

theorem oaepEncrypt_of_not_inlineOk {j : Job} (s : State) (h : ¬ rsaInlineOk j.hdr (modBytes j) (pubKey j) = true) :
    oaepEncrypt j s = (s, { status := stDecapReject }) :=
  if_pos (by simp [h])

theorem oaepEncrypt_runsAlone : RunsAlone oaepEncrypt fun j r =>
    if rsaInlineOk j.hdr (modBytes j) (pubKey j) then r.status = stOk ∧ r.out.length = modBytes j
    else r.status = stDecapReject ∧ r.out = [] := by
  intro j s
  by_cases h : rsaInlineOk j.hdr (modBytes j) (pubKey j) = true
  · obtain ⟨b, hb, hlen⟩ := oaepEncrypt_of_inlineOk s h
    exact ⟨_, hb, (if_pos h).mpr ⟨rfl, hlen⟩⟩
  · exact ⟨_, oaepEncrypt_of_not_inlineOk s h, (if_neg h).mpr ⟨rfl, rfl⟩⟩

/-- The ciphertext of an OAEP entry is below the modulus, the modulus has room for the hash, and the padding verifies. -/
abbrev OaepOpens (j : Job) : Prop :=
  let ct := j.input.drop (j.hdr.p0 40 8)
  beNat ct < rsaN (modBytes j) (keyMat j) ∧ 2 * halgLen j + 2 ≤ modBytes j
    ∧ Config.cryptoOk .rsa [0x305, halgOf j] [keyMat j, j.input.take (j.hdr.p0 40 8), ct] = true

theorem oaepLen_le {k h : Nat} (hk : 2 * h + 2 ≤ k) (mat label ct : List Byte) :
    oaepLen k h mat label ct + 2 * h + 2 ≤ k := by
  have hlt : oaepLen k h mat label ct < k - 2 * h - 1 := Nat.mod_lt _ (by omega)
  omega

theorem oaepDecrypt_of_opens {j : Job} (s : State) (h : OaepOpens j) :
    ∃ b, oaepDecrypt j s = (s, { out := b }) ∧ b.length + 2 * halgLen j + 2 ≤ modBytes j := by
  obtain ⟨hct, hk, hpad⟩ := h
  refine ⟨_, if_pos (by simp [hct, hk, hpad]), ?_⟩
  rw [crypto_length]
  exact oaepLen_le hk ..

theorem oaepDecrypt_of_not_opens {j : Job} (s : State) (h : ¬ OaepOpens j) :
    oaepDecrypt j s = (s, { status := stAuthFail }) :=
  if_neg fun hok => h (by simpa [and_assoc] using hok)

theorem oaepDecrypt_runsAlone : RunsAlone oaepDecrypt fun j r =>
    if OaepOpens j then r.status = stOk ∧ r.out.length + 2 * halgLen j + 2 ≤ modBytes j
    else r.status = stAuthFail ∧ r.out = [] := by
  intro j s
  by_cases h : OaepOpens j
  · obtain ⟨b, hb, hlen⟩ := oaepDecrypt_of_opens s h
    exact ⟨_, hb, (if_pos h).mpr ⟨rfl, hlen⟩⟩
  · exact ⟨_, oaepDecrypt_of_not_opens s h, (if_neg h).mpr ⟨rfl, rfl⟩⟩

/-- Settles O8, by operations that leave the state as it is and draw from the bytes that their job holds. -/
theorem signatureOpcodesAnswer : Obligations.SignatureOpcodesAnswer := by
  unfold Obligations.SignatureOpcodesAnswer
  refine ⟨answers_cons ?pkcs1 ?pss, ?ecdsa, ?eddsa, answers_cons ?mldsa ?slhdsa, ?encrypt, ?decrypt⟩
  case pkcs1 => exact answers_of_runsAlone rsaSign_answersLength fun _ _ => rfl
  case pss => exact answers_of_runsAlone rsaSign_answersLength fun _ _ => rfl
  case ecdsa => exact answers_of_runsAlone ecdsaSign_answersLength fun _ _ => rfl
  case eddsa => exact answers_of_runsAlone eddsaSign_answersLength fun _ _ => rfl
  case mldsa => exact answers_of_runsAlone (latSign_answersLength .lattice) fun _ _ => rfl
  case slhdsa => exact answers_of_runsAlone (latSign_answersLength .hashSig) fun _ _ => rfl
  case encrypt => exact answers_of_runsAlone oaepEncrypt_runsAlone fun _ _ => rfl
  case decrypt => exact answers_of_runsAlone oaepDecrypt_runsAlone fun _ _ => rfl

/-! ### Verifications (08 R240, 09 R264) -/

/-- The operation is a verification that passes the entries of which `P` holds. -/
abbrev Verifies (f : Job → State → State × Res) (P : Job → Prop) : Prop := RunsAlone f fun j r => PassesIff r (P j)

theorem verifies_of_check {f : Job → State → State × Res} {ok : Job → Bool} {P : Job → Prop}
    (hf : ∀ j s, f j s = if ok j then (s, {}) else fail stVerifyFail s) (hok : ∀ j, ok j = true ↔ P j) :
    Verifies f P := by
  intro j s
  rw [hf]
  by_cases h : ok j = true
  · exact ⟨_, if_pos h, rfl, fun _ => rfl, absurd ((hok j).mp h)⟩
  · exact ⟨_, if_neg h, rfl, fun hp => absurd ((hok j).mpr hp) h, fun _ => rfl⟩

theorem rsaVerify_verifies : Verifies rsaVerify fun j =>
    let sig := (afterKey j).drop (halgLen j)
    rsaInlineOk j.hdr (modBytes j) (pubKey j) = true ∧ beNat sig < rsaN (modBytes j) (pubKey j)
      ∧ Config.cryptoOk .rsa [j.hdr.opcode, halgOf j, j.hdr.p0 16 8] [pubKey j, (afterKey j).take (halgLen j), sig] = true :=
  verifies_of_check (fun _ _ => rfl) fun j => by simp [and_assoc]

theorem ecdsaVerify_verifies : Verifies ecdsaVerify fun j =>
    let n := j.hdr.p0 24 8
    (isInline j.hdr = true → pointOk (psetOf j) (pubKey j) = true)
      ∧ Config.cryptoOk .ecc [0x311, psetOf j] [pubKey j, (afterKey j).take n, (afterKey j).drop n] = true :=
  verifies_of_check (fun _ _ => rfl) fun j => by cases isInline j.hdr <;> simp

theorem eddsaVerify_verifies : Verifies eddsaVerify fun j =>
    let k := (afterKey j).length - if psetOf j = 10 then 64 else 114
    let m := (afterKey j).take k
    Config.cryptoOk .ecc (edPs 0x315 j) [pubKey j, m.take (edCtx j), m.drop (edCtx j), (afterKey j).drop k] = true :=
  verifies_of_check (fun _ _ => rfl) fun _ => Iff.rfl

theorem latVerify_verifies (f : CryptoFn) (sigLen : Job → Nat) : Verifies (fun j => latVerify f (sigLen j) j) fun j =>
    let m := (latBody j).drop (ctxLen j)
    let sig := m.drop (j.hdr.p1 0 16)
    sig.length = sigLen j ∧ Config.cryptoOk f (sigPs j.hdr.opcode j)
      [latKey j, (latBody j).take (ctxLen j), m.take (j.hdr.p1 0 16), sig] = true :=
  verifies_of_check (fun _ _ => rfl) fun j => by simp

/-- Settles O9, by verifications that leave the state as it is and answer one check. -/
theorem verifyOpcodesAnswer : Obligations.VerifyOpcodesAnswer := by
  unfold Obligations.VerifyOpcodesAnswer
  simp only [List.forall_mem_cons, List.not_mem_nil, false_implies, implies_true, and_true]
  refine ⟨answers_cons ?pkcs1 ?pss, ?ecdsa, ?eddsa, ?mldsa, ?slhdsa, ?lms, ?xmss⟩
  case pkcs1 => exact answers_of_runsAlone rsaVerify_verifies fun _ _ => rfl
  case pss => exact answers_of_runsAlone rsaVerify_verifies fun _ _ => rfl
  case ecdsa => exact answers_of_runsAlone ecdsaVerify_verifies fun _ _ => rfl
  case eddsa => exact answers_of_runsAlone eddsaVerify_verifies fun _ _ => rfl
  case mldsa => exact answers_of_runsAlone (latVerify_verifies .lattice mldsaSig) fun _ _ => rfl
  case slhdsa => exact answers_of_runsAlone (latVerify_verifies .hashSig slhSig) fun _ _ => rfl
  case lms => exact answers_of_runsAlone (latVerify_verifies .hashSig statefulSig) fun _ _ => rfl
  case xmss => exact answers_of_runsAlone (latVerify_verifies .hashSig statefulSig) fun _ _ => rfl

/-! ### Agreements (08 R240, 09 R262, R264, R276) -/

/-- An agreement rejects the entries of which `bad` holds; of its result for a `good` one with DEST 0, `P` holds. -/
theorem answers_of_agreement {op : Nat} {c : Nat → Instr} {f : Job → State → State × Res} {bad good : Job → Prop}
    {P : Job → Res → Prop} (hbad : ∀ j s, bad j → f j s = fail stDecapReject s)
    (hgood : ∀ j s, good j → destOf j.hdr = 0 → P j (f j s).2)
    (hrow : ∀ ctx s, exec (c ctx) s = .next (runOp op ctx f s)) :
    Answers [(op, c)] fun _ j _ _ r =>
      (bad j → r.status = stDecapReject ∧ r.out = []) ∧ (good j → destOf j.hdr = 0 → P j r) :=
  answers_of_runOp (fun _ s j => ⟨fun h => hbad j s h ▸ ⟨rfl, rfl⟩, hgood j s⟩) hrow

section
variable {j : Job} (s : State)

theorem ecdhJob_of_not_point (h : pointOk (psetOf j) (peerValue j) = false) : ecdhJob j s = fail stDecapReject s :=
  if_pos (by simp [h])

theorem ecdhJob_of_point (h : pointOk (psetOf j) (peerValue j) = true) :
    ecdhJob j s =
      deriveOut j polDerived (crypto .ecc [0x318, psetOf j] [keyMat j, peerValue j] (curveLens j).1) s :=
  if_neg (by simp [h])

/-- The shared value of an XDH entry. -/
abbrev xdhSecret (j : Job) : List Byte := crypto .ecc [0x319, psetOf j] [keyMat j, peerValue j] (curveLens j).1

theorem xdhJob_of_zeros (h : (xdhSecret j).all (· == 0) = true) : xdhJob j s = fail stDecapReject s := if_pos h

theorem xdhJob_of_not_zeros (h : (xdhSecret j).all (· == 0) = false) :
    xdhJob j s = deriveOut j polDerived (xdhSecret j) s :=
  if_neg (ne_true_of_eq_false h)

/-- An encapsulation under an inline key that does not pass its checks. -/
abbrev badInlineEk (j : Job) : Bool := isInline j.hdr && !Config.cryptoOk .lattice [0x401, psetOf j] [afterTemplate j]

theorem mlkemEncaps_of_bad (h : badInlineEk j = true) : mlkemEncaps j s = fail stDecapReject s := by
  obtain ⟨hinline, -⟩ := (Bool.and_eq_true ..).mp h
  exact if_pos (by simpa [hinline] using h)

theorem mlkemEncaps_of_bytes (h : badInlineEk j = false) (hdest : destOf j.hdr = 0) :
    ∃ b, mlkemEncaps j s = (s, { out := b }) ∧ b.length = (kemLens j).2.2 + 32 := by
  refine ⟨_, (if_neg ?_).trans (if_pos hdest), crypto_length ..⟩
  cases hinline : isInline j.hdr with
  | true => simpa [hinline] using h
  | false => simp

/-- The ciphertext of a decapsulation, after a template and a pack. -/
abbrev kemCiphertext (j : Job) : List Byte :=
  (afterTemplate j).drop (if carriesPack j.hdr then (packBytes j.hdr j.input).length else 0)

theorem mlkemDecaps_of_length_ne (h : (kemCiphertext j).length ≠ (kemLens j).2.2) :
    mlkemDecaps j s = fail stDecapReject s := if_pos h

theorem mlkemDecaps_of_length_eq (h : (kemCiphertext j).length = (kemLens j).2.2) :
    mlkemDecaps j s = deriveOut j (if carriesPack j.hdr then 0 else polDerived)
      (crypto .lattice [0x402, psetOf j] [keyMat j, kemCiphertext j] 32) s := if_neg (not_not_intro h)

theorem hybridCombine_of_bytes (hdest : destOf j.hdr = 0) :
    ∃ b, hybridCombine j s = (s, { out := b }) ∧ b.length = j.hdr.p1 0 16 := by
  rw [hybridCombine, deriveOut_of_bytes hdest, if_pos hdest]
  exact ⟨_, rfl, kmac_length ..⟩

end

/-- Settles O10, by the rejection of each agreement and by what it derives with DEST 0. -/
theorem agreementOpcodesAnswer : Obligations.AgreementOpcodesAnswer := by
  unfold Obligations.AgreementOpcodesAnswer
  refine ⟨?ecdh, ?xdh, ?encaps, ?decaps, ?hybrid⟩
  case ecdh =>
    refine answers_of_agreement (fun _ s => ecdhJob_of_not_point s) (fun j s h hdest => ?_) fun _ _ => rfl
    rw [ecdhJob_of_point s h, deriveOut_of_bytes hdest]
    exact ⟨rfl, crypto_length ..⟩
  case xdh =>
    refine answers_of_agreement (fun _ s => xdhJob_of_zeros s) (fun j s h hdest => ?_) fun _ _ => rfl
    rw [xdhJob_of_not_zeros s h, deriveOut_of_bytes hdest]
    exact ⟨rfl, rfl⟩
  case encaps =>
    refine answers_of_agreement (fun _ s => mlkemEncaps_of_bad s) (fun j s h hdest => ?_) fun _ _ => rfl
    obtain ⟨b, hb, hlen⟩ := mlkemEncaps_of_bytes s h hdest
    rw [hb]
    exact ⟨rfl, hlen⟩
  case decaps =>
    refine answers_of_agreement (fun _ s => mlkemDecaps_of_length_ne s) (fun j s h hdest => ?_) fun _ _ => rfl
    rw [mlkemDecaps_of_length_eq s h, deriveOut_of_bytes hdest]
    exact ⟨rfl, crypto_length ..⟩
  case hybrid =>
    refine answers_of_runOp (f := hybridCombine) (fun ctx s j hdest => ?_) fun _ _ => rfl
    obtain ⟨b, hb, hlen⟩ := hybridCombine_of_bytes s hdest
    rw [hb]
    exact ⟨jobAlone_answered .., rfl, hlen⟩

end Sys2Proof.Machine
end

section
/-! Stateful keys: what an entry of a build stream that is not its last one leaves, how a sign job takes the next leaf,
and what it answers with the leaf it has (09 R270, R272, R273, R275). -/

namespace Sys2Proof.Machine

/-! ### Refused jobs -/

@[simp] theorem dropStream_vault (slot id : Nat) (s : State) : (dropStream slot id s).vault = s.vault := by
  unfold dropStream
  dsimp only
  split
  · exact mirror_vault ..
  · rfl

@[simp] theorem endStreamId_vault (slot id o : Nat) (s : State) : (endStreamId slot id o s).vault = s.vault := by
  unfold endStreamId
  dsimp only
  split
  · rfl
  · exact dropStream_vault ..

@[simp] theorem endStreamOf_vault (j : Job) (s : State) : (endStreamOf j s).vault = s.vault := by
  unfold endStreamOf
  split
  · exact endStreamId_vault ..
  · split
    · exact endStreamId_vault ..
    · rfl

@[simp] theorem refuseJob_vault (ctx : Nat) (j : Job) (st due : Nat) (s : State) :
    (refuseJob ctx j st due s).vault = s.vault := by
  simp [refuseJob, endJob, burnLeaf]

theorem refuseJob_holds (ctx : Nat) (j : Job) (st due : Nat) (s : State) :
    Holds (refuseJob ctx j st due s) ctx { status := st } := ⟨_, getJob_setJob .., rfl⟩

/-! ### Build streams (09 R275) -/

section
variable (fam ctx : Nat) {j : Job} (s : State)

theorem buildEntry_of_first (hlast : j.hdr.isLast = false) (hfirst : j.hdr.isFirst = true) :
    buildEntry fam ctx j s = (setJob ctx { j with partialOut := jobDraw j } s, {}) := by
  simp [buildEntry, hlast, hfirst]

theorem buildEntry_of_middle (hlast : j.hdr.isLast = false) (hfirst : j.hdr.isFirst = false) :
    buildEntry fam ctx j s = (s, {}) := by
  simp [buildEntry, hlast, hfirst]

/-- An operation that has written its job alone: the job as it was written is staged, and nothing is mirrored. -/
theorem answered_setJob (j k : Job) (r : Res) :
    answered s ctx j (setJob ctx k s, r) =
      stage ctx { k with ackNeed := ownAck s (setJob ctx k s) k.ackNeed } r (setJob ctx k s) := by
  simp only [answered, getJob_setJob, Option.getD_some, mirrorMade_setJob]

theorem jobAlone_answered_setJob (j k : Job) (r : Res) : JobAlone ctx s (answered s ctx j (setJob ctx k s, r)) := by
  rw [answered_setJob]
  exact ⟨rfl, fun c hc => (getJob_setJob_ne _ _ hc).trans (getJob_setJob_ne _ _ hc)⟩

/-- The answer to an entry that is not the last of its build stream. -/
theorem answered_buildEntry_of_not_last (hlast : j.hdr.isLast = false) :
    (buildEntry fam ctx j s).2 = {} ∧ JobAlone ctx s (answered s ctx j (buildEntry fam ctx j s))
      ∧ (j.hdr.isFirst = true →
        ∃ k, getJob (answered s ctx j (buildEntry fam ctx j s)) ctx = some k ∧ k.partialOut = jobDraw j) := by
  cases hfirst : j.hdr.isFirst with
  | true =>
    rw [buildEntry_of_first fam ctx s hlast hfirst]
    refine ⟨rfl, jobAlone_answered_setJob .., fun _ => ?_⟩
    rw [answered_setJob]
    exact ⟨_, getJob_setJob .., rfl⟩
  | false =>
    rw [buildEntry_of_middle fam ctx s hlast hfirst]
    exact ⟨rfl, jobAlone_answered .., nofun⟩

end

theorem answers_of_buildEntry {op fam : Nat} {c : Nat → Instr}
    (hrow : ∀ ctx s, exec (c ctx) s = .next (runOp op ctx (buildEntry fam ctx) s)) :
    Answers [(op, c)] fun ctx j s t r =>
      j.hdr.isLast = false → JobAlone ctx s t ∧ r.status = stOk ∧ r.out = []
        ∧ (j.hdr.isFirst = true → ∃ k, getJob t ctx = some k ∧ k.partialOut = jobDraw j) := by
  intro p hp ctx s j h
  obtain rfl := List.mem_singleton.mp hp
  rw [hrow, runOp_eq _ h]
  refine ⟨_, _, rfl, answered_holds .., fun hlast => ?_⟩
  obtain ⟨hres, halone, hseed⟩ := answered_buildEntry_of_not_last fam ctx s hlast
  rw [hres]
  exact ⟨halone, rfl, rfl, hseed⟩

/-! ### The leaf of a sign job (09 R270, R273) -/

/-- The rows of the signatures under a stateful key. -/
abbrev leafRows : List OpRow := [(0x431, .lmsSign), (0x435, .xmssSign)]

theorem exec_leafRows : ∀ g ∈ leafRows, ∀ ctx s, exec (g.2 ctx) s = .next (leafRow g.1 ctx s) := by
  simp only [List.forall_mem_cons, List.not_mem_nil, false_implies, implies_true, and_true]
  exact ⟨fun _ _ => rfl, fun _ _ => rfl⟩

section
variable {ctx : Nat} {s : State} {j : Job}

/-- A job that waits without a leaf takes one on the device that holds the key. -/
theorem leafRow_of_ready (hj : getJob s ctx = some j) (hready : j.phase = .ready) (hleaf : j.leaf = none)
    (hholder : leafHolder s = true) : leafRow j.hdr.opcode ctx s = assignLeaf ctx j s := by
  have hphase : (j.phase == .ready) = true := by rw [hready]; rfl
  simp [leafRow, hj, hphase, hleaf, hholder]

/-- A job past its commit point signs. -/
theorem leafRow_of_jobFor {op : Nat} (h : jobFor s ctx op = some j) :
    leafRow op ctx s = answered s ctx j (leafSign j s) := by
  obtain ⟨hj, hrunning, -, -⟩ := jobFor_spec h
  have hphase : (j.phase == .ready) = false := by rw [hrunning]; rfl
  rw [← runOp_eq leafSign h]
  simp [leafRow, hj, hphase]

variable {o : KeyObj} (hkey : keyAt s j.hdr.keyA = some o)
include hkey

theorem assignLeaf_of_exhausted (hnone : leafCount o ≤ o.next) :
    assignLeaf ctx j s = refuseJob ctx j stKeyExhausted (nextBoundary s) (bump 13 24 1 s) := by
  simp [assignLeaf, hkey, hnone]

/-- A leaf that is left: the key advances in its slot, and the job has the leaf that was next. -/
theorem assignLeaf_of_left (hleft : o.next < leafCount o) :
    ∃ (k : Job) (m : Change), assignLeaf ctx j s =
        setJob ctx k (mirror m (putObj (handleSlot j.hdr.keyA) { o with next := o.next + 1 } s))
      ∧ k.leaf = some o.next := by
  rw [assignLeaf, hkey]
  exact ⟨_, _, if_neg (Nat.not_le_of_lt hleft), rfl⟩

/-- What LEAF_ASSIGN makes of the job and of its key. -/
theorem assignLeaf_spec :
    (o.next < leafCount o →
        (∃ k, getJob (assignLeaf ctx j s) ctx = some k ∧ k.leaf = some o.next)
        ∧ ∃ k, tget (assignLeaf ctx j s).vault.objs (handleSlot j.hdr.keyA) = some k
            ∧ k.next = o.next + 1 ∧ k.mat = o.mat)
      ∧ (leafCount o ≤ o.next → Holds (assignLeaf ctx j s) ctx { status := stKeyExhausted }
          ∧ (assignLeaf ctx j s).vault = s.vault) := by
  refine ⟨fun hleft => ?left, fun hnone => ?exhausted⟩
  case left =>
    obtain ⟨k, m, hassign, hleaf⟩ := assignLeaf_of_left (ctx := ctx) hkey hleft
    rw [hassign]
    refine ⟨⟨k, getJob_setJob .., hleaf⟩, ?_⟩
    rw [setJob_vault, mirror_vault, putObj, tget_tput_self]
    exact ⟨_, rfl, rfl, rfl⟩
  case exhausted =>
    rw [assignLeaf_of_exhausted hkey hnone]
    exact ⟨refuseJob_holds .., by simp⟩

end

/-! ### The signature (09 R270, R273) -/

/-- A signature is followed by the eight bytes of REMAINING. -/
theorem leafSign_of_leaf {j : Job} {n : Nat} {o : KeyObj} (s : State) (hleaf : j.leaf = some n) (hkey : j.keyA = some o) :
    ∃ sig, (leafSign j s).2 = { out := sig ++ leBytes 8 (leafCount o - (n + 1)) } ∧ sig.length = statefulSig j := by
  simp only [leafSign, hleaf, hkey, Option.getD_some]
  exact ⟨_, rfl, crypto_length ..⟩

/-- Settles O12, by an entry of a build stream that writes its job alone, by the assignment of the next leaf, and by
the signature with REMAINING behind it. -/
theorem statefulKeysAnswer : Obligations.StatefulKeysAnswer := by
  unfold Obligations.StatefulKeysAnswer
  refine ⟨answers_cons ?lmsBuild ?xmssBuild, fun g hg ctx s j o hj hready hop hleaf hholder hkey => ?assign,
    fun g hg ctx s j h => ?sign⟩
  case lmsBuild => exact answers_of_buildEntry fun _ _ => rfl
  case xmssBuild => exact answers_of_buildEntry fun _ _ => rfl
  case assign =>
    refine ⟨_, ?_, assignLeaf_spec (ctx := ctx) hkey⟩
    rw [exec_leafRows g hg, ← hop, leafRow_of_ready hj hready hleaf hholder]
  case sign =>
    rw [exec_leafRows g hg, leafRow_of_jobFor h]
    refine ⟨_, _, rfl, answered_holds .., fun n o hleaf hkey => ?_⟩
    obtain ⟨sig, hres, hlen⟩ := leafSign_of_leaf s hleaf hkey
    rw [hres]
    refine ⟨rfl, ?_, List.drop_left' hlen⟩
    rw [List.length_append, hlen, leBytes_length]

end Sys2Proof.Machine
end

section
/-! The random opcodes: what an RNG_BYTES segment makes of its job, and what ENT_STATUS answers and is released with
(10 R300, R301). -/

namespace Sys2Proof.Machine

/-! ### RNG_BYTES (10 R300) -/

/-- The job after a segment that has taken the bytes reserved for it: it holds none, and wants those of the next one. -/
def drawnJob (j : Job) (s : State) : Job :=
  let out := j.partialOut ++ j.rnd.take (min 2048 (j.hdr.outMax - j.partialOut.length))
  { j with
    partialOut := out, rnd := [], drawWait := false, entNeed := min 2048 (j.hdr.outMax - out.length)
    entSince := s.sched.pitch }

theorem drawnJob_entNeed (j : Job) (s : State) :
    (drawnJob j s).entNeed = min 2048 (j.hdr.outMax - (drawnJob j s).partialOut.length) := rfl

section
variable {ctx : Nat} {s : State} {j : Job}

theorem exec_rngBytes (h : jobFor s ctx 0x600 = some j) (hwait : j.drawWait = true) :
    exec (.rngBytes ctx) s = .next (
      if (drawnJob j s).entNeed = 0 then stageDone ctx (drawnJob j s) { out := (drawnJob j s).partialOut } s
      else reserveDraw ctx (drawnJob j s).entNeed (setJob ctx (drawnJob j s) s)) := by
  have hdraws : (jobFor s ctx 0x600).filter (fun j => j.drawWait) = some j :=
    Option.filter_eq_some_iff.mpr ⟨h, hwait⟩
  change execRngBytes ctx s = _
  rw [execRngBytes, hdraws]
  rfl

/-- The segment that completes OUT_MAX answers all bytes. -/
theorem exec_rngBytes_of_complete (h : jobFor s ctx 0x600 = some j) (hwait : j.drawWait = true)
    (hdone : j.hdr.outMax ≤ (drawnJob j s).partialOut.length) :
    exec (.rngBytes ctx) s = .next (stageDone ctx (drawnJob j s) { out := (drawnJob j s).partialOut } s) := by
  have hneed : (drawnJob j s).entNeed = 0 := by
    rw [drawnJob_entNeed]
    omega
  rw [exec_rngBytes h hwait, if_pos hneed]

/-- A segment before the last reserves the bytes of the next one. -/
theorem exec_rngBytes_of_short (h : jobFor s ctx 0x600 = some j) (hwait : j.drawWait = true)
    (hshort : (drawnJob j s).partialOut.length < j.hdr.outMax) :
    exec (.rngBytes ctx) s = .next (reserveDraw ctx (drawnJob j s).entNeed (setJob ctx (drawnJob j s) s)) := by
  have hneed : (drawnJob j s).entNeed ≠ 0 := by
    rw [drawnJob_entNeed]
    omega
  rw [exec_rngBytes h hwait, if_neg hneed]

end

/-! ### ENT_STATUS (10 R301) -/

theorem exec_entStatus {ctx : Nat} {s : State} {j : Job} (h : jobFor s ctx 0x608 = some j) :
    ∃ b, exec (.entStatus ctx) s = .next (stageDone ctx j { out := b } s) ∧ b.length = 16 := by
  change ∃ b, execEntStatus ctx s = _ ∧ _
  rw [execEntStatus, h]
  exact ⟨_, rfl, by simp⟩

theorem stampPitch_of_entStatus {j : Job} {r : Res} (b : Nat) (hop : j.hdr.opcode = 0x608) (hok : r.status = stOk) :
    stampPitch j b r = { r with out := r.out.take 8 ++ leBytes 8 b } := if_pos ⟨hop, hok⟩

theorem releaseAll_of_single {s : State} {ctx b : Nat} {j : Job} {r : Res} (hjobs : s.sched.jobs = [(ctx, j)])
    (hr : j.result = some r) (hrel : releasable s b j = true) :
    releaseAll b s = releaseJob ctx j (stampPitch j b r) b s := by
  have hj : getJob s ctx = some j := by simp [getJob, hjobs, tget]
  simp [releaseAll, hjobs, hj, hr, hrel]

/-- Settles O15, by the two ways that a segment of RNG_BYTES can go, and by the pitch that a release stamps. -/
theorem randomOpcodesAnswer : Obligations.RandomOpcodesAnswer := by
  unfold Obligations.RandomOpcodesAnswer
  refine ⟨fun ctx s j h hwait => ?bytes, fun p hp ctx s j h => ?status,
    fun s ctx b j r hjobs hop hr hok hrel => ?release⟩
  case bytes =>
    obtain ⟨-, -, -, hres⟩ := jobFor_spec h
    rcases Nat.lt_or_ge (drawnJob j s).partialOut.length j.hdr.outMax with hshort | hdone
    · refine ⟨_, drawnJob j s, exec_rngBytes_of_short h hwait hshort, ?_, rfl, rfl, ?_, fun _ => ⟨hres, rfl⟩⟩
      · rw [getJob_reserveDraw, getJob_setJob]
      · exact fun hle => absurd hshort (Nat.not_lt_of_le hle)
    · refine ⟨_, _, exec_rngBytes_of_complete h hwait hdone, getJob_setJob .., rfl, rfl, fun _ => rfl, ?_⟩
      exact fun hlt => absurd hlt (Nat.not_lt_of_le hdone)
  case status =>
    obtain rfl := List.mem_singleton.mp hp
    obtain ⟨b, hexec, hlen⟩ := exec_entStatus h
    obtain ⟨hholds, -, -⟩ := stage_spec ctx { j with workDone := true } { out := b } s
    exact ⟨_, _, hexec, hholds, jobAlone_stage .., rfl, hlen⟩
  case release => rw [releaseAll_of_single hjobs hr hrel, stampPitch_of_entStatus b hop hok]

end Sys2Proof.Machine
end

section
/-! What the entropy subsystem keeps where units are fenced and where faults are captured, and what a quarantine and a
stop of conditioning make of the banks (10 R294, R295). -/

namespace Sys2Proof.Machine

/-! ### Operations that leave the entropy subsystem as it is -/

@[simp] theorem degrade_ent (s : State) : (degrade s).ent = s.ent := rfl
@[simp] theorem degrade_units (s : State) : (degrade s).units = s.units := rfl

@[simp] theorem mirror_ent (c : Change) (s : State) : (mirror c s).ent = s.ent :=
  (congrArg State.ent (besideQuorum_mirror c s) :)

@[simp] theorem ropeSend_ent (cls : Nat) (b : RopeBody) (s : State) : (ropeSend cls b s).ent = s.ent :=
  (congrArg State.ent (besideQuorum_ropeSend cls b s) :)

@[simp] theorem burnLeaf_ent (j : Job) (s : State) : (burnLeaf j s).ent = s.ent := by simp [burnLeaf]

@[simp] theorem unmakeSlot_ent (s : State) (slot : Nat) : (unmakeSlot s slot).ent = s.ent := by
  unfold unmakeSlot
  split
  · rfl
  · exact mirror_ent ..

theorem unmakeFold_ent : ∀ (l : List Nat) (s : State), (l.foldl unmakeSlot s).ent = s.ent
  | [], _ => rfl
  | slot :: l, s => (unmakeFold_ent l (unmakeSlot s slot)).trans (unmakeSlot_ent s slot)

@[simp] theorem unmake_ent (j : Job) (s : State) : (unmake j s).ent = s.ent := by
  unfold unmake
  dsimp only
  split
  · rfl
  · rw [mirror_ent, unmakeFold_ent]

@[simp] theorem dropStream_ent (slot id : Nat) (s : State) : (dropStream slot id s).ent = s.ent := by
  unfold dropStream
  dsimp only
  split
  · exact mirror_ent ..
  · rfl

@[simp] theorem endStreamId_ent (slot id o : Nat) (s : State) : (endStreamId slot id o s).ent = s.ent := by
  unfold endStreamId
  dsimp only
  split
  · rfl
  · exact dropStream_ent ..

@[simp] theorem endStreamOf_ent (j : Job) (s : State) : (endStreamOf j s).ent = s.ent := by
  unfold endStreamOf
  split
  · exact endStreamId_ent ..
  · split
    · exact endStreamId_ent ..
    · rfl

@[simp] theorem forwardOrRefuse_ent (ctx : Nat) (j : Job) (s : State) : (forwardOrRefuse ctx j s).ent = s.ent := by
  unfold forwardOrRefuse leaveAt
  split
  · simp [forwardJob]
  · simp [refuseJob, endJob]

@[simp] theorem autoOff_ent (u : Nat) (s : State) : (autoOff u s).ent = s.ent := by
  unfold autoOff
  dsimp only
  repeat' split
  all_goals rfl

/-! ### A fence -/

/-- A job that starts over asks for its bytes again: nothing else of the entropy subsystem changes. -/
theorem restartJob_ent (ctx bad nb : Nat) (s : State) :
    { (restartJob ctx bad nb s).ent with jobQ := s.ent.jobQ } = s.ent := by
  unfold restartJob
  split
  · rfl
  · dsimp only
    split
    · unfold startOver reserveDraw
      dsimp only
      split <;> simp
    · simp

theorem fenceUnit_ent (u nb : Nat) (s : State) : { (fenceUnit u nb s).ent with jobQ := s.ent.jobQ } = s.ent := by
  unfold fenceUnit
  dsimp only
  split
  · rfl
  · rw [autoOff_ent]
    split
    · exact restartJob_ent ..
    · rfl

@[simp] theorem fenceUnit_banks (u nb : Nat) (s : State) : (fenceUnit u nb s).ent.banks = s.ent.banks :=
  (congrArg Ent.banks (fenceUnit_ent u nb s) :)

@[simp] theorem fenceUnit_starting (u nb : Nat) (s : State) : (fenceUnit u nb s).ent.starting = s.ent.starting :=
  (congrArg Ent.starting (fenceUnit_ent u nb s) :)

/-! ### Banks -/

theorem getBank_congr {s t : State} (h : t.ent.banks = s.ent.banks) (b : Nat) : getBank t b = getBank s b := by
  rw [getBank, h, getBank]

@[simp] theorem getBank_raise (n : Nat) (s : State) (b : Nat) : getBank (raise n s) b = getBank s b :=
  getBank_congr (congrArg Ent.banks (raise_ent s n)) b

/-- Banks that are all changed by a function that leaves a bank without a record as it is. -/
theorem getBank_tmap {s t : State} {f : Nat → Bank → Bank} (h : t.ent.banks = tmap s.ent.banks f)
    (hf : ∀ b, f b {} = {}) (b : Nat) : getBank t b = f b (getBank s b) := by
  rw [getBank, h, getBank, tgetD, tgetD, tget_tmap]
  cases tget s.ent.banks b with
  | none => exact (hf b).symm
  | some k => rfl

/-- A bank in quarantine: the cause, the cell of a test of one cell, the pitch, and no pending blocks (10 R294). -/
def quarantinedBank (k : Bank) (cause cell pitch : Nat) : Bank :=
  { k with st := 4, cause := cause, cell := if cause ≤ 2 then cell else 0, pitch := pitch, pendingBlocks := [] }

theorem quarantine_ent (b cause cell : Nat) (s : State) :
    (quarantine b cause cell s).ent = (setBank b (quarantinedBank (getBank s b) cause cell s.sched.pitch) s).ent := by
  simp [quarantine, quarantinedBank]

@[simp] theorem quarantine_units (b cause cell : Nat) (s : State) : (quarantine b cause cell s).units = s.units := by
  simp [quarantine]

@[simp] theorem quarantine_starting (b cause cell : Nat) (s : State) :
    (quarantine b cause cell s).ent.starting = s.ent.starting := by
  rw [quarantine_ent, setBank]

theorem getBank_quarantine (b cause cell : Nat) (s : State) :
    getBank (quarantine b cause cell s) b = quarantinedBank (getBank s b) cause cell s.sched.pitch :=
  (getBank_congr (congrArg Ent.banks (quarantine_ent ..)) b).trans (getBank_setBank ..)

theorem getBank_quarantine_ne {b n : Nat} (cause cell : Nat) (s : State) (h : n ≠ b) :
    getBank (quarantine b cause cell s) n = getBank s n :=
  (getBank_congr (congrArg Ent.banks (quarantine_ent ..)) n).trans (getBank_setBank_ne _ _ h)

theorem quarantine_pend (b cause cell : Nat) (s : State) : (irqOf (quarantine b cause cell s) 6).pend = true :=
  raise_pend _ 6 (by omega)

/-! ### A stop of conditioning (10 R295) -/

/-- A bank stands where it has no pending blocks: a stop drops nothing else of it. -/
theorem getBank_entStop (b : Nat) (s : State) :
    getBank (entStop s) b = getBank s b ∨ getBank (entStop s) b = { getBank s b with pendingBlocks := [] } := by
  unfold entStop
  dsimp only
  split
  · exact .inl rfl
  · exact .inr (getBank_tmap (f := fun _ k => { k with pendingBlocks := [] }) (by simp) (fun _ => rfl) b)

theorem getBank_entStop_of_drained {b : Nat} {s : State} (h : (getBank s b).pendingBlocks = []) :
    getBank (entStop s) b = getBank s b := by
  rcases getBank_entStop b s with he | he
  · exact he
  · rw [he, ← h]

@[simp] theorem getBank_entStop_st (b : Nat) (s : State) : (getBank (entStop s) b).st = (getBank s b).st := by
  rcases getBank_entStop b s with he | he <;> rw [he]

@[simp] theorem entStop_units (s : State) : (entStop s).units = s.units := by
  unfold entStop
  dsimp only
  split
  · rfl
  · simp

theorem entStop_starting {s : State} (h : s.ent.starting = false) : (entStop s).ent.starting = false := by
  unfold entStop
  dsimp only
  split
  · exact h
  · simp

theorem entStop_pend {s : State} (h : (irqOf s 6).pend = true) : (irqOf (entStop s) 6).pend = true := by
  unfold entStop
  dsimp only
  split
  · exact h
  · exact raise_pend _ 6 (by omega)

end Sys2Proof.Machine
end

section
/-! The startup of the entropy subsystem: the banks and conditioners before and after its tests, and the opening of its
output (10 R293). -/

namespace Sys2Proof.Machine

/-! ### One step for each of several places -/

/-- Steps that each make `h` of what `g` reads at their place and leave it at every other: one at each place of a list,
where doing it twice makes no difference. -/
theorem foldl_at_places {σ τ : Type} {f : σ → Nat → σ} {g : σ → Nat → τ} {h : τ → τ}
    (hself : ∀ t n, g (f t n) n = h (g t n)) (hne : ∀ t {n m}, m ≠ n → g (f t n) m = g t m)
    (hidem : ∀ x, h (h x) = h x) :
    ∀ (l : List Nat) (t : σ) (m : Nat), g (l.foldl f t) m = if m ∈ l then h (g t m) else g t m
  | [], t, m => by simp
  | n :: l, t, m => by
    rw [List.foldl_cons, foldl_at_places hself hne hidem l]
    by_cases hm : m = n
    · subst hm
      simp [hself, hidem]
    · simp [hm, hne t hm]

/-! ### The start -/

/-- A bank starts with no record of the tests but its latest estimates; one in quarantine stays there. -/
def startBank (t : Tab Bank) (b : Nat) : Tab Bank :=
  let k := tgetD t b {}
  if k.st = 4 then t else tput t b { st := 3, bias := k.bias, corr := k.corr, windows := k.windows }

theorem startBank_self (t : Tab Bank) (b : Nat) :
    (tgetD (startBank t b) b {}).st = if (tgetD t b {}).st = 4 then 4 else 3 := by
  unfold startBank
  dsimp only
  split
  · assumption
  · simp [tgetD]

theorem startBank_ne (t : Tab Bank) {b n : Nat} (h : n ≠ b) : tgetD (startBank t b) n {} = tgetD t n {} := by
  unfold startBank
  dsimp only
  split
  · rfl
  · simp [tgetD, tget_tput_ne _ _ h]

theorem startBanks_st {b : Nat} (t : Tab Bank) (hb : b < 16) :
    (tgetD ((List.range 16).foldl startBank t) b {}).st = if (tgetD t b {}).st = 4 then 4 else 3 := by
  rw [foldl_at_places (g := fun t b => (tgetD t b {}).st) (h := fun st => if st = 4 then 4 else 3) startBank_self
    (fun t _ _ h => congrArg Bank.st (startBank_ne t h)) (fun x => by split <;> simp) _ t b,
    if_pos (List.mem_range.mpr hb)]

/-- The state where the banks have started. -/
def banksStarted (s : State) : State :=
  { s with ent := { s.ent with starting := true, banks := (List.range 16).foldl startBank s.ent.banks } }

theorem getBank_banksStarted_st (s : State) {b : Nat} (hb : b < 16) :
    (getBank (banksStarted s) b).st = if (getBank s b).st = 4 then 4 else 3 := by
  have hbanks : (banksStarted s).ent.banks = (List.range 16).foldl startBank s.ent.banks := by rw [banksStarted]
  rw [getBank, hbanks, startBanks_st _ hb, getBank]

theorem exec_entropyStartup {s : State} (hdie : dieOn s = true) (hdom : domOn s 14 = true)
    (hstarting : s.ent.starting = false) (hopen : s.ent.isOpen = false) :
    exec .entropyStartup s = .next (raise 6 (banksStarted s)) :=
  congrArg Host.Outcome.next (if_pos (by simp [hdie, hdom, hstarting, hopen]))

/-! ### The end of the tests -/

/-- A starting bank that is not among the bad ones is healthy, with windows that open now. -/
def testedBank (badBanks : List Nat) (s : State) (b : Nat) (k : Bank) : Bank :=
  if k.st = 3 && !badBanks.contains b then newWindows s { k with st := 1, lastRecal := s.sched.pitch } else k

/-- The state where the starting banks that have passed are healthy. -/
def banksTested (badBanks : List Nat) (s : State) : State :=
  { s with ent := { s.ent with starting := false, banks := tmap s.ent.banks (testedBank badBanks s) } }

/-- The banks that have not passed. -/
def failedBanks (s : State) : List Nat := (List.range 16).filter fun b => (getBank s b).st == 3

/-- A conditioner that is not fenced goes into service. -/
def conditionerUp (s : State) (c : Nat) : State :=
  if (unitRec s (108 + c)).st = .fenced then s
  else setUnit (108 + c) { unitRec s (108 + c) with st := .inService, lastPass := s.sched.pitch } s

/-- The state before conditioning starts: banks are healthy or in quarantine, conditioners in service or fenced. -/
def startupTested (badBanks badConds : List Nat) (s : State) : State :=
  let s1 := banksTested badBanks s
  let s2 := (failedBanks s1).foldl (fun t b => quarantine b 8 0 t) s1
  let s3 := (List.range 4).foldl conditionerUp s2
  ((List.range 4).filter fun c => badConds.contains c).foldl (fun t c => condFault c t) s3

theorem exec_entropyStartupTestsEnd (badBanks badConds : List Nat) {s : State} (h : s.ent.starting = true) :
    exec (.entropyStartupTestsEnd badBanks badConds) s =
      .next (raise 6 (entStop (startupTested badBanks badConds s))) := by
  change execEntropyStartupTestsEnd badBanks badConds s = _
  rw [execEntropyStartupTestsEnd, if_pos h]
  rfl

theorem getBank_banksTested (badBanks : List Nat) (s : State) (b : Nat) :
    getBank (banksTested badBanks s) b = testedBank badBanks s b (getBank s b) :=
  getBank_tmap rfl (fun _ => rfl) b

theorem conditionerUp_ent (s : State) (c : Nat) : (conditionerUp s c).ent = s.ent := by
  unfold conditionerUp
  split <;> rfl

theorem conditionerUp_self (s : State) (c : Nat) : (unitRec (conditionerUp s c) (108 + c)).st =
    if (unitRec s (108 + c)).st = .fenced then .fenced else .inService := by
  unfold conditionerUp
  split
  · assumption
  · simp

theorem conditionerUp_ne (s : State) {c d : Nat} (h : d ≠ c) :
    unitRec (conditionerUp s c) (108 + d) = unitRec s (108 + d) := by
  unfold conditionerUp
  split
  · rfl
  · exact getUnit_setUnit_ne s _ (by omega)

/-! ### A conditioner that fails its test -/

theorem dropConditioner_units (c : Nat) (s : State) : (dropConditioner c s).units = s.units := by simp [dropConditioner]

theorem dropConditioner_starting (c : Nat) (s : State) : (dropConditioner c s).ent.starting = s.ent.starting := by
  simp [dropConditioner]

theorem getBank_dropConditioner_st (c : Nat) (s : State) (b : Nat) :
    (getBank (dropConditioner c s) b).st = (getBank s b).st := by
  rw [getBank_tmap (s := s) (f := fun _ k => { k with pendingBlocks := k.pendingBlocks.filter (·.cond != c) })
    (by simp [dropConditioner]) (fun _ => rfl) b]

theorem unitRec_congr {s t : State} (h : t.units = s.units) (u : Nat) : unitRec t u = unitRec s u := by
  rw [unitRec, h, unitRec]

theorem unitRec_condFault (c : Nat) (s : State) (u : Nat) :
    unitRec (condFault c s) u =
      unitRec (fenceUnit (108 + c) (s.sched.pitch + 2) (dropConditioner c (collect 449 2 c s))) u :=
  unitRec_congr (by simp [condFault]) u

theorem condFault_self (c : Nat) (s : State) : (unitRec (condFault c s) (108 + c)).st = .fenced := by
  rw [unitRec_condFault, fenceUnit_fenced]

theorem condFault_ne (s : State) {c d : Nat} (h : d ≠ c) :
    unitRec (condFault c s) (108 + d) = unitRec s (108 + d) := by
  rw [unitRec_condFault, fenceUnit_ne _ _ (by omega)]
  exact unitRec_congr (by rw [dropConditioner_units, collect_units]) _

theorem getBank_condFault_st (c : Nat) (s : State) (b : Nat) : (getBank (condFault c s) b).st = (getBank s b).st := by
  rw [condFault, getBank_raise, getBank_entStop_st, getBank_congr (fenceUnit_banks ..), getBank_dropConditioner_st,
    getBank_congr (congrArg Ent.banks (collect_ent ..))]

theorem condFault_starting {c : Nat} {s : State} (h : s.ent.starting = false) :
    (condFault c s).ent.starting = false := by
  rw [condFault, raise_ent]
  refine entStop_starting ?_
  rw [fenceUnit_starting, dropConditioner_starting, collect_ent, h]

/-! ### The end of the tests, place by place -/

section
variable (badBanks badConds : List Nat) (s : State)

theorem startupTested_starting : (startupTested badBanks badConds s).ent.starting = false := by
  have off (l : List Nat) {f : State → Nat → State} {t : State} (ht : t.ent.starting = false)
      (hf : ∀ t n, t.ent.starting = false → (f t n).ent.starting = false) : (l.foldl f t).ent.starting = false :=
    List.foldlRecOn l f (motive := fun t => t.ent.starting = false) ht fun t ht n _ => hf t n ht
  refine off _ (off _ (off _ rfl ?quarantine) ?up) ?fault
  case quarantine => exact fun t b h => (quarantine_starting b 8 0 t).trans h
  case up => exact fun t c h => (congrArg Ent.starting (conditionerUp_ent t c)).trans h
  case fault => exact fun t c h => condFault_starting h

/-- Only the quarantine of banks that have failed changes the state of a bank after the tests. -/
theorem startupTested_bank_st (b : Nat) : (getBank (startupTested badBanks badConds s) b).st =
    if b ∈ failedBanks (banksTested badBanks s) then 4 else (getBank (banksTested badBanks s) b).st := by
  have keeps (l : List Nat) {f : State → Nat → State} (hf : ∀ t n, (getBank (f t n) b).st = (getBank t b).st)
      (t : State) : (getBank (l.foldl f t) b).st = (getBank t b).st :=
    List.foldlRecOn l f (motive := fun u => (getBank u b).st = (getBank t b).st) rfl fun u hu n _ => (hf u n).trans hu
  have hup (t : State) (c : Nat) : (getBank (conditionerUp t c) b).st = (getBank t b).st :=
    congrArg Bank.st (getBank_congr (congrArg Ent.banks (conditionerUp_ent t c)) b)
  rw [startupTested, keeps _ (fun t c => getBank_condFault_st c t b), keeps _ hup]
  exact foldl_at_places (f := fun t b => quarantine b 8 0 t) (g := fun t b => (getBank t b).st) (h := fun _ => 4)
    (fun t b => congrArg Bank.st (getBank_quarantine b 8 0 t))
    (fun t _ _ h => congrArg Bank.st (getBank_quarantine_ne 8 0 t h)) (fun _ => rfl) _ _ b

theorem testedBank_st (b : Nat) (k : Bank) :
    (testedBank badBanks s b k).st = if k.st = 3 ∧ b ∉ badBanks then 1 else k.st := by
  by_cases h : k.st = 3 <;> by_cases hb : b ∈ badBanks <;> simp [testedBank, h, hb, newWindows]

/-- A bank fails that was starting and is among the bad ones. -/
theorem mem_failedBanks {b : Nat} :
    b ∈ failedBanks (banksTested badBanks s) ↔ b < 16 ∧ (getBank s b).st = 3 ∧ b ∈ badBanks := by
  rw [failedBanks, List.mem_filter, List.mem_range, beq_iff_eq, getBank_banksTested, testedBank_st]
  by_cases h : (getBank s b).st = 3 <;> simp [h]

theorem startupTested_of_starting {b : Nat} (hb : b < 16) (h : (getBank s b).st = 3) :
    (getBank (startupTested badBanks badConds s) b).st = if b ∈ badBanks then 4 else 1 := by
  rw [startupTested_bank_st, getBank_banksTested, testedBank_st]
  by_cases hbad : b ∈ badBanks <;> simp [mem_failedBanks, h, hb, hbad]

theorem startupTested_of_not_starting {b : Nat} (h : (getBank s b).st ≠ 3) :
    (getBank (startupTested badBanks badConds s) b).st = (getBank s b).st := by
  rw [startupTested_bank_st, getBank_banksTested, testedBank_st]
  simp [mem_failedBanks, h]

theorem startupTested_conditioner {c : Nat} (hc : c < 4) :
    (unitRec (startupTested badBanks badConds s) (108 + c)).st =
      if (unitRec s (108 + c)).st = .fenced ∨ c ∈ badConds then .fenced else .inService := by
  have hquarantine (l : List Nat) :
      (l.foldl (fun t b => quarantine b 8 0 t) (banksTested badBanks s)).units = s.units := by
    have hstart : (banksTested badBanks s).units = s.units := rfl
    exact List.foldlRecOn l _ (motive := fun t => t.units = s.units) hstart fun t ht b _ =>
      (quarantine_units b 8 0 t).trans ht
  have hfault := foldl_at_places (f := fun t c => condFault c t) (g := fun t c => (unitRec t (108 + c)).st)
    (h := fun _ => .fenced) (fun t c => condFault_self c t) (fun t _ _ h => congrArg UnitRec.st (condFault_ne t h))
    (fun _ => rfl)
  have hup := foldl_at_places (f := conditionerUp) (g := fun t c => (unitRec t (108 + c)).st)
    (h := fun st => if st = .fenced then .fenced else .inService) conditionerUp_self
    (fun t _ _ h => congrArg UnitRec.st (conditionerUp_ne t h)) (fun x => by split <;> simp)
  rw [startupTested, hfault, hup, unitRec_congr (hquarantine _), if_pos (List.mem_range.mpr hc)]
  by_cases hbad : c ∈ badConds
  · simp [hc, hbad]
  · by_cases hfenced : (unitRec s (108 + c)).st = .fenced <;> simp [hbad, hfenced]

end

/-! ### The opening of the output -/

theorem refillSalts_ent (k : Nat) (s : State) : (refillSalts k s).ent =
    { s.ent with internalQ := s.ent.internalQ ++ List.replicate k (.salts, 4) } := by
  unfold refillSalts
  split
  next h => simp [h]
  next => rfl

theorem refillSalts_world (k : Nat) (s : State) : (refillSalts k s).world = s.world := by
  unfold refillSalts
  split <;> rfl

theorem exec_entropyOutputOpen {s : State} (hopening : s.ent.opening = true) (hstopped : s.ent.stopped = false)
    (hopen : s.ent.isOpen = false) :
    ∃ k, exec .entropyOutputOpen s =
      .next (refillSalts k (raise 6 { s with ent := { s.ent with isOpen := true, opening := false } })) := by
  have hopens : (s.ent.opening && !s.ent.stopped && !s.ent.isOpen) = true := by simp [hopening, hstopped, hopen]
  exact ⟨_, congrArg Host.Outcome.next (if_pos hopens)⟩

end Sys2Proof.Machine
end

section
/-! The running tests, the conditioners and the pool of the entropy subsystem, and what all its rows settle
(10 R284-R288, R294, R295). -/

namespace Sys2Proof.Machine

/-! ### A test that fails (10 R284, R285, R294) -/

theorem exec_healthTestFail {bank cause v : Nat} (cell : Nat) {s : State} (hb : bank < 16)
    (hst : (getBank s bank).st = 1) (hfails : testFails (getBank s bank) cause v = true) :
    exec (.healthTestFail bank cause cell v) s =
      .next (entStop (quarantine bank cause (cell % 64) (failedWindow bank cause v s))) :=
  congrArg Host.Outcome.next (if_pos ⟨hst, hb, hfails⟩)

theorem failedWindow_sched (bank cause v : Nat) (s : State) : (failedWindow bank cause v s).sched = s.sched := by
  unfold failedWindow
  split <;> rfl

theorem getBank_failedWindow_ne {bank b : Nat} (cause v : Nat) (s : State) (h : b ≠ bank) :
    getBank (failedWindow bank cause v s) b = getBank s b := by
  unfold failedWindow
  split
  · rfl
  · exact getBank_setBank_ne (useBytes 10 s) _ h

/-- An estimator that fails ends a window of its bank, and BIAS is the value that failed where it was that. -/
theorem getBank_failedWindow {cause : Nat} (bank v : Nat) (s : State) (h : 3 ≤ cause) :
    let k := getBank (failedWindow bank cause v s) bank
    k.windows = satAdd 32 (getBank s bank).windows 1 ∧ (cause = 3 → k.bias = BitVec.ofNat 16 v) := by
  rw [failedWindow, if_neg (Nat.not_lt_of_le h)]
  dsimp only
  rw [getBank_setBank]
  refine ⟨rfl, fun h3 => ?_⟩
  subst h3
  rfl

/-- After a stop the bank stands as its quarantine has left it. -/
theorem getBank_entStop_quarantine (b cause cell : Nat) (s : State) :
    getBank (entStop (quarantine b cause cell s)) b = quarantinedBank (getBank s b) cause cell s.sched.pitch := by
  have hbank := getBank_quarantine b cause cell s
  rw [getBank_entStop_of_drained (by rw [hbank]; rfl), hbank]

theorem entStop_quarantine_st_ne {b n : Nat} (cause cell : Nat) (s : State) (h : n ≠ b) :
    (getBank (entStop (quarantine b cause cell s)) n).st = (getBank s n).st := by
  rw [getBank_entStop_st, getBank_quarantine_ne cause cell s h]

/-! ### An estimator window (10 R285, R286) -/

/-- Whether estimate `i` of a window is out of the threshold that its bank took when the window opened. -/
def windowBad (k : Bank) (ests : List Nat) (i : Nat) : Bool :=
  estBad (nthD ests i 0) (if i = 0 then k.thr.1 else k.thr.2)

/-- The bank after a window: its estimates are recorded, the window counts, and the next one opens. -/
def windowedBank (s : State) (ests : List Nat) (k : Bank) : Bank :=
  { k with
    bias := BitVec.ofNat 16 (nthD ests 0 0), corr := (List.range' 1 4).map fun i => BitVec.ofNat 16 (nthD ests i 0)
    windows := satAdd 32 k.windows 1, thr := windowThr s }

section
variable {bank : Nat} (ones : Nat) (corrs : List Nat) {s : State} (hb : bank < 16) (hst : (getBank s bank).st = 1)
include hb hst

theorem exec_estimatorWindowClose_of_none
    (hgood : ∀ i < 5, windowBad (getBank s bank) (estimates s ones corrs) i = false) :
    exec (.estimatorWindowClose bank ones corrs) s =
      .next (setBank bank (windowedBank s (estimates s ones corrs) (getBank s bank)) (useBytes 10 s)) := by
  have hfind : (List.range 5).find? (windowBad (getBank s bank) (estimates s ones corrs)) = none :=
    List.find?_eq_none.mpr fun i hi => ne_true_of_eq_false (hgood i (List.mem_range.mp hi))
  refine congrArg Host.Outcome.next ((if_pos ⟨hst, hb⟩).trans ?_)
  unfold windowBad at hfind
  rw [hfind]
  rfl

theorem exec_estimatorWindowClose_of_bad
    (hbad : ∃ i, i < 5 ∧ windowBad (getBank s bank) (estimates s ones corrs) i = true) :
    ∃ i, i < 5 ∧ windowBad (getBank s bank) (estimates s ones corrs) i = true
      ∧ exec (.estimatorWindowClose bank ones corrs) s = .next (entStop (quarantine bank (3 + i) 0
          (setBank bank (windowedBank s (estimates s ones corrs) (getBank s bank)) (useBytes 10 s)))) := by
  obtain ⟨n, hn, hnbad⟩ := hbad
  obtain ⟨i, hfind⟩ := Option.isSome_iff_exists.mp (List.find?_isSome.mpr ⟨n, List.mem_range.mpr hn, hnbad⟩)
  refine ⟨i, List.mem_range.mp (List.mem_of_find?_eq_some hfind), List.find?_some hfind, ?_⟩
  refine congrArg Host.Outcome.next ((if_pos ⟨hst, hb⟩).trans ?_)
  unfold windowBad at hfind
  rw [hfind]
  rfl

end

/-! ### A conditioner's block (10 R287, R288) -/

/-- The block that a conditioner makes of an input block. -/
def conditionedBlock (cond : Nat) (s : State) : Block := { cond, bytes := crypto .hash [algSha3x256] [inputBlock s] 32 }

/-- A bank has one more pending block, and the turn passes to the next bank. -/
def blockPending (cond bank : Nat) (s : State) : State :=
  let k := getBank s bank
  let t := setBank bank { k with pendingBlocks := k.pendingBlocks ++ [conditionedBlock cond s] } (useBytes 1024 s)
  { t with ent := { t.ent with rr := (bank + 1) % 16 } }

theorem exec_conditionerBlockDone {cond bank : Nat} {s : State} (hc : cond < 4)
    (hserves : inService s (108 + cond) = true) (hidle : unitIdle s s.sched.pitch (108 + cond) = true)
    (hfree : (unitRec s (108 + cond)).reserved = false) (hnext : nextBank s = some bank) (hroom : 0 < poolRoom s)
    (hheld : (s.ent.banks.map fun p => p.2.pendingBlocks.length).foldl (· + ·) 0 < 1024)
    (hruns : s.ent.stopped = false) :
    exec (.conditionerBlockDone cond bank) s = .next (blockPending cond bank s) :=
  congrArg Host.Outcome.next (if_pos (by simp [hc, hserves, hidle, hfree, hnext, hroom, hheld, hruns]))

/-! ### The close of an APT window (10 R288, R293) -/

/-- The blocks of a bank that move to the pool. -/
def validated (s : State) (k : Bank) : Nat := min k.pendingBlocks.length (poolRoom s)

/-- The bank after the close: the blocks without room stay, and the next window has the cutoffs in force. -/
def aptClosedBank (s : State) (k : Bank) : Bank :=
  { k with
    pendingBlocks := (k.pendingBlocks.drop (validated s k)).map fun x => { x with tested := true }, cut := windowCut s }

/-- The pool after the close. -/
def aptPool (s : State) (k : Bank) : List Byte :=
  s.ent.pool ++ ((k.pendingBlocks.take (validated s k)).map fun x => x.bytes).flatten

theorem exec_aptWindowClose {bank : Nat} {s : State} (hb : bank < 16) (hst : (getBank s bank).st = 1) :
    ∃ t, exec (.aptWindowClose bank) s = .next t
      ∧ t.ent = { s.ent with
          banks := tput s.ent.banks bank (aptClosedBank s (getBank s bank))
          pool := aptPool s (getBank s bank)
          opening := s.ent.opening
            || (!s.ent.isOpen && !s.ent.stopped && decide (4096 ≤ (aptPool s (getBank s bank)).length)) } := by
  refine ⟨_, congrArg Host.Outcome.next (if_pos ⟨hst, hb⟩), ?_⟩
  dsimp only
  rw [bump_ent]
  rfl

/-! ### The statement -/

/-- Settles O47, by one equation for each row: the startup and its tests place by place, the bank that a quarantine
leaves where conditioning may stop after it, and the blocks between the banks and the pool. -/
theorem noiseIsTestedAndPooled : Obligations.NoiseIsTestedAndPooled := by
  unfold Obligations.NoiseIsTestedAndPooled
  refine ⟨?startup, ?testsEnd, ?testFail, ?estimators, ?conditioner, ?aptClose, ?outputOpen⟩
  case startup =>
    intro s hdie hdom hstarting hopen
    refine ⟨_, exec_entropyStartup hdie hdom hstarting hopen, raise_pend _ 6 (by omega), ?frame, ?flag,
      fun b hb => ?bank⟩
    case frame =>
      rw [raise, if_neg (by omega), banksStarted]
      dsimp only
      rw [← hstarting]
    case flag => rw [raise_ent, banksStarted]
    case bank => rw [getBank_raise, getBank_banksStarted_st s hb]
  case testsEnd =>
    intro bad conds s hstarting
    refine ⟨_, exec_entropyStartupTestsEnd bad conds hstarting, ?done, fun b hb hst => ?tested,
      fun b _ hst => ?untested, fun c hc => ?service⟩
    case done =>
      rw [raise_ent]
      exact entStop_starting (startupTested_starting bad conds s)
    case tested => rw [getBank_raise, getBank_entStop_st, startupTested_of_starting bad conds s hb hst]
    case untested => rw [getBank_raise, getBank_entStop_st, startupTested_of_not_starting bad conds s hst]
    case service =>
      rw [unitRec_congr (raise_units ..), unitRec_congr (entStop_units ..)]
      exact startupTested_conditioner bad conds s hc
  case testFail =>
    intro bank cause cell v s hb hst hfails
    refine ⟨_, exec_healthTestFail cell hb hst hfails, ?_⟩
    rw [getBank_entStop_quarantine, failedWindow_sched]
    refine ⟨rfl, rfl, rfl, rfl, fun h3 => ?bias, fun h3 => ?windows, rfl, entStop_pend (quarantine_pend ..),
      fun b hne => ?others⟩
    case bias =>
      obtain ⟨-, hbias⟩ := getBank_failedWindow bank v s (Nat.le_of_eq h3.symm)
      exact hbias h3
    case windows =>
      obtain ⟨hwindows, -⟩ := getBank_failedWindow bank v s h3
      exact hwindows
    case others => rw [entStop_quarantine_st_ne _ _ _ hne, getBank_failedWindow_ne _ _ _ hne]
  case estimators =>
    intro bank ones corrs s hb hst
    refine ⟨fun hgood => ?good, fun hbad => ?bad⟩
    case good =>
      refine ⟨_, exec_estimatorWindowClose_of_none ones corrs hb hst hgood, rfl, getBank_setBank .., fun b hne => ?_⟩
      exact getBank_setBank_ne (useBytes 10 s) _ hne
    case bad =>
      obtain ⟨i, hi, hibad, hexec⟩ := exec_estimatorWindowClose_of_bad ones corrs hb hst hbad
      refine ⟨_, hexec, ?_⟩
      rw [getBank_entStop_quarantine]
      exact ⟨rfl, ⟨i, hi, hibad, rfl⟩, rfl⟩
  case conditioner =>
    intro cond bank s hc hserves hidle hfree hnext hroom hheld hruns
    refine ⟨_, exec_conditionerBlockDone hc hserves hidle hfree hnext hroom hheld hruns, rfl, rfl, ?pending,
      fun b hne => ?same⟩
    case pending => exact getBank_setBank (useBytes 1024 s) bank _
    case same => exact getBank_setBank_ne (useBytes 1024 s) _ hne
  case aptClose =>
    intro bank s hb hst
    obtain ⟨t, hexec, hent⟩ := exec_aptWindowClose hb hst
    refine ⟨t, hexec, ?fifo, ?pool, ?closed, fun hopen hruns hfull => ?opening⟩
    case fifo => rw [hent]
    case pool =>
      rw [hent]
      rfl
    case closed =>
      rw [getBank, hent, tgetD, tget_tput_self]
      rfl
    case opening =>
      rw [hent] at hfull ⊢
      simpa [hopen, hruns] using .inr hfull
  case outputOpen =>
    intro s hopening hruns hopen
    obtain ⟨k, hexec⟩ := exec_entropyOutputOpen hopening hruns hopen
    refine ⟨_, hexec, ?_⟩
    rw [refillSalts_ent, raise_ent, irqOf, refillSalts_world, ← irqOf]
    exact ⟨rfl, rfl, rfl, rfl, raise_pend _ 6 (by omega)⟩

end Sys2Proof.Machine
end
